-- ==== Sys2Proof/Word.lean ====
section
/-! DEFINITION. The word types of the PX9 and the plainest views of them (R2, R3). -/

namespace Sys2Proof

/-- One byte of memory (R3). -/
abbrev Byte := BitVec 8

/-- One 32-bit vector register element (R67). -/
abbrev Elem32 := BitVec 32

/-- One 64-bit value: a scalar, an address, a PC (R71). -/
abbrev W64 := BitVec 64

/-- One instruction word (R95). -/
abbrev Word96 := BitVec 96

/-- A Bool as one bit. -/
def bit (b : Bool) : BitVec 1 := if b then 1 else 0

end Sys2Proof
end

