-- ==== Sys2Proof/Syntax.lean ====
section
/-! DEFINITION. The steps of the part as syntax: one constructor of `Instr` for each row of the
operation table. 171 rows are instructions with a 96-bit word (R95, R119); 76 rows are steps of the
package itself (a register write, an arbiter decision, an engine's completion). -/

namespace Sys2Proof

/-- The types of Table 7-1 (R111). -/
inductive Ty where
  | i8 | i32 | i64 | i16 | n8 | n32 | n64 | n16 | b32 | b64
  | f32 | f64 | f16 | bf16 | e4m3 | e5m2 | e3m2 | e2m3 | e2m1 | x64
  deriving DecidableEq, Repr

/-- The comparison codes of R113. -/
inductive Cmp where
  | eq | ne | lt | le | gt | ge | ltn | len | gtn | gen | any | all
  deriving DecidableEq, Repr

/-- The matrix format codes of R113. -/
inductive MxFmt where
  | e4m3 | e5m2 | e3m2 | e2m3 | e2m1 | bf16 | f16 | i8
  deriving DecidableEq, Repr

/-- An operand field, read under Table 6-2 (R98). `special` holds indices 8 and above of class 10. -/
inductive Operand where
  /-- class 00: vector register vn -/
  | v (n : BitVec 6)
  /-- class 01: scalar sn -/
  | s (n : BitVec 6)
  /-- class 10, index 0-7: predicate pn -/
  | p (n : BitVec 3)
  /-- class 10, index 8-255: special and supervisor registers -/
  | special (i : BitVec 8)
  /-- class 11: the short immediate k, or the discarded destination -/
  | k (v : BitVec 8)
  deriving DecidableEq, Repr

/-- The rounding modes of MOD.RND (R95, R127). -/
inductive Rnd where
  | rn | rz | rp | rm
  deriving DecidableEq, Repr

/-- The guard field (R100). -/
structure Guard where
  pred : BitVec 3
  neg : Bool
  deriving DecidableEq, Repr

/-- The hint field; WAITC holds the two wait bits, since codes 100-111 are reserved (R91). -/
structure Hints where
  waitc : BitVec 2
  rub : Bool
  rua : Bool
  yld : Bool
  stall : BitVec 4
  deriving DecidableEq, Repr

/-- The MOD field (R95). -/
structure Mods where
  om : Bool
  rnd : Rnd
  sat : Bool
  fzo : Bool
  fzi : Bool
  deriving DecidableEq, Repr

/-- What every instruction word holds besides its operands (R95). -/
structure Head where
  guard : Guard
  hints : Hints
  mods : Mods
  deriving DecidableEq, Repr

/-- Scope codes (Table 12-1). -/
inductive Scope where
  | grp | blk | clu | dev | sys
  deriving DecidableEq, Repr

/-- Order codes of the memory instructions (Table 12-1). -/
inductive MemOrd where
  | none | rlx | acq | rel | ar
  deriving DecidableEq, Repr

/-- Order codes of `fence` (R119). -/
inductive FenceOrd where
  | acq | rel | ar
  deriving DecidableEq, Repr

/-- CP of Table 12-1. -/
inductive CachePolicy where
  | normal | strm | l2
  deriving DecidableEq, Repr

/-- CNT of Table 12-1: elements per lane. -/
inductive ElemCount where
  | one | two | four
  deriving DecidableEq, Repr

/-- X[75:54] of the memory instructions (Table 12-1). -/
structure MemMod where
  off : BitVec 12
  cp : CachePolicy
  cnt : ElemCount
  scope : Scope
  ord : MemOrd
  deriving DecidableEq, Repr

/-- X[75:54] of `rowld` (Table 12-8). -/
structure RowLdMod where
  lag : BitVec 16
  stl : Bool
  ver : Bool
  km1 : BitVec 4
  deriving DecidableEq, Repr

/-- X[75:54] of `rowst` and `rowadd` (Table 12-8). -/
structure RowStMod where
  eoff : BitVec 11
  km1 : BitVec 4
  deriving DecidableEq, Repr

/-- X of `rep` (Table 6-3). -/
structure RepMod where
  cstep : BitVec 4
  bstep : BitVec 4
  astep : BitVec 4
  dstep : BitVec 4
  cntm : BitVec 6
  deriving DecidableEq, Repr

/-- X of `wcnt` (R145). -/
structure WcntMod where
  ldmax : BitVec 8
  stmax : BitVec 8
  deriving DecidableEq, Repr

/-- X[75:54] of `lea` (R154). -/
structure LeaMod where
  sh : BitVec 3
  sxb : Bool
  deriving DecidableEq, Repr

/-- The lane reductions of Table 9-4 (R162). -/
inductive LaneOp where
  | add | min | max | and | or | xor
  deriving DecidableEq, Repr

/-- The forms of `vote` (R159). -/
inductive VoteOp where
  | any | all | ballot
  deriving DecidableEq, Repr

/-- The forms of `shfl` (R160). -/
inductive ShflOp where
  | idx | up | down | xor
  deriving DecidableEq, Repr

/-- The tile shapes of Table 15-1. -/
inductive Shape where
  | s32x32 | s64x32 | s32x64 | s64x64 | s128x32 | s32x128
  deriving DecidableEq, Repr

/-- SHAPE and KM1 of `mma` and `mmas` (Table 15-1). -/
structure TileMod where
  shape : Shape
  km1 : BitVec 4
  deriving DecidableEq, Repr

/-- MXV and SV of `mmav` (Table 15-1). -/
structure VecTileMod where
  sv : BitVec 6
  mxv : Bool
  deriving DecidableEq, Repr

/-- SHAPE and DMEM of `acc.st` (Table 15-1). -/
structure StTileMod where
  shape : Shape
  dmem : Bool
  deriving DecidableEq, Repr

/-- REL/RSCOPE and ACQ/ASCOPE of the engine commands (Table 15-1); an absent order has scope 0. -/
structure OrdMod where
  rel : Option Scope
  acq : Option Scope
  deriving DecidableEq, Repr

/-- The context that issues: group `g` of block `bid`, or the supervisor slot of scheduler `sched`
of a unit (a crown-die core by its number, a root core by 0x8000 + its index; R397). -/
inductive Ctx where
  | grp (bid g : Nat)
  | sup (unit sched : Nat)
  deriving DecidableEq, Repr

/-- The agents of Table 20-6 (R440). -/
inductive Agent where
  | core (n : Nat)
  | rootDie (stack : Nat)
  | crownDie (d : Nat)
  | host
  | peer (a : Nat)
  | expander (port : Nat)
  deriving DecidableEq, Repr

/-- The operations of a PCIe or UALink atomic (R431, R435). -/
inductive BusAtomic where
  | add | swap | cas
  deriving DecidableEq, Repr

/-- A host or peer access to device memory, by physical address (R434, R436). -/
inductive HostAccess where
  | read (pa n : Nat)
  | write (pa : Nat) (bytes : List Byte)
  | atomic (op : BusAtomic) (wide : Bool) (pa : Nat) (x y : W64)
  deriving DecidableEq, Repr

/-- An incoming UALink request (R436) from accelerator `src`. -/
structure PeerRequest where
  src : Nat
  acc : HostAccess
  deriving DecidableEq, Repr

/-- Snoops of a host-window half line (R433). -/
inductive SnoopKind where
  | inv | data | cur
  deriving DecidableEq, Repr

/-- The host port modes of Table 20-3. -/
inductive PortMode where
  | pcie | cxl
  deriving DecidableEq, Repr

/-- Every row of the operation table. An instruction's arguments are its head, its type or function
codes, its operand fields in the order OD, OA, OB, C, and its X modifiers. -/
inductive Instr where
  /-- `MODULE_RESET`, a step of the package (R8, R19, R22, R129). -/
  | moduleReset
  /-- `BOOTCMD_GO`, a step of the package (R19, R444). -/
  | bootcmdGo (v : BitVec 64)
  /-- `ATTESTATION_REQUEST`, a step of the package (R445). -/
  | attestationRequest (hpa : BitVec 64)
  /-- `KEY_LOAD`, a step of the package (R446). -/
  | keyLoad (hpa : BitVec 64)
  /-- `KEY_CLEAR`, a step of the package (R446). -/
  | keyClear (hpa : BitVec 64)
  /-- `MEMCNT_WRITE`, a step of the package (R21). -/
  | memcntWrite (v : BitVec 64)
  /-- `QCTL_WRITE`, a step of the package (R39, R40). -/
  | qctlWrite (q : Nat) (v : BitVec 64)
  /-- `QPI_DOORBELL`, a step of the package (R39, R40). -/
  | qpiDoorbell (q : Nat) (v : BitVec 64)
  /-- `PARTITION_WRITE`, a step of the package (R50, R51, R52, R53). -/
  | partitionWrite (p : Nat) (off : Nat) (v : BitVec 64)
  /-- `ARBITER_DECISION`, a step of the package (R20, R27, R29, R31). -/
  | arbiterDecision
  /-- `PLACEMENT_DECISION`, a step of the package (R46, R47, R48, R54). -/
  | placementDecision
  /-- `STARVATION_TIMEOUT`, a step of the package (R47). -/
  | starvationTimeout (lid : Nat)
  /-- `STAGE_SAMPLE`, a step of the package (R59). -/
  | stageSample
  /-- `PREEMPT_CLUSTER`, a step of the package (R74, R104, R214, R231). -/
  | preemptCluster (lid : Nat) (stg : Nat) (cidx : Nat)
  /-- `CONTEXT_RESTORE`, a step of the package (R46, R62, R64, R74). -/
  | contextRestore (lid : Nat) (stg : Nat) (cidx : Nat)
  /-- `BLOCK_EXIT_COMPLETE`, a step of the package (R54, R56, R58, R66). -/
  | blockExitComplete (bid : Nat)
  /-- `LAUNCH_RETIRE`, a step of the package (R32, R38, R43, R54). -/
  | launchRetire (lid : Nat)
  /-- `LCANCEL`, a step of the package (R426). -/
  | lcancel (v : BitVec 64)
  /-- `FCCTL_WRITE`, a step of the package (R427). -/
  | fcctlWrite (v : BitVec 64)
  /-- `FAULT_RECORD_WRITE`, a step of the package (R428, R429). -/
  | faultRecordWrite
  /-- `FRESP`, a step of the package (R409, R428). -/
  | fresp (v : BitVec 64)
  /-- `SVREQ_SAVE`, a step of the package (R430). -/
  | svreqSave (v : BitVec 64)
  /-- `SVREQ_READY`, a step of the package (R430). -/
  | svreqReady (v : BitVec 64)
  /-- `SVREQ_DISCARD`, a step of the package (R430). -/
  | svreqDiscard (v : BitVec 64)
  /-- `HBEAT`, a step of the package (R440). -/
  | hbeat (v : BitVec 64)
  /-- `RATE_WRITE`, a step of the package (R454). -/
  | rateWrite (i : Nat) (v : BitVec 64)
  /-- `BERR_WRITE`, a step of the package (R327). -/
  | berrWrite (r : Nat) (i : Nat) (v : BitVec 64)
  /-- `REGISTER_WRITE`, a step of the package (R7, R20, R39, R427). -/
  | registerWrite (byHost : Bool) (adr : Nat) (v : BitVec 64)
  /-- `HOST_MEMORY_ACCESS`, a step of the package (R352, R379, R434, R444). -/
  | hostMemoryAccess (acc : HostAccess)
  /-- `HOST_SNOOP`, a step of the package (R353, R433, R476). -/
  | hostSnoop (kind : SnoopKind) (half : Nat) (data : Option (BitVec 512))
  /-- `UALINK_INCOMING_REQUEST`, a step of the package (R436). -/
  | ualinkIncomingRequest (req : PeerRequest)
  /-- `L1_WRITEBACK`, a step of the package (R195, R203, R261, R352). -/
  | l1Writeback (core : Nat) (line : Nat)
  /-- `L2_EVICTION`, a step of the package (R203, R261, R262, R407). -/
  | l2Eviction (line : Nat)
  /-- `MIGRATION_FILL`, a step of the package (R201, R202, R454). -/
  | migrationFill (die : Nat)
  /-- `LOAD_COMPLETE`, a step of the package (R23, R92, R93, R94). -/
  | loadComplete (c : Ctx) (k : Nat)
  /-- `STORE_PERFORMED`, a step of the package (R92, R93, R209). -/
  | storePerformed (c : Ctx) (k : Nat)
  /-- `STALL_EXPIRY`, a step of the package (R89, R91). -/
  | stallExpiry (c : Ctx)
  /-- `GRANULE_ACCESS_PERFORM`, a step of the package (R214). -/
  | granuleAccessPerform (u : Nat) (gran : Nat)
  /-- `MATRIX_START`, a step of the package (R263, R265, R266). -/
  | matrixStart (core : Nat)
  /-- `MATRIX_COMPLETE`, a step of the package (R84, R137, R138, R267). -/
  | matrixComplete (core : Nat) (k : Nat)
  /-- `IDLE_SELF_TEST`, a step of the package (R277, R278). -/
  | idleSelfTest (core : Nat) (sub : Nat)
  /-- `ENGINE_REPORT`, a step of the package (R302, R303). -/
  | engineReport (core : Nat) (k : Nat) (n : Nat)
  /-- `ENGINE_COMMAND_COMPLETE`, a step of the package (R257, R283, R486). -/
  | engineCommandComplete (core : Nat) (k : Nat)
  /-- `ENGINE_FAULT`, a step of the package (R284). -/
  | engineFault (core : Nat) (k : Nat)
  /-- `RCALL_DELIVER`, a step of the package (R314). -/
  | rcallDeliver (k : Nat)
  /-- `ROOT_CALL_PLACE`, a step of the package (R193, R307, R315, R316). -/
  | rootCallPlace (r : Nat)
  /-- `ROOT_BLOCK_RETURN`, a step of the package (R302, R319, R414). -/
  | rootBlockReturn (bid : Nat)
  /-- `BNK_COMMAND_COMPLETE`, a step of the package (R125, R193, R323, R325). -/
  | bnkCommandComplete (r : Nat)
  /-- `LANDING_PACKET_ARRIVAL`, a step of the package (R134, R135, R330, R331). -/
  | landingPacketArrival (k : Nat)
  /-- `LANDING_STAGING_ADMIT`, a step of the package (R332). -/
  | landingStagingAdmit (stack : Nat)
  /-- `PHASE_END`, a step of the package (R228, R230, R237, R348). -/
  | phaseEnd (lid : Nat)
  /-- `WATCH_ARM`, a step of the package (R351, R356). -/
  | watchArm (c : Ctx)
  /-- `WATCH_TIMEOUT`, a step of the package (R258, R354, R356). -/
  | watchTimeout (k : Nat)
  /-- `FRONTIER_PUBLISH`, a step of the package (R241, R367, R374, R376). -/
  | frontierPublish (lid : Nat)
  /-- `TASK_DISPATCH`, a step of the package (R370, R371, R372). -/
  | taskDispatch (lid : Nat)
  /-- `TASK_SPILL_ENGINE`, a step of the package (R369, R395, R454). -/
  | taskSpillEngine (lid : Nat)
  /-- `CAPACITY_ABORT`, a step of the package (R381, R383, R395). -/
  | capacityAbort (lid : Nat)
  /-- `SPAWN_CAPACITY_ABORT`, a step of the package (R384). -/
  | spawnCapacityAbort (lid : Nat)
  /-- `TASK_COMMIT`, a step of the package (R259, R385, R395). -/
  | taskCommit (lid : Nat)
  /-- `TRAP_DELIVERY`, a step of the package (R12, R83, R133, R230). -/
  | trapDelivery (c : Ctx)
  /-- `CORE_CLOCK_GATE`, a step of the package (R358, R447). -/
  | coreClockGate (u : Nat)
  /-- `CORE_POWER_GATE`, a step of the package (R51, R358, R447). -/
  | corePowerGate (u : Nat)
  /-- `CORE_WAKE`, a step of the package (R358, R447). -/
  | coreWake (u : Nat)
  /-- `THERMAL_SAMPLE`, a step of the package (R440, R448). -/
  | thermalSample (die : Nat) (deg : Nat)
  /-- `HEARTBEAT_MISSED`, a step of the package (R440, R441, R442). -/
  | heartbeatMissed (agent : Agent)
  /-- `HOST_WATCHDOG_TIMEOUT`, a step of the package (R440, R441). -/
  | hostWatchdogTimeout
  /-- `COMPLETION_TIMEOUT`, a step of the package (R431, R440, R441). -/
  | completionTimeout (agent : Agent)
  /-- `PATH_LOSS_TIMEOUT`, a step of the package (R440, R441, R442). -/
  | pathLossTimeout (agent : Agent)
  /-- `PEER_REQUEST_TIMEOUT`, a step of the package (R440, R441). -/
  | peerRequestTimeout (peer : Nat)
  /-- `LINK_DOWN`, a step of the package (R440, R441, R442). -/
  | linkDown (agent : Agent)
  /-- `NOP` (R146). -/
  | nop (h : Head)
  /-- `REP` (R92, R101, R102, R103). -/
  | rep (h : Head) (r : RepMod)
  /-- `BRA` (R78, R79, R86, R141). -/
  | bra (h : Head) (x : BitVec 32)
  /-- `BRX` (R78, R79, R141). -/
  | brx (h : Head) (a : Operand)
  /-- `CALL` (R67, R68, R69, R78). -/
  | call (h : Head) (x : BitVec 32)
  /-- `CALLX` (R67, R68, R69, R78). -/
  | callx (h : Head) (a : Operand)
  /-- `RET` (R67, R68, R69, R78). -/
  | ret (h : Head)
  /-- `EXIT` (R86, R143, R231, R335). -/
  | exit (h : Head)
  /-- `TRAP` (R144). -/
  | trap (h : Head) (x : BitVec 32)
  /-- `BKPT` (R144). -/
  | bkpt (h : Head) (x : BitVec 32)
  /-- `WCNT` (R145). -/
  | wcnt (h : Head) (l : WcntMod)
  /-- `YIELD` (R91, R146). -/
  | yield (h : Head)
  /-- `SRGET` (R73, R147, R401). -/
  | srget (h : Head) (d : Operand) (a : Operand)
  /-- `SRSET` (R73, R132, R148, R401). -/
  | srset (h : Head) (d : Operand) (a : Operand)
  /-- `SRSET_SEED` (R129, R149). -/
  | srsetSeed (h : Head) (a : Operand)
  /-- `RTI` (R70, R104, R284, R321). -/
  | rti (h : Head)
  /-- `TLBINV` (R189, R418). -/
  | tlbinv (h : Head) (a : Operand) (b : Operand)
  /-- `ICINV` (R81, R419). -/
  | icinv (h : Head) (a : Operand) (b : Operand)
  /-- `IFENCE` (R81, R420). -/
  | ifence (h : Head)
  /-- `CTXSW_SAVE` (R421). -/
  | ctxswSave (h : Head) (a : Operand)
  /-- `CTXSW_READY` (R421). -/
  | ctxswReady (h : Head) (a : Operand)
  /-- `CTXSW_DISCARD` (R421). -/
  | ctxswDiscard (h : Head) (a : Operand)
  /-- `CTXSW_POOL` (R411, R421). -/
  | ctxswPool (h : Head) (a : Operand)
  /-- `ISPSN` (R422). -/
  | ispsn (h : Head) (d : Operand) (a : Operand)
  /-- `CLRPSN` (R422). -/
  | clrpsn (h : Head) (d : Operand)
  /-- `WSAVE` (R70, R423). -/
  | wsave (h : Head)
  /-- `WREST` (R423). -/
  | wrest (h : Head)
  /-- `ADD` (R131, R150, R404). -/
  | add (h : Head) (ty : Ty) (d : Operand) (a : Operand) (b : Operand)
  /-- `SUB` (R131, R150). -/
  | sub (h : Head) (ty : Ty) (d : Operand) (a : Operand) (b : Operand)
  /-- `MUL` (R131, R150). -/
  | mul (h : Head) (ty : Ty) (d : Operand) (a : Operand) (b : Operand)
  /-- `MULHI` (R150). -/
  | mulhi (h : Head) (ty : Ty) (d : Operand) (a : Operand) (b : Operand)
  /-- `MAD` (R150). -/
  | mad (h : Head) (ty : Ty) (d : Operand) (a : Operand) (b : Operand) (c : Operand)
  /-- `MADW` (R150). -/
  | madw (h : Head) (ty : Ty) (d : Operand) (a : Operand) (b : Operand) (c : Operand)
  /-- `NEG` (R150). -/
  | neg (h : Head) (ty : Ty) (d : Operand) (a : Operand)
  /-- `ABS` (R150). -/
  | abs (h : Head) (ty : Ty) (d : Operand) (a : Operand)
  /-- `MIN` (R150). -/
  | min (h : Head) (ty : Ty) (d : Operand) (a : Operand) (b : Operand)
  /-- `MAX` (R150). -/
  | max (h : Head) (ty : Ty) (d : Operand) (a : Operand) (b : Operand)
  /-- `AND` (R151). -/
  | and (h : Head) (ty : Ty) (d : Operand) (a : Operand) (b : Operand)
  /-- `AND_IMM` (R151). -/
  | andImm (h : Head) (ty : Ty) (d : Operand) (a : Operand) (x : BitVec 32)
  /-- `OR` (R151). -/
  | or (h : Head) (ty : Ty) (d : Operand) (a : Operand) (b : Operand)
  /-- `OR_IMM` (R151). -/
  | orImm (h : Head) (ty : Ty) (d : Operand) (a : Operand) (x : BitVec 32)
  /-- `XOR` (R151). -/
  | xor (h : Head) (ty : Ty) (d : Operand) (a : Operand) (b : Operand)
  /-- `XOR_IMM` (R151). -/
  | xorImm (h : Head) (ty : Ty) (d : Operand) (a : Operand) (x : BitVec 32)
  /-- `NOT` (R151). -/
  | not (h : Head) (ty : Ty) (d : Operand) (a : Operand)
  /-- `SHL` (R151). -/
  | shl (h : Head) (ty : Ty) (d : Operand) (a : Operand) (b : Operand)
  /-- `SHR` (R151). -/
  | shr (h : Head) (ty : Ty) (d : Operand) (a : Operand) (b : Operand)
  /-- `SAR` (R151). -/
  | sar (h : Head) (ty : Ty) (d : Operand) (a : Operand) (b : Operand)
  /-- `ROL` (R151). -/
  | rol (h : Head) (ty : Ty) (d : Operand) (a : Operand) (b : Operand)
  /-- `BFE` (R152). -/
  | bfe (h : Head) (ty : Ty) (d : Operand) (a : Operand) (b : Operand) (c : Operand)
  /-- `BFI` (R152). -/
  | bfi (h : Head) (ty : Ty) (d : Operand) (a : Operand) (b : Operand) (c : Operand)
  /-- `POPC` (R151). -/
  | popc (h : Head) (ty : Ty) (d : Operand) (a : Operand)
  /-- `CLZ` (R151). -/
  | clz (h : Head) (ty : Ty) (d : Operand) (a : Operand)
  /-- `BREV` (R151). -/
  | brev (h : Head) (ty : Ty) (d : Operand) (a : Operand)
  /-- `SEL` (R153, R404). -/
  | sel (h : Head) (ty : Ty) (d : Operand) (a : Operand) (b : Operand) (c : Operand)
  /-- `MOV` (R153). -/
  | mov (h : Head) (ty : Ty) (d : Operand) (a : Operand)
  /-- `MOVI` (R153). -/
  | movi (h : Head) (ty : Ty) (d : Operand) (x : BitVec 32)
  /-- `LEA` (R154). -/
  | lea (h : Head) (ty : Ty) (d : Operand) (a : Operand) (b : Operand) (m : LeaMod)
  /-- `IDOT4` (R155). -/
  | idot4 (h : Head) (ty : Ty) (d : Operand) (a : Operand) (b : Operand) (c : Operand)
  /-- `SAD` (R155). -/
  | sad (h : Head) (ty : Ty) (d : Operand) (a : Operand) (b : Operand) (c : Operand)
  /-- `PAND` (R157). -/
  | pand (h : Head) (d : Operand) (a : Operand) (b : Operand)
  /-- `POR` (R157). -/
  | por (h : Head) (d : Operand) (a : Operand) (b : Operand)
  /-- `PXOR` (R157). -/
  | pxor (h : Head) (d : Operand) (a : Operand) (b : Operand)
  /-- `PNOT` (R157). -/
  | pnot (h : Head) (d : Operand) (a : Operand)
  /-- `VOTE` (R87, R158, R159). -/
  | vote (h : Head) (vm : VoteOp) (d : Operand) (a : Operand)
  /-- `SHFL` (R87, R158, R160, R404). -/
  | shfl (h : Head) (sm : ShflOp) (d : Operand) (a : Operand) (b : Operand)
  /-- `BCAST` (R158, R161). -/
  | bcast (h : Head) (ty : Ty) (d : Operand) (a : Operand) (b : Operand)
  /-- `LRED` (R87, R158, R162). -/
  | lred (h : Head) (ty : Ty) (d : Operand) (a : Operand) (op : LaneOp)
  /-- `LSCAN` (R87, R158, R162). -/
  | lscan (h : Head) (ty : Ty) (d : Operand) (a : Operand) (op : LaneOp)
  /-- `CMP` (R156). -/
  | cmp (h : Head) (cc : Cmp) (ty : Ty) (d : Operand) (a : Operand) (b : Operand)
  /-- `CMP_IMM` (R156). -/
  | cmpImm (h : Head) (cc : Cmp) (ty : Ty) (d : Operand) (a : Operand) (x : BitVec 32)
  /-- `FADD` (R126, R127, R130, R132). -/
  | fadd (h : Head) (ty : Ty) (d : Operand) (a : Operand) (b : Operand)
  /-- `FSUB` (R165, R166). -/
  | fsub (h : Head) (ty : Ty) (d : Operand) (a : Operand) (b : Operand)
  /-- `FMUL` (R127, R130, R164, R165). -/
  | fmul (h : Head) (ty : Ty) (d : Operand) (a : Operand) (b : Operand)
  /-- `FMA` (R126, R130, R163, R165). -/
  | fma (h : Head) (ty : Ty) (d : Operand) (a : Operand) (b : Operand) (c : Operand)
  /-- `FMIN` (R167). -/
  | fmin (h : Head) (ty : Ty) (d : Operand) (a : Operand) (b : Operand)
  /-- `FMAX` (R167). -/
  | fmax (h : Head) (ty : Ty) (d : Operand) (a : Operand) (b : Operand)
  /-- `FCLASS` (R169). -/
  | fclass (h : Head) (ty : Ty) (d : Operand) (a : Operand)
  /-- `FRINT` (R170). -/
  | frint (h : Head) (ty : Ty) (d : Operand) (a : Operand)
  /-- `FDOT2` (R175). -/
  | fdot2 (h : Head) (ty : Ty) (d : Operand) (a : Operand) (b : Operand) (c : Operand)
  /-- `PACK` (R176). -/
  | pack (h : Head) (ty : Ty) (d : Operand) (a : Operand) (b : Operand)
  /-- `PACK_SR` (R128, R129, R176). -/
  | packSr (h : Head) (ty : Ty) (d : Operand) (a : Operand) (b : Operand)
  /-- `UNPACK` (R177). -/
  | unpack (h : Head) (ty : Ty) (d : Operand) (a : Operand) (b : Operand)
  /-- `MXSCALE` (R178). -/
  | mxscale (h : Head) (ty : Ty) (d : Operand) (a : Operand) (b : Operand)
  /-- `FCVT` (R126, R127, R163, R171). -/
  | fcvt (h : Head) (ty : Ty) (d : Operand) (a : Operand)
  /-- `FCVT_SR` (R128, R129, R171). -/
  | fcvtSr (h : Head) (ty : Ty) (d : Operand) (a : Operand)
  /-- `FCVT_TO_F32` (R126, R172). -/
  | fcvtToF32 (h : Head) (ty : Ty) (d : Operand) (a : Operand)
  /-- `ICVT` (R173). -/
  | icvt (h : Head) (ft : Ty) (it : Ty) (d : Operand) (a : Operand)
  /-- `FCVTI` (R174). -/
  | fcvti (h : Head) (ft : Ty) (it : Ty) (d : Operand) (a : Operand)
  /-- `RCP` (R179, R180, R181). -/
  | rcp (h : Head) (ty : Ty) (d : Operand) (a : Operand)
  /-- `RSQ` (R179, R180, R181). -/
  | rsq (h : Head) (ty : Ty) (d : Operand) (a : Operand)
  /-- `SQRT` (R165, R166). -/
  | sqrt (h : Head) (ty : Ty) (d : Operand) (a : Operand)
  /-- `EXP2` (R179, R180, R181). -/
  | exp2 (h : Head) (ty : Ty) (d : Operand) (a : Operand)
  /-- `LOG2` (R179, R180, R181). -/
  | log2 (h : Head) (ty : Ty) (d : Operand) (a : Operand)
  /-- `SINPI` (R179, R180, R181). -/
  | sinpi (h : Head) (ty : Ty) (d : Operand) (a : Operand)
  /-- `COSPI` (R179, R180, R181). -/
  | cospi (h : Head) (ty : Ty) (d : Operand) (a : Operand)
  /-- `TANH` (R179, R180, R181). -/
  | tanh (h : Head) (ty : Ty) (d : Operand) (a : Operand)
  /-- `FDIV` (R165, R166). -/
  | fdiv (h : Head) (ty : Ty) (d : Operand) (a : Operand) (b : Operand)
  /-- `FCMP` (R168). -/
  | fcmp (h : Head) (cc : Cmp) (ty : Ty) (d : Operand) (a : Operand) (b : Operand)
  /-- `LD` (R7, R20, R23, R93). -/
  | ld (h : Head) (ty : Ty) (d : Operand) (a : Operand) (m : MemMod)
  /-- `ST` (R7, R23, R93, R182). -/
  | st (h : Head) (ty : Ty) (a : Operand) (b : Operand) (m : MemMod)
  /-- `LDSP` (R213, R286, R305). -/
  | ldsp (h : Head) (ty : Ty) (d : Operand) (a : Operand)
  /-- `STSP` (R213, R305). -/
  | stsp (h : Head) (ty : Ty) (a : Operand) (b : Operand)
  /-- `LDFE` (R193, R194, R213, R214). -/
  | ldfe (h : Head) (ty : Ty) (d : Operand) (a : Operand)
  /-- `STFE` (R193, R194, R213, R214). -/
  | stfe (h : Head) (ty : Ty) (a : Operand) (b : Operand)
  /-- `LDSTB` (R199, R215, R260). -/
  | ldstb (h : Head) (ty : Ty) (d : Operand) (a : Operand)
  /-- `PREF` (R206, R216). -/
  | pref (h : Head) (a : Operand) (m : MemMod)
  /-- `CFLUSH` (R217). -/
  | cflush (h : Head) (a : Operand) (b : Operand)
  /-- `CINV` (R217). -/
  | cinv (h : Head) (a : Operand) (b : Operand)
  /-- `FENCE` (R212, R218). -/
  | fence (h : Head) (o : FenceOrd) (sc : Scope)
  /-- `FENCE_REMOTE` (R219, R253). -/
  | fenceRemote (h : Head) (a : Operand)
  /-- `ATOM_ADD` (R23, R134, R135, R198). -/
  | atomAdd (h : Head) (ty : Ty) (d : Operand) (a : Operand) (b : Operand) (m : MemMod)
  /-- `ATOM_MIN` (R220, R221, R222). -/
  | atomMin (h : Head) (ty : Ty) (d : Operand) (a : Operand) (b : Operand) (m : MemMod)
  /-- `ATOM_MAX` (R220, R221, R222). -/
  | atomMax (h : Head) (ty : Ty) (d : Operand) (a : Operand) (b : Operand) (m : MemMod)
  /-- `ATOM_AND` (R220, R221, R222). -/
  | atomAnd (h : Head) (ty : Ty) (d : Operand) (a : Operand) (b : Operand) (m : MemMod)
  /-- `ATOM_OR` (R220, R221, R222). -/
  | atomOr (h : Head) (ty : Ty) (d : Operand) (a : Operand) (b : Operand) (m : MemMod)
  /-- `ATOM_XOR` (R220, R221, R222). -/
  | atomXor (h : Head) (ty : Ty) (d : Operand) (a : Operand) (b : Operand) (m : MemMod)
  /-- `ATOM_EXCH` (R220, R221, R222). -/
  | atomExch (h : Head) (ty : Ty) (d : Operand) (a : Operand) (b : Operand) (m : MemMod)
  /-- `ATOM_CAS` (R220, R221, R222, R224). -/
  | atomCas (h : Head) (ty : Ty) (d : Operand) (a : Operand) (b : Operand) (c : Operand) (m : MemMod)
  /-- `ARED_ADD` (R134, R206, R223, R225). -/
  | aredAdd (h : Head) (ty : Ty) (a : Operand) (b : Operand) (m : MemMod)
  /-- `ARED_MIN` (R225, R226, R227). -/
  | aredMin (h : Head) (ty : Ty) (a : Operand) (b : Operand) (m : MemMod)
  /-- `ARED_MAX` (R225, R226, R227). -/
  | aredMax (h : Head) (ty : Ty) (a : Operand) (b : Operand) (m : MemMod)
  /-- `AFLUSH` (R229, R230, R237, R239). -/
  | aflush (h : Head)
  /-- `ROWLD` (R125, R232, R233, R234). -/
  | rowld (h : Head) (ty : Ty) (d : Operand) (a : Operand) (b : Operand) (m : RowLdMod)
  /-- `ROWST` (R232, R233, R234, R236). -/
  | rowst (h : Head) (ty : Ty) (a : Operand) (b : Operand) (m : RowStMod)
  /-- `ROWADD` (R225, R227, R232, R233). -/
  | rowadd (h : Head) (ty : Ty) (a : Operand) (b : Operand) (m : RowStMod)
  /-- `MMA` (R87, R265, R269, R271). -/
  | mma (h : Head) (fa : MxFmt) (fb : MxFmt) (d : Operand) (a : Operand) (b : Operand) (m : TileMod)
  /-- `MMAS` (R271, R275, R287, R288). -/
  | mmas (h : Head) (fa : MxFmt) (fb : MxFmt) (d : Operand) (a : Operand) (b : Operand) (c : Operand) (m : TileMod)
  /-- `MMAV` (R272, R287, R289). -/
  | mmav (h : Head) (fa : MxFmt) (fb : MxFmt) (d : Operand) (a : Operand) (b : Operand) (m : VecTileMod)
  /-- `OMAP` (R269, R290). -/
  | omap (h : Head) (d : Operand) (a : Operand) (b : Operand)
  /-- `ACC_CLR` (R273, R291). -/
  | accClr (h : Head) (a : Operand) (b : Operand)
  /-- `ACC_LD` (R273, R292). -/
  | accLd (h : Head) (ty : Ty) (a : Operand) (b : Operand) (m : Shape)
  /-- `ACC_ST` (R273, R286, R293). -/
  | accSt (h : Head) (ty : Ty) (a : Operand) (b : Operand) (m : StTileMod)
  /-- `ACC_CVT` (R293). -/
  | accCvt (h : Head) (ty : Ty) (a : Operand) (b : Operand) (m : Shape)
  /-- `ACC_SEND` (R134, R135, R257, R286). -/
  | accSend (h : Head) (ty : Ty) (a : Operand) (b : Operand) (c : Operand) (m : OrdMod) (m : Shape)
  /-- `TREC` (R295, R296). -/
  | trec (h : Head) (d : Operand) (a : Operand)
  /-- `WALK` (R189, R193, R257, R282). -/
  | walk (h : Head) (a : Operand) (b : Operand) (c : Operand) (m : OrdMod)
  /-- `COPYT` (R298). -/
  | copyt (h : Head) (a : Operand) (b : Operand) (c : Operand) (m : OrdMod)
  /-- `COPY` (R23, R192, R193, R194). -/
  | copy (h : Head) (a : Operand) (b : Operand) (c : Operand) (m : OrdMod)
  /-- `TBINIT` (R301). -/
  | tbinit (h : Head) (a : Operand) (b : Operand)
  /-- `TBEXP` (R301). -/
  | tbexp (h : Head) (a : Operand) (b : Operand)
  /-- `TBARR` (R301, R302). -/
  | tbarr (h : Head) (a : Operand) (b : Operand)
  /-- `TBWAIT` (R304). -/
  | tbwait (h : Head) (d : Operand) (a : Operand) (b : Operand)
  /-- `BAR` (R87, R335, R336). -/
  | bar (h : Head) (a : Operand)
  /-- `CBAR` (R335, R336). -/
  | cbar (h : Head) (a : Operand)
  /-- `QPUSH` (R338, R339, R340, R343). -/
  | qpush (h : Head) (a : Operand) (b : Operand)
  /-- `QPOP` (R338, R339, R341, R343). -/
  | qpop (h : Head) (d : Operand) (a : Operand)
  /-- `QTRY` (R339, R341, R343, R344). -/
  | qtry (h : Head) (d : Operand) (a : Operand)
  /-- `QGRANT` (R342, R344, R345). -/
  | qgrant (h : Head) (a : Operand) (b : Operand) (c : Operand)
  /-- `HOLD` (R258, R350, R359, R376). -/
  | hold (h : Head) (cc : Cmp) (wide : Bool) (sys : Bool) (a : Operand) (b : Operand) (c : Operand)
  /-- `HCANCEL` (R258, R354, R355, R359). -/
  | hcancel (h : Head) (a : Operand)
  /-- `PARR` (R310, R347). -/
  | parr (h : Head) (a : Operand) (b : Operand)
  /-- `PDRAIN` (R310, R349). -/
  | pdrain (h : Head)
  /-- `LWAIT` (R56, R310, R359, R361). -/
  | lwait (h : Head)
  /-- `LTRIG` (R54, R56, R310, R360). -/
  | ltrig (h : Head)
  /-- `LAUNCH` (R33, R45, R362). -/
  | launch (h : Head) (d : Operand) (a : Operand)
  /-- `RANGE` (R57, R363). -/
  | range (h : Head) (d : Operand)
  /-- `TSPAWN` (R38, R365, R366, R368). -/
  | tspawn (h : Head) (d : Operand) (a : Operand)
  /-- `TEND` (R385, R389, R391). -/
  | tend (h : Head)
  /-- `TNSPEC` (R389, R392). -/
  | tnspec (h : Head)
  /-- `TABORT` (R381, R389, R393). -/
  | tabort (h : Head)
  /-- `TYIELD` (R381, R389, R394). -/
  | tyield (h : Head)
  /-- `RCALL` (R257, R311, R312, R313). -/
  | rcall (h : Head) (a : Operand) (b : Operand) (c : Operand) (m : OrdMod)
  /-- `RRET` (R318). -/
  | rret (h : Head) (a : Operand)
  /-- `BNK_DOT` (R322, R323, R324). -/
  | bnkDot (h : Head) (ty : Ty) (a : Operand) (b : Operand) (c : Operand)
  /-- `BNK_AXPY` (R322, R323, R324). -/
  | bnkAxpy (h : Head) (ty : Ty) (a : Operand) (b : Operand) (c : Operand)
  /-- `BNK_SCALE` (R322, R323, R324). -/
  | bnkScale (h : Head) (ty : Ty) (a : Operand) (b : Operand) (c : Operand)
  /-- `BNK_FILL` (R323, R324). -/
  | bnkFill (h : Head) (ty : Ty) (a : Operand) (b : Operand) (c : Operand)
  /-- `BNK_COPY` (R322, R323, R324). -/
  | bnkCopy (h : Head) (ty : Ty) (a : Operand) (b : Operand) (c : Operand)
  /-- `BNK_RED` (R323, R324). -/
  | bnkRed (h : Head) (ty : Ty) (a : Operand) (b : Operand) (c : Operand)
  /-- `LAND_OPEN` (R328, R329). -/
  | landOpen (h : Head) (a : Operand) (b : Operand)
  /-- `LAND_CLOSE` (R333, R438). -/
  | landClose (h : Head) (a : Operand)
  /-- `PATROL_SCRUB`, a step of the package (R454). -/
  | patrolScrub (stack : Nat)
  /-- `DIE_LINK_FENCE`, a step of the package (R440). -/
  | dieLinkFence (x : Nat) (y : Nat)
  /-- `ROUTE_PORT_DOWN`, a step of the package (R435). -/
  | routePortDown (port : Nat) (up : Bool)
  /-- `HOST_LINK_TRAINING`, a step of the package (R431). -/
  | hostLinkTraining (mode : PortMode) (lanes : Nat) (rate : Nat)
  /-- `CXL_EXPANDER_ATTACH`, a step of the package (R21). -/
  | cxlExpanderAttach (port : Nat) (gib : Nat)
  /-- `PEER_WRITE_REFUSAL`, a step of the package (R436). -/
  | peerWriteRefusal (c : Ctx) (va : BitVec 64)
  deriving DecidableEq, Repr

end Sys2Proof
end

