-- ==== Sys2Proof/WellFormed.lean ====
section
/-! DEFINITION. Which instruction terms are words of the part: the values that R96, R98, R101,
R113, R116, R119 and R206 reserve are refused here. A step of the package has no word and is always
well formed. -/

namespace Sys2Proof

/-- The type codes of Table 7-1 (R111). -/
def Ty.code : Ty → Nat
  | .i8 => 0x00 | .i32 => 0x01 | .i64 => 0x02 | .i16 => 0x03 | .n8 => 0x04 | .n32 => 0x05
  | .n64 => 0x06 | .n16 => 0x07 | .b32 => 0x09 | .b64 => 0x0A | .f32 => 0x10 | .f64 => 0x11
  | .f16 => 0x12 | .bf16 => 0x13 | .e4m3 => 0x14 | .e5m2 => 0x15 | .e3m2 => 0x16 | .e2m3 => 0x17
  | .e2m1 => 0x18 | .x64 => 0x19

/-- The comparison codes of R113. -/
def Cmp.code : Cmp → Nat
  | .eq => 0 | .ne => 1 | .lt => 2 | .le => 3 | .gt => 4 | .ge => 5 | .ltn => 6 | .len => 7
  | .gtn => 8 | .gen => 9 | .any => 10 | .all => 11

/-- The matrix format codes of R113. -/
def MxFmt.code : MxFmt → Nat
  | .e4m3 => 0 | .e5m2 => 1 | .e3m2 => 2 | .e2m3 => 3 | .e2m1 => 4 | .bf16 => 5 | .f16 => 6
  | .i8 => 7

/-- The type sets of Table 7-2 (R112). -/
def Ty.is : List Ty := [.i32, .i64]
/-- IW of Table 7-2. -/
def Ty.iw : List Ty := [.i32, .i64, .n32, .n64]
/-- BW of Table 7-2. -/
def Ty.bw : List Ty := [.b32, .b64]
/-- MT of Table 7-2. -/
def Ty.mt : List Ty := [.i8, .n8, .i16, .n16, .b32, .b64]
/-- FW of Table 7-2. -/
def Ty.fw : List Ty := [.f32, .f64, .f16, .bf16]
/-- FS of Table 7-2. -/
def Ty.fs : List Ty := [.f32, .f16, .bf16]
/-- NF of Table 7-2. -/
def Ty.nf : List Ty := [.e4m3, .e5m2, .e3m2, .e2m3, .e2m1]

/-- The bits of MOD (R95). -/
inductive ModBit where
  | om | rnd | sat | fzo | fzi
  deriving DecidableEq, Repr

/-- Every MOD bit outside `l` is 0 (R96, R116). -/
def Mods.only (m : Mods) (l : List ModBit) : Bool :=
  (l.contains .om || !m.om) && (l.contains .rnd || m.rnd == .rn) && (l.contains .sat || !m.sat)
    && (l.contains .fzo || !m.fzo) && (l.contains .fzi || !m.fzi)

/-- The guard and hints `rep` must carry: GRD 0b0111, HNT 0 (R101). -/
def Head.plain (h : Head) : Bool :=
  h.guard == ⟨7, false⟩ && h.hints == ⟨0, false, false, false, 0⟩

/-- A source field: a special index is one that class 10 gives to a special register (Table 6-2). -/
def Operand.okSrc : Operand → Bool
  | .special i => 8 ≤ i.toNat
  | _ => true

/-- A destination field: as a source, and class 11 must be 0 (Table 6-2). -/
def Operand.okDst : Operand → Bool
  | .special i => 8 ≤ i.toNat
  | .k x => x == 0
  | _ => true

/-- The format pairs assigned to `mma` and `mmav` (R113). -/
def mxPair (a b : MxFmt) : Bool := (a.code < 5 && b.code < 5) || a == b

/-- The formats of `mmas` (Table 7-8). -/
def sparseFmt (a : MxFmt) : Bool := [MxFmt.e4m3, .e5m2, .e2m1].contains a

/-- The MOD bits a matrix instruction honours: `.z`, and SAT with format code 7 only (R116). -/
def mmaMods (a b : MxFmt) : List ModBit :=
  if a == .i8 && b == .i8 then [.om, .sat] else [.om]

/-- Several elements per lane are allowed with `.b32` and `.b64` alone (Table 12-2). -/
def MemMod.okCount (m : MemMod) (ty : Ty) : Bool := m.cnt == .one || Ty.bw.contains ty

/-- Table 12-2, row `ld`. -/
def MemMod.okLd (m : MemMod) (ty : Ty) : Bool :=
  ((m.ord == .none && m.scope == .grp) || m.ord == .rlx || m.ord == .acq) && m.okCount ty

/-- Table 12-2, row `st`. -/
def MemMod.okSt (m : MemMod) (ty : Ty) : Bool :=
  ((m.ord == .none && m.scope == .grp) || m.ord == .rlx || m.ord == .rel) && m.okCount ty

/-- Table 12-2, row `pref`. -/
def MemMod.okPref (m : MemMod) : Bool :=
  m.ord == .none && m.scope == .grp && m.cnt == .one && m.cp != .strm

/-- Table 12-2, row `atom`. -/
def MemMod.okAtom (m : MemMod) : Bool := m.ord != .none && m.cnt == .one && m.cp == .normal

/-- Table 12-2, row `ared`. -/
def MemMod.okAred (m : MemMod) : Bool :=
  m.ord == .none && m.scope == .grp && m.cnt == .one && m.cp == .normal

/-- SV is reserved while MXV is 0 (Table 15-1). -/
def VecTileMod.okVec (m : VecTileMod) : Bool := m.mxv || m.sv == 0

/-- The well-formed instructions: those whose word sets no reserved bit (R96, R105). -/
def Instr.wf : Instr → Bool
  | .moduleReset => true
  | .bootcmdGo _ => true
  | .attestationRequest _ => true
  | .keyLoad _ => true
  | .keyClear _ => true
  | .memcntWrite _ => true
  | .qctlWrite _ _ => true
  | .qpiDoorbell _ _ => true
  | .partitionWrite _ _ _ => true
  | .arbiterDecision => true
  | .placementDecision => true
  | .starvationTimeout _ => true
  | .stageSample => true
  | .preemptCluster _ _ _ => true
  | .contextRestore _ _ _ => true
  | .blockExitComplete _ => true
  | .launchRetire _ => true
  | .lcancel _ => true
  | .fcctlWrite _ => true
  | .faultRecordWrite => true
  | .fresp _ => true
  | .svreqSave _ => true
  | .svreqReady _ => true
  | .svreqDiscard _ => true
  | .hbeat _ => true
  | .rateWrite _ _ => true
  | .berrWrite _ _ _ => true
  | .registerWrite _ _ _ => true
  | .hostMemoryAccess _ => true
  | .hostSnoop _ _ _ => true
  | .ualinkIncomingRequest _ => true
  | .l1Writeback _ _ => true
  | .l2Eviction _ => true
  | .migrationFill _ => true
  | .loadComplete _ _ => true
  | .storePerformed _ _ => true
  | .stallExpiry _ => true
  | .granuleAccessPerform _ _ => true
  | .matrixStart _ => true
  | .matrixComplete _ _ => true
  | .idleSelfTest _ _ => true
  | .engineReport _ _ _ => true
  | .engineCommandComplete _ _ => true
  | .engineFault _ _ => true
  | .rcallDeliver _ => true
  | .rootCallPlace _ => true
  | .rootBlockReturn _ => true
  | .bnkCommandComplete _ => true
  | .landingPacketArrival _ => true
  | .landingStagingAdmit _ => true
  | .phaseEnd _ => true
  | .watchArm _ => true
  | .watchTimeout _ => true
  | .frontierPublish _ => true
  | .taskDispatch _ => true
  | .taskSpillEngine _ => true
  | .capacityAbort _ => true
  | .spawnCapacityAbort _ => true
  | .taskCommit _ => true
  | .trapDelivery _ => true
  | .coreClockGate _ => true
  | .corePowerGate _ => true
  | .coreWake _ => true
  | .thermalSample _ _ => true
  | .heartbeatMissed _ => true
  | .hostWatchdogTimeout => true
  | .completionTimeout _ => true
  | .pathLossTimeout _ => true
  | .peerRequestTimeout _ => true
  | .linkDown _ => true
  | .nop h => h.mods.only []
  | .rep h _ => h.mods.only [] && h.plain
  | .bra h _ => h.mods.only []
  | .brx h a => h.mods.only [] && a.okSrc
  | .call h _ => h.mods.only []
  | .callx h a => h.mods.only [] && a.okSrc
  | .ret h => h.mods.only []
  | .exit h => h.mods.only []
  | .trap h _ => h.mods.only []
  | .bkpt h _ => h.mods.only []
  | .wcnt h _ => h.mods.only []
  | .yield h => h.mods.only []
  | .srget h d a => h.mods.only [] && d.okDst && a.okSrc
  | .srset h d a => h.mods.only [] && d.okDst && a.okSrc
  | .srsetSeed h a => h.mods.only [] && a.okSrc
  | .rti h => h.mods.only []
  | .tlbinv h a b => h.mods.only [] && a.okSrc && b.okSrc
  | .icinv h a b => h.mods.only [] && a.okSrc && b.okSrc
  | .ifence h => h.mods.only []
  | .ctxswSave h a => h.mods.only [] && a.okSrc
  | .ctxswReady h a => h.mods.only [] && a.okSrc
  | .ctxswDiscard h a => h.mods.only [] && a.okSrc
  | .ctxswPool h a => h.mods.only [] && a.okSrc
  | .ispsn h d a => h.mods.only [] && d.okDst && a.okSrc
  | .clrpsn h d => h.mods.only [] && d.okDst
  | .wsave h => h.mods.only []
  | .wrest h => h.mods.only []
  | .add h ty d a b => h.mods.only [.sat] && Ty.iw.contains ty && d.okDst && a.okSrc && b.okSrc
  | .sub h ty d a b => h.mods.only [.sat] && Ty.iw.contains ty && d.okDst && a.okSrc && b.okSrc
  | .mul h ty d a b => h.mods.only [.sat] && Ty.iw.contains ty && d.okDst && a.okSrc && b.okSrc
  | .mulhi h ty d a b => h.mods.only [] && Ty.iw.contains ty && d.okDst && a.okSrc && b.okSrc
  | .mad h ty d a b c => h.mods.only [.sat] && Ty.iw.contains ty && d.okDst && a.okSrc && b.okSrc && c.okSrc
  | .madw h ty d a b c => h.mods.only [] && [Ty.i32, Ty.n32].contains ty && d.okDst && a.okSrc && b.okSrc && c.okSrc
  | .neg h ty d a => h.mods.only [.sat] && Ty.is.contains ty && d.okDst && a.okSrc
  | .abs h ty d a => h.mods.only [.sat] && Ty.is.contains ty && d.okDst && a.okSrc
  | .min h ty d a b => h.mods.only [] && Ty.iw.contains ty && d.okDst && a.okSrc && b.okSrc
  | .max h ty d a b => h.mods.only [] && Ty.iw.contains ty && d.okDst && a.okSrc && b.okSrc
  | .and h ty d a b => h.mods.only [] && Ty.bw.contains ty && d.okDst && a.okSrc && b.okSrc
  | .andImm h ty d a _ => h.mods.only [] && Ty.bw.contains ty && d.okDst && a.okSrc
  | .or h ty d a b => h.mods.only [] && Ty.bw.contains ty && d.okDst && a.okSrc && b.okSrc
  | .orImm h ty d a _ => h.mods.only [] && Ty.bw.contains ty && d.okDst && a.okSrc
  | .xor h ty d a b => h.mods.only [] && Ty.bw.contains ty && d.okDst && a.okSrc && b.okSrc
  | .xorImm h ty d a _ => h.mods.only [] && Ty.bw.contains ty && d.okDst && a.okSrc
  | .not h ty d a => h.mods.only [] && Ty.bw.contains ty && d.okDst && a.okSrc
  | .shl h ty d a b => h.mods.only [] && Ty.bw.contains ty && d.okDst && a.okSrc && b.okSrc
  | .shr h ty d a b => h.mods.only [] && Ty.bw.contains ty && d.okDst && a.okSrc && b.okSrc
  | .sar h ty d a b => h.mods.only [] && Ty.bw.contains ty && d.okDst && a.okSrc && b.okSrc
  | .rol h ty d a b => h.mods.only [] && Ty.bw.contains ty && d.okDst && a.okSrc && b.okSrc
  | .bfe h ty d a b c => h.mods.only [.om] && Ty.bw.contains ty && d.okDst && a.okSrc && b.okSrc && c.okSrc
  | .bfi h ty d a b c => h.mods.only [] && Ty.bw.contains ty && d.okDst && a.okSrc && b.okSrc && c.okSrc
  | .popc h ty d a => h.mods.only [] && Ty.bw.contains ty && d.okDst && a.okSrc
  | .clz h ty d a => h.mods.only [] && Ty.bw.contains ty && d.okDst && a.okSrc
  | .brev h ty d a => h.mods.only [] && Ty.bw.contains ty && d.okDst && a.okSrc
  | .sel h ty d a b c => h.mods.only [] && Ty.bw.contains ty && d.okDst && a.okSrc && b.okSrc && c.okSrc
  | .mov h ty d a => h.mods.only [] && Ty.bw.contains ty && d.okDst && a.okSrc
  | .movi h ty d _ => h.mods.only [] && Ty.bw.contains ty && d.okDst
  | .lea h ty d a b _ => h.mods.only [] && [Ty.b64].contains ty && d.okDst && a.okSrc && b.okSrc
  | .idot4 h ty d a b c => h.mods.only [.sat] && [Ty.i32, Ty.n32].contains ty && d.okDst && a.okSrc && b.okSrc && c.okSrc
  | .sad h ty d a b c => h.mods.only [] && [Ty.n32].contains ty && d.okDst && a.okSrc && b.okSrc && c.okSrc
  | .pand h d a b => h.mods.only [] && d.okDst && a.okSrc && b.okSrc
  | .por h d a b => h.mods.only [] && d.okDst && a.okSrc && b.okSrc
  | .pxor h d a b => h.mods.only [] && d.okDst && a.okSrc && b.okSrc
  | .pnot h d a => h.mods.only [] && d.okDst && a.okSrc
  | .vote h _ d a => h.mods.only [] && d.okDst && a.okSrc
  | .shfl h _ d a b => h.mods.only [] && d.okDst && a.okSrc && b.okSrc
  | .bcast h ty d a b => h.mods.only [] && Ty.bw.contains ty && d.okDst && a.okSrc && b.okSrc
  | .lred h ty d a _ => h.mods.only [] && (Ty.iw ++ [Ty.f32]).contains ty && d.okDst && a.okSrc
  | .lscan h ty d a _ => h.mods.only [.om] && (Ty.iw ++ [Ty.f32]).contains ty && d.okDst && a.okSrc
  | .cmp h cc ty d a b => h.mods.only [] && cc.code < 10 && (Ty.iw ++ Ty.bw).contains ty && d.okDst && a.okSrc && b.okSrc
  | .cmpImm h cc ty d a _ => h.mods.only [] && cc.code < 10 && (Ty.iw ++ Ty.bw).contains ty && d.okDst && a.okSrc
  | .fadd h ty d a b => h.mods.only [.fzo, .fzi, .rnd, .sat] && Ty.fw.contains ty && d.okDst && a.okSrc && b.okSrc
  | .fsub h ty d a b => h.mods.only [.fzo, .fzi, .rnd, .sat] && Ty.fw.contains ty && d.okDst && a.okSrc && b.okSrc
  | .fmul h ty d a b => h.mods.only [.fzo, .fzi, .rnd, .sat] && Ty.fw.contains ty && d.okDst && a.okSrc && b.okSrc
  | .fma h ty d a b c => h.mods.only [.fzo, .fzi, .rnd, .sat] && Ty.fw.contains ty && d.okDst && a.okSrc && b.okSrc && c.okSrc
  | .fmin h ty d a b => h.mods.only [.fzo, .fzi] && Ty.fw.contains ty && d.okDst && a.okSrc && b.okSrc
  | .fmax h ty d a b => h.mods.only [.fzo, .fzi] && Ty.fw.contains ty && d.okDst && a.okSrc && b.okSrc
  | .fclass h ty d a => h.mods.only [] && Ty.fw.contains ty && d.okDst && a.okSrc
  | .frint h ty d a => h.mods.only [.fzo, .fzi, .rnd] && Ty.fw.contains ty && d.okDst && a.okSrc
  | .fdot2 h ty d a b c => h.mods.only [.fzo, .fzi, .rnd, .sat] && [Ty.f16, Ty.bf16].contains ty && d.okDst && a.okSrc && b.okSrc && c.okSrc
  | .pack h ty d a b => h.mods.only [.fzo, .fzi, .rnd, .sat] && (Ty.f16 :: .bf16 :: Ty.nf).contains ty && d.okDst && a.okSrc && b.okSrc
  | .packSr h ty d a b => h.mods.only [.fzo, .fzi, .sat] && Ty.nf.contains ty && d.okDst && a.okSrc && b.okSrc
  | .unpack h ty d a b => h.mods.only [.fzo, .fzi] && (Ty.f16 :: .bf16 :: Ty.nf).contains ty && d.okDst && a.okSrc && b.okSrc
  | .mxscale h ty d a b => h.mods.only [] && Ty.nf.contains ty && d.okDst && a.okSrc && b.okSrc
  | .fcvt h ty d a => h.mods.only [.fzo, .fzi, .rnd, .sat] && (Ty.f64 :: .f16 :: .bf16 :: Ty.nf).contains ty && d.okDst && a.okSrc
  | .fcvtSr h ty d a => h.mods.only [.fzo, .fzi, .sat] && Ty.nf.contains ty && d.okDst && a.okSrc
  | .fcvtToF32 h ty d a => h.mods.only [.fzo, .fzi] && (Ty.f64 :: .f16 :: .bf16 :: Ty.nf).contains ty && d.okDst && a.okSrc
  | .icvt h ft it d a => h.mods.only [.rnd] && Ty.fw.contains ft && it.code < 8 && d.okDst && a.okSrc
  | .fcvti h ft it d a => h.mods.only [.rnd, .sat] && Ty.fw.contains ft && it.code < 8 && d.okDst && a.okSrc
  | .rcp h ty d a => h.mods.only [.fzo, .fzi] && Ty.fw.contains ty && d.okDst && a.okSrc
  | .rsq h ty d a => h.mods.only [.fzo, .fzi] && Ty.fw.contains ty && d.okDst && a.okSrc
  | .sqrt h ty d a => h.mods.only [.fzo, .fzi, .rnd] && Ty.fw.contains ty && d.okDst && a.okSrc
  | .exp2 h ty d a => h.mods.only [.fzo, .fzi] && Ty.fs.contains ty && d.okDst && a.okSrc
  | .log2 h ty d a => h.mods.only [.fzo, .fzi] && Ty.fs.contains ty && d.okDst && a.okSrc
  | .sinpi h ty d a => h.mods.only [.fzo, .fzi] && Ty.fs.contains ty && d.okDst && a.okSrc
  | .cospi h ty d a => h.mods.only [.fzo, .fzi] && Ty.fs.contains ty && d.okDst && a.okSrc
  | .tanh h ty d a => h.mods.only [.fzo, .fzi] && Ty.fs.contains ty && d.okDst && a.okSrc
  | .fdiv h ty d a b => h.mods.only [.fzo, .fzi, .rnd] && Ty.fw.contains ty && d.okDst && a.okSrc && b.okSrc
  | .fcmp h cc ty d a b => h.mods.only [.fzi] && cc.code < 6 && Ty.fw.contains ty && d.okDst && a.okSrc && b.okSrc
  | .ld h ty d a m => h.mods.only [] && Ty.mt.contains ty && d.okDst && a.okSrc && m.okLd ty
  | .st h ty a b m => h.mods.only [] && Ty.mt.contains ty && a.okSrc && b.okSrc && m.okSt ty
  | .ldsp h ty d a => h.mods.only [] && Ty.mt.contains ty && d.okDst && a.okSrc
  | .stsp h ty a b => h.mods.only [] && Ty.mt.contains ty && a.okSrc && b.okSrc
  | .ldfe h ty d a => h.mods.only [.om] && Ty.mt.contains ty && d.okDst && a.okSrc
  | .stfe h ty a b => h.mods.only [] && Ty.mt.contains ty && a.okSrc && b.okSrc
  | .ldstb h ty d a => h.mods.only [] && Ty.mt.contains ty && d.okDst && a.okSrc
  | .pref h a m => h.mods.only [] && a.okSrc && m.okPref
  | .cflush h a b => h.mods.only [] && a.okSrc && b.okSrc
  | .cinv h a b => h.mods.only [] && a.okSrc && b.okSrc
  | .fence h _ _ => h.mods.only []
  | .fenceRemote h a => h.mods.only [] && a.okSrc
  | .atomAdd h ty d a b m => h.mods.only [] && (Ty.iw ++ [Ty.f32, .bf16, .x64]).contains ty && d.okDst && a.okSrc && b.okSrc && m.okAtom
  | .atomMin h ty d a b m => h.mods.only [] && (Ty.iw ++ [Ty.f32]).contains ty && d.okDst && a.okSrc && b.okSrc && m.okAtom
  | .atomMax h ty d a b m => h.mods.only [] && (Ty.iw ++ [Ty.f32]).contains ty && d.okDst && a.okSrc && b.okSrc && m.okAtom
  | .atomAnd h ty d a b m => h.mods.only [] && Ty.bw.contains ty && d.okDst && a.okSrc && b.okSrc && m.okAtom
  | .atomOr h ty d a b m => h.mods.only [] && Ty.bw.contains ty && d.okDst && a.okSrc && b.okSrc && m.okAtom
  | .atomXor h ty d a b m => h.mods.only [] && Ty.bw.contains ty && d.okDst && a.okSrc && b.okSrc && m.okAtom
  | .atomExch h ty d a b m => h.mods.only [] && Ty.bw.contains ty && d.okDst && a.okSrc && b.okSrc && m.okAtom
  | .atomCas h ty d a b c m => h.mods.only [] && Ty.bw.contains ty && d.okDst && a.okSrc && b.okSrc && c.okSrc && m.okAtom
  | .aredAdd h ty a b m => h.mods.only [] && (Ty.is ++ [Ty.f32, .bf16, .x64]).contains ty && a.okSrc && b.okSrc && m.okAred
  | .aredMin h ty a b m => h.mods.only [] && (Ty.iw ++ [Ty.f32]).contains ty && a.okSrc && b.okSrc && m.okAred
  | .aredMax h ty a b m => h.mods.only [] && (Ty.iw ++ [Ty.f32]).contains ty && a.okSrc && b.okSrc && m.okAred
  | .aflush h => h.mods.only []
  | .rowld h ty d a b _ => h.mods.only [] && [Ty.f32, Ty.bf16].contains ty && d.okDst && a.okSrc && b.okSrc
  | .rowst h ty a b _ => h.mods.only [] && [Ty.f32, Ty.bf16].contains ty && a.okSrc && b.okSrc
  | .rowadd h ty a b _ => h.mods.only [] && [Ty.f32, Ty.bf16].contains ty && a.okSrc && b.okSrc
  | .mma h fa fb d a b _ => h.mods.only (mmaMods fa fb) && mxPair fa fb && d.okSrc && a.okSrc && b.okSrc
  | .mmas h fa fb d a b c _ => h.mods.only (mmaMods fa fb) && sparseFmt fa && sparseFmt fb && d.okSrc && a.okSrc && b.okSrc && c.okSrc
  | .mmav h fa fb d a b m => h.mods.only (mmaMods fa fb) && mxPair fa fb && d.okSrc && a.okSrc && b.okSrc && m.okVec
  | .omap h d a b => h.mods.only [] && d.okDst && a.okSrc && b.okSrc
  | .accClr h a b => h.mods.only [] && a.okSrc && b.okSrc
  | .accLd h ty a b _ => h.mods.only [] && [Ty.f32, Ty.f16, Ty.bf16, Ty.i32].contains ty && a.okSrc && b.okSrc
  | .accSt h ty a b _ => h.mods.only [.rnd, .sat] && [Ty.f32, Ty.f16, Ty.bf16, Ty.e4m3, Ty.e5m2, Ty.i32].contains ty && a.okSrc && b.okSrc
  | .accCvt h ty a b _ => h.mods.only [.rnd, .sat] && [Ty.f32, Ty.f16, Ty.bf16, Ty.e4m3, Ty.e5m2, Ty.i32].contains ty && a.okSrc && b.okSrc
  | .accSend h ty a b c _ _ => h.mods.only [] && [Ty.f32, Ty.x64].contains ty && a.okSrc && b.okSrc && c.okSrc
  | .trec h d a => h.mods.only [] && d.okSrc && a.okSrc
  | .walk h a b c _ => h.mods.only [] && a.okSrc && b.okSrc && c.okSrc
  | .copyt h a b c _ => h.mods.only [] && a.okSrc && b.okSrc && c.okSrc
  | .copy h a b c _ => h.mods.only [] && a.okSrc && b.okSrc && c.okSrc
  | .tbinit h a b => h.mods.only [] && a.okSrc && b.okSrc
  | .tbexp h a b => h.mods.only [] && a.okSrc && b.okSrc
  | .tbarr h a b => h.mods.only [] && a.okSrc && b.okSrc
  | .tbwait h d a b => h.mods.only [] && d.okDst && a.okSrc && b.okSrc
  | .bar h a => h.mods.only [] && a.okSrc
  | .cbar h a => h.mods.only [] && a.okSrc
  | .qpush h a b => h.mods.only [] && a.okSrc && b.okSrc
  | .qpop h d a => h.mods.only [] && d.okDst && a.okSrc
  | .qtry h d a => h.mods.only [] && d.okDst && a.okSrc
  | .qgrant h a b c => h.mods.only [] && a.okSrc && b.okSrc && c.okSrc
  | .hold h _ _ _ a b c => h.mods.only [] && a.okSrc && b.okSrc && c.okSrc
  | .hcancel h a => h.mods.only [] && a.okSrc
  | .parr h a b => h.mods.only [] && a.okSrc && b.okSrc
  | .pdrain h => h.mods.only []
  | .lwait h => h.mods.only []
  | .ltrig h => h.mods.only []
  | .launch h d a => h.mods.only [] && d.okDst && a.okSrc
  | .range h d => h.mods.only [] && d.okDst
  | .tspawn h d a => h.mods.only [] && d.okDst && a.okSrc
  | .tend h => h.mods.only []
  | .tnspec h => h.mods.only []
  | .tabort h => h.mods.only []
  | .tyield h => h.mods.only []
  | .rcall h a b c _ => h.mods.only [] && a.okSrc && b.okSrc && c.okSrc
  | .rret h a => h.mods.only [] && a.okSrc
  | .bnkDot h ty a b c => h.mods.only [] && Ty.fs.contains ty && a.okSrc && b.okSrc && c.okSrc
  | .bnkAxpy h ty a b c => h.mods.only [] && Ty.fs.contains ty && a.okSrc && b.okSrc && c.okSrc
  | .bnkScale h ty a b c => h.mods.only [] && Ty.fs.contains ty && a.okSrc && b.okSrc && c.okSrc
  | .bnkFill h ty a b c => h.mods.only [] && Ty.fs.contains ty && a.okSrc && b.okSrc && c.okSrc
  | .bnkCopy h ty a b c => h.mods.only [] && Ty.fs.contains ty && a.okSrc && b.okSrc && c.okSrc
  | .bnkRed h ty a b c => h.mods.only [] && Ty.fs.contains ty && a.okSrc && b.okSrc && c.okSrc
  | .landOpen h a b => h.mods.only [] && a.okSrc && b.okSrc
  | .landClose h a => h.mods.only [] && a.okSrc
  | .patrolScrub _ => true
  | .dieLinkFence _ _ => true
  | .routePortDown _ _ => true
  | .hostLinkTraining _ _ _ => true
  | .cxlExpanderAttach _ _ => true
  | .peerWriteRefusal _ _ => true

end Sys2Proof
end

