-- ==== Sys2Proof/Decode.lean ====
section
/-! DEFINITION. The instruction word (R95, Table 6-1) read and written: the fields of a word, the
decoder, and the encoder. A word that R105 calls illegal is refused by name; a step of the package
has no word. -/

namespace Sys2Proof

/-- Why a word is not an instruction: each is an ILLOP of check 2 (R105). -/
inductive DecodeError where
  /-- all 96 bits zero -/
  | zeroWord
  /-- OPC or FN without an assignment, or a modifier code without one -/
  | unassigned
  /-- a reserved bit is set, or WAITC is 100-111 -/
  | reserved
  deriving DecidableEq, Repr

/-- What a word decodes to. -/
inductive Decoded where
  | instr (i : Instr)
  | illegal (e : DecodeError)
  deriving DecidableEq, Repr

/-- The type of a type code (Table 7-1). -/
def Ty.ofCode : Nat → Option Ty
  | 0x00 => some .i8 | 0x01 => some .i32 | 0x02 => some .i64 | 0x03 => some .i16
  | 0x04 => some .n8 | 0x05 => some .n32 | 0x06 => some .n64 | 0x07 => some .n16
  | 0x09 => some .b32 | 0x0A => some .b64 | 0x10 => some .f32 | 0x11 => some .f64
  | 0x12 => some .f16 | 0x13 => some .bf16 | 0x14 => some .e4m3 | 0x15 => some .e5m2
  | 0x16 => some .e3m2 | 0x17 => some .e2m3 | 0x18 => some .e2m1 | 0x19 => some .x64
  | _ => none

/-- The comparison of a comparison code (R113). -/
def Cmp.ofCode : Nat → Option Cmp
  | 0 => some .eq | 1 => some .ne | 2 => some .lt | 3 => some .le | 4 => some .gt | 5 => some .ge
  | 6 => some .ltn | 7 => some .len | 8 => some .gtn | 9 => some .gen | 10 => some .any
  | 11 => some .all | _ => none

/-- The matrix format of a format code (R113). -/
def MxFmt.ofCode : Nat → Option MxFmt
  | 0 => some .e4m3 | 1 => some .e5m2 | 2 => some .e3m2 | 3 => some .e2m3 | 4 => some .e2m1
  | 5 => some .bf16 | 6 => some .f16 | 7 => some .i8 | _ => none

/-- FN of `vote` (Table 7-5). -/
def VoteOp.code : VoteOp → Nat
  | .any => 0 | .all => 1 | .ballot => 2
/-- The form of `vote` an FN names. -/
def VoteOp.ofCode : Nat → Option VoteOp
  | 0 => some .any | 1 => some .all | 2 => some .ballot | _ => none

/-- FN of `shfl` (Table 7-5). -/
def ShflOp.code : ShflOp → Nat
  | .idx => 0 | .up => 1 | .down => 2 | .xor => 3
/-- The form of `shfl` an FN names. -/
def ShflOp.ofCode : Nat → Option ShflOp
  | 0 => some .idx | 1 => some .up | 2 => some .down | 3 => some .xor | _ => none

/-- The code of a scope (Table 12-1). -/
def Scope.code : Scope → Nat
  | .grp => 0 | .blk => 1 | .clu => 2 | .dev => 3 | .sys => 4
/-- The scope of a code (Table 12-1). -/
def Scope.ofCode : Nat → Option Scope
  | 0 => some .grp | 1 => some .blk | 2 => some .clu | 3 => some .dev | 4 => some .sys | _ => none

/-- The order code in the FN of `fence` (R119). -/
def FenceOrd.code : FenceOrd → Nat
  | .acq => 1 | .rel => 2 | .ar => 3
/-- The order a `fence` code names (R119). -/
def FenceOrd.ofCode : Nat → Option FenceOrd
  | 1 => some .acq | 2 => some .rel | 3 => some .ar | _ => none

/-- The code of an order (Table 12-1). -/
def MemOrd.code : MemOrd → Nat
  | .none => 0 | .rlx => 1 | .acq => 2 | .rel => 3 | .ar => 4
/-- The order of a code (Table 12-1). -/
def MemOrd.ofCode : Nat → Option MemOrd
  | 0 => some .none | 1 => some .rlx | 2 => some .acq | 3 => some .rel | 4 => some .ar | _ => none

/-- The code of a cache policy (Table 12-1). -/
def CachePolicy.code : CachePolicy → Nat
  | .normal => 0 | .strm => 1 | .l2 => 2
/-- The cache policy of a code (Table 12-1). -/
def CachePolicy.ofCode : Nat → Option CachePolicy
  | 0 => some .normal | 1 => some .strm | 2 => some .l2 | _ => none

/-- The code of an element count (Table 12-1). -/
def ElemCount.code : ElemCount → Nat
  | .one => 0 | .two => 1 | .four => 2
/-- The element count of a code (Table 12-1). -/
def ElemCount.ofCode : Nat → Option ElemCount
  | 0 => some .one | 1 => some .two | 2 => some .four | _ => none

/-- The code of a rounding mode (Table 6-1). -/
def Rnd.code : Rnd → Nat
  | .rn => 0 | .rz => 1 | .rp => 2 | .rm => 3
/-- The rounding mode of a code (Table 6-1). -/
def Rnd.ofCode : Nat → Rnd
  | 0 => .rn | 1 => .rz | 2 => .rp | _ => .rm

/-- The code of a lane reduction (Table 9-4). -/
def LaneOp.code : LaneOp → Nat
  | .add => 0 | .min => 1 | .max => 2 | .and => 3 | .or => 4 | .xor => 5
/-- X[75:54] of `lred` and `lscan` (R162). -/
def LaneOp.bits (o : LaneOp) : BitVec 22 := BitVec.ofNat 22 o.code
/-- The lane reduction of X[75:54] (R162). -/
def LaneOp.ofBits (m : BitVec 22) : Option LaneOp :=
  match (m.extractLsb' 0 3).toNat with
  | 0 => some .add | 1 => some .min | 2 => some .max | 3 => some .and | 4 => some .or
  | 5 => some .xor | _ => none

/-- The code of a shape (Table 15-1). -/
def Shape.code : Shape → Nat
  | .s32x32 => 0 | .s64x32 => 1 | .s32x64 => 2 | .s64x64 => 3 | .s128x32 => 4 | .s32x128 => 5
/-- X[75:54] of an instruction whose one modifier is SHAPE (Table 15-1). -/
def Shape.bits (s : Shape) : BitVec 22 := BitVec.ofNat 22 (s.code * 16)
/-- SHAPE of X[75:54] (Table 15-1). -/
def Shape.ofBits (m : BitVec 22) : Option Shape :=
  match (m.extractLsb' 4 3).toNat with
  | 0 => some .s32x32 | 1 => some .s64x32 | 2 => some .s32x64 | 3 => some .s64x64
  | 4 => some .s128x32 | 5 => some .s32x128 | _ => none

/-- X[75:54] of `mma` and `mmas`. -/
def TileMod.bits (m : TileMod) : BitVec 22 := m.shape.bits ||| m.km1.setWidth 22
/-- SHAPE and KM1 of X[75:54]. -/
def TileMod.ofBits (x : BitVec 22) : Option TileMod :=
  (Shape.ofBits x).map fun s => ⟨s, x.extractLsb' 0 4⟩

/-- X[75:54] of `mmav`. -/
def VecTileMod.bits (m : VecTileMod) : BitVec 22 := (m.sv ++ bit m.mxv ++ (0 : BitVec 7)).setWidth 22
/-- SV and MXV of X[75:54]. -/
def VecTileMod.ofBits (x : BitVec 22) : VecTileMod := ⟨x.extractLsb' 8 6, x.getLsbD 7⟩

/-- X[75:54] of `acc.st`. -/
def StTileMod.bits (m : StTileMod) : BitVec 22 :=
  m.shape.bits ||| (bit m.dmem ++ (0 : BitVec 7)).setWidth 22
/-- SHAPE and DMEM of X[75:54]. -/
def StTileMod.ofBits (x : BitVec 22) : Option StTileMod :=
  (Shape.ofBits x).map fun s => ⟨s, x.getLsbD 7⟩

/-- One order half of Table 15-1: the order bit and its scope code. -/
def ordHalf : Option Scope → BitVec 4
  | none => 0
  | some s => BitVec.ofNat 4 (8 + s.code)
/-- The order half four bits hold; a clear order bit gives none. -/
def ordHalfOf (b : BitVec 4) : Option (Option Scope) :=
  if b.getLsbD 3 then (Scope.ofCode (b.extractLsb' 0 3).toNat).map some else some none

/-- X[75:54] of the engine commands and `rcall`. -/
def OrdMod.bits (m : OrdMod) : BitVec 22 := ordHalf m.rel ++ ordHalf m.acq ++ (0 : BitVec 14)
/-- REL and ACQ of X[75:54]. -/
def OrdMod.ofBits (x : BitVec 22) : Option OrdMod := do
  let r ← ordHalfOf (x.extractLsb' 18 4)
  let a ← ordHalfOf (x.extractLsb' 14 4)
  some ⟨r, a⟩

/-- X[75:54] of a memory instruction (Table 12-1). -/
def MemMod.bits (m : MemMod) : BitVec 22 :=
  m.off ++ BitVec.ofNat 2 m.cp.code ++ BitVec.ofNat 2 m.cnt.code ++ BitVec.ofNat 3 m.scope.code
    ++ BitVec.ofNat 3 m.ord.code
/-- The memory modifiers of X[75:54] (Table 12-1). -/
def MemMod.ofBits (x : BitVec 22) : Option MemMod := do
  let cp ← CachePolicy.ofCode (x.extractLsb' 8 2).toNat
  let cnt ← ElemCount.ofCode (x.extractLsb' 6 2).toNat
  let sc ← Scope.ofCode (x.extractLsb' 3 3).toNat
  let o ← MemOrd.ofCode (x.extractLsb' 0 3).toNat
  some ⟨x.extractLsb' 10 12, cp, cnt, sc, o⟩

/-- X[75:54] of `rowld` (Table 12-8). -/
def RowLdMod.bits (m : RowLdMod) : BitVec 22 := m.lag ++ bit m.stl ++ bit m.ver ++ m.km1
/-- The modifiers of `rowld` in X[75:54]. -/
def RowLdMod.ofBits (x : BitVec 22) : RowLdMod :=
  ⟨x.extractLsb' 6 16, x.getLsbD 5, x.getLsbD 4, x.extractLsb' 0 4⟩

/-- X[75:54] of `rowst` and `rowadd` (Table 12-8). -/
def RowStMod.bits (m : RowStMod) : BitVec 22 :=
  (0 : BitVec 5) ++ m.eoff ++ (0 : BitVec 2) ++ m.km1
/-- The modifiers of `rowst` and `rowadd` in X[75:54]. -/
def RowStMod.ofBits (x : BitVec 22) : RowStMod := ⟨x.extractLsb' 6 11, x.extractLsb' 0 4⟩

/-- X[75:54] of `lea` (R154). -/
def LeaMod.bits (m : LeaMod) : BitVec 22 := (bit m.sxb ++ m.sh).setWidth 22
/-- SH and SXB of X[75:54]. -/
def LeaMod.ofBits (x : BitVec 22) : LeaMod := ⟨x.extractLsb' 0 3, x.getLsbD 3⟩

/-- X of `rep` (Table 6-3). -/
def RepMod.bits (r : RepMod) : BitVec 32 :=
  (0 : BitVec 8) ++ r.cstep ++ r.bstep ++ r.astep ++ r.dstep ++ (0 : BitVec 2) ++ r.cntm
/-- The fields of `rep` in X (Table 6-3). -/
def RepMod.ofBits (x : BitVec 32) : RepMod :=
  ⟨x.extractLsb' 20 4, x.extractLsb' 16 4, x.extractLsb' 12 4, x.extractLsb' 8 4,
   x.extractLsb' 0 6⟩

/-- X of `wcnt` (R145). -/
def WcntMod.bits (l : WcntMod) : BitVec 32 := (0 : BitVec 16) ++ l.stmax ++ l.ldmax
/-- LDMAX and STMAX of X (R145). -/
def WcntMod.ofBits (x : BitVec 32) : WcntMod := ⟨x.extractLsb' 0 8, x.extractLsb' 8 8⟩

/-- The t of a `bnk` FN (R323). -/
def bnkTy : Ty → Nat
  | .f16 => 1 | .bf16 => 2 | _ => 0
/-- The type a `bnk` t names (R323). -/
def bnkTyOf : Nat → Option Ty
  | 0 => some .f32 | 1 => some .f16 | 2 => some .bf16 | _ => none

/-- An operand field (Table 6-2). -/
def Operand.bits : Operand → BitVec 10
  | .v n => (0 : BitVec 4) ++ n
  | .s n => (4 : BitVec 4) ++ n
  | .p n => (0b1000000 : BitVec 7) ++ n
  | .special i => (2 : BitVec 2) ++ i
  | .k x => (3 : BitVec 2) ++ x

/-- The operand a field holds (Table 6-2); bits [7:6] of classes 00 and 01 are checked by `decode`. -/
def Operand.ofBits (b : BitVec 10) : Operand :=
  match (b.extractLsb' 8 2).toNat with
  | 0 => .v (b.extractLsb' 0 6)
  | 1 => .s (b.extractLsb' 0 6)
  | 2 => if (b.extractLsb' 0 8).toNat < 8 then .p (b.extractLsb' 0 3) else .special (b.extractLsb' 0 8)
  | _ => .k (b.extractLsb' 0 8)

/-- MOD, bits [81:76] (Table 6-1). -/
def Mods.bits (m : Mods) : BitVec 6 :=
  bit m.om ++ BitVec.ofNat 2 m.rnd.code ++ bit m.sat ++ bit m.fzo ++ bit m.fzi
/-- GRD, bits [85:82] (Table 6-1). -/
def Guard.bits (g : Guard) : BitVec 4 := bit g.neg ++ g.pred
/-- HNT, bits [95:86] (Table 6-1); the top WAITC bit is 0. -/
def Hints.bits (h : Hints) : BitVec 10 :=
  (0 : BitVec 1) ++ h.waitc ++ bit h.rub ++ bit h.rua ++ bit h.yld ++ h.stall

/-- The guard, hints and MOD bits of a word (Table 6-1). -/
def Head.ofWord (w : Word96) : Head :=
  { guard := ⟨w.extractLsb' 82 3, w.getLsbD 85⟩
    hints := ⟨w.extractLsb' 93 2, w.getLsbD 92, w.getLsbD 91, w.getLsbD 90, w.extractLsb' 86 4⟩
    mods := ⟨w.getLsbD 81, Rnd.ofCode (w.extractLsb' 79 2).toNat, w.getLsbD 78, w.getLsbD 77,
      w.getLsbD 76⟩ }

/-- The fields of a word, with X read in both its ways (Table 6-1). -/
structure Fields where
  head : Head
  opc : Nat
  fn : Nat
  d : Operand
  a : Operand
  b : Operand
  c : Operand
  x : BitVec 32
  m : BitVec 22
  deriving DecidableEq, Repr

/-- The fields of a word (Table 6-1). -/
def Fields.ofWord (w : Word96) : Fields :=
  { head := Head.ofWord w
    opc := (w.extractLsb' 0 8).toNat
    fn := (w.extractLsb' 8 6).toNat
    d := Operand.ofBits (w.extractLsb' 14 10)
    a := Operand.ofBits (w.extractLsb' 24 10)
    b := Operand.ofBits (w.extractLsb' 34 10)
    c := Operand.ofBits (w.extractLsb' 44 10)
    x := w.extractLsb' 44 32
    m := w.extractLsb' 54 22 }

/-- A word put together from its fields (Table 6-1). -/
def asm (h : Head) (opc fn : Nat) (od oa ob : BitVec 10) (x : BitVec 32) : Word96 :=
  h.hints.bits ++ h.guard.bits ++ h.mods.bits ++ x ++ ob ++ oa ++ od ++ BitVec.ofNat 6 fn
    ++ BitVec.ofNat 8 opc

/-- X as source C with modifiers (R96). -/
def xc (m : BitVec 22) (c : BitVec 10) : BitVec 32 := m ++ c

/-- The instruction of a word whose OPC lies in 0x00-0x1F. -/
def decodeControl (f : Fields) : Option Instr :=
  match f.opc with
  | 0x01 =>
    if f.fn == 0x00 then some (.nop f.head)
    else none
  | 0x02 =>
    if f.fn == 0x00 then some (.rep f.head (RepMod.ofBits f.x))
    else none
  | 0x03 =>
    if f.fn == 0x00 then some (.bra f.head f.x)
    else if f.fn == 0x01 then some (.brx f.head f.a)
    else none
  | 0x04 =>
    if f.fn == 0x00 then some (.call f.head f.x)
    else if f.fn == 0x01 then some (.callx f.head f.a)
    else if f.fn == 0x02 then some (.ret f.head)
    else none
  | 0x05 =>
    if f.fn == 0x00 then some (.exit f.head)
    else none
  | 0x06 =>
    if f.fn == 0x00 then some (.trap f.head f.x)
    else if f.fn == 0x01 then some (.bkpt f.head f.x)
    else none
  | 0x07 =>
    if f.fn == 0x00 then some (.wcnt f.head (WcntMod.ofBits f.x))
    else if f.fn == 0x01 then some (.yield f.head)
    else none
  | 0x08 =>
    if f.fn == 0x00 then some (.srget f.head f.d f.a)
    else none
  | 0x09 =>
    if f.fn == 0x00 then some (.srset f.head f.d f.a)
    else if f.fn == 0x01 then some (.srsetSeed f.head f.a)
    else none
  | 0x10 =>
    if f.fn == 0x00 then some (.rti f.head)
    else none
  | 0x11 =>
    if f.fn == 0x00 then some (.tlbinv f.head f.a f.b)
    else none
  | 0x12 =>
    if f.fn == 0x00 then some (.icinv f.head f.a f.b)
    else none
  | 0x13 =>
    if f.fn == 0x00 then some (.ifence f.head)
    else none
  | 0x14 =>
    if f.fn == 0x00 then some (.ctxswSave f.head f.a)
    else none
  | 0x15 =>
    if f.fn == 0x00 then some (.ispsn f.head f.d f.a)
    else none
  | 0x16 =>
    if f.fn == 0x00 then some (.clrpsn f.head f.d)
    else none
  | 0x17 =>
    if f.fn == 0x00 then some (.wsave f.head)
    else none
  | 0x18 =>
    if f.fn == 0x00 then some (.wrest f.head)
    else none
  | _ => none

/-- The instruction of a word whose OPC lies in 0x20-0x5F. -/
def decodeInteger (f : Fields) : Option Instr :=
  match f.opc with
  | 0x20 => do
      let ty ← Ty.ofCode f.fn
      some (.add f.head ty f.d f.a f.b)
  | 0x21 => do
      let ty ← Ty.ofCode f.fn
      some (.sub f.head ty f.d f.a f.b)
  | 0x22 => do
      let ty ← Ty.ofCode f.fn
      some (.mul f.head ty f.d f.a f.b)
  | 0x23 => do
      let ty ← Ty.ofCode f.fn
      some (.mulhi f.head ty f.d f.a f.b)
  | 0x24 => do
      let ty ← Ty.ofCode f.fn
      some (.mad f.head ty f.d f.a f.b f.c)
  | 0x25 => do
      let ty ← Ty.ofCode f.fn
      some (.madw f.head ty f.d f.a f.b f.c)
  | 0x26 => do
      let ty ← Ty.ofCode f.fn
      some (.neg f.head ty f.d f.a)
  | 0x27 => do
      let ty ← Ty.ofCode f.fn
      some (.abs f.head ty f.d f.a)
  | 0x28 => do
      let ty ← Ty.ofCode f.fn
      some (.min f.head ty f.d f.a f.b)
  | 0x29 => do
      let ty ← Ty.ofCode f.fn
      some (.max f.head ty f.d f.a f.b)
  | 0x2A =>
    if 0x20 ≤ f.fn then do
        let ty ← Ty.ofCode (f.fn - 0x20)
        some (.andImm f.head ty f.d f.a f.x)
    else do
        let ty ← Ty.ofCode f.fn
        some (.and f.head ty f.d f.a f.b)
  | 0x2B =>
    if 0x20 ≤ f.fn then do
        let ty ← Ty.ofCode (f.fn - 0x20)
        some (.orImm f.head ty f.d f.a f.x)
    else do
        let ty ← Ty.ofCode f.fn
        some (.or f.head ty f.d f.a f.b)
  | 0x2C =>
    if 0x20 ≤ f.fn then do
        let ty ← Ty.ofCode (f.fn - 0x20)
        some (.xorImm f.head ty f.d f.a f.x)
    else do
        let ty ← Ty.ofCode f.fn
        some (.xor f.head ty f.d f.a f.b)
  | 0x2D => do
      let ty ← Ty.ofCode f.fn
      some (.not f.head ty f.d f.a)
  | 0x2E => do
      let ty ← Ty.ofCode f.fn
      some (.shl f.head ty f.d f.a f.b)
  | 0x2F => do
      let ty ← Ty.ofCode f.fn
      some (.shr f.head ty f.d f.a f.b)
  | 0x30 => do
      let ty ← Ty.ofCode f.fn
      some (.sar f.head ty f.d f.a f.b)
  | 0x31 => do
      let ty ← Ty.ofCode f.fn
      some (.rol f.head ty f.d f.a f.b)
  | 0x32 => do
      let ty ← Ty.ofCode f.fn
      some (.bfe f.head ty f.d f.a f.b f.c)
  | 0x33 => do
      let ty ← Ty.ofCode f.fn
      some (.bfi f.head ty f.d f.a f.b f.c)
  | 0x34 => do
      let ty ← Ty.ofCode f.fn
      some (.popc f.head ty f.d f.a)
  | 0x35 => do
      let ty ← Ty.ofCode f.fn
      some (.clz f.head ty f.d f.a)
  | 0x36 => do
      let ty ← Ty.ofCode f.fn
      some (.brev f.head ty f.d f.a)
  | 0x37 => do
      let ty ← Ty.ofCode f.fn
      some (.sel f.head ty f.d f.a f.b f.c)
  | 0x38 => do
      let ty ← Ty.ofCode f.fn
      some (.mov f.head ty f.d f.a)
  | 0x39 => do
      let ty ← Ty.ofCode f.fn
      some (.movi f.head ty f.d f.x)
  | 0x3A => do
      let ty ← Ty.ofCode f.fn
      some (.lea f.head ty f.d f.a f.b (LeaMod.ofBits f.m))
  | 0x3B => do
      let ty ← Ty.ofCode f.fn
      some (.idot4 f.head ty f.d f.a f.b f.c)
  | 0x3C => do
      let ty ← Ty.ofCode f.fn
      some (.sad f.head ty f.d f.a f.b f.c)
  | 0x40 =>
    if f.fn == 0x00 then some (.pand f.head f.d f.a f.b)
    else none
  | 0x41 =>
    if f.fn == 0x00 then some (.por f.head f.d f.a f.b)
    else none
  | 0x42 =>
    if f.fn == 0x00 then some (.pxor f.head f.d f.a f.b)
    else none
  | 0x43 =>
    if f.fn == 0x00 then some (.pnot f.head f.d f.a)
    else none
  | 0x48 => do
      let vm ← VoteOp.ofCode f.fn
      some (.vote f.head vm f.d f.a)
  | 0x49 => do
      let sm ← ShflOp.ofCode f.fn
      some (.shfl f.head sm f.d f.a f.b)
  | 0x4A => do
      let ty ← Ty.ofCode f.fn
      some (.bcast f.head ty f.d f.a f.b)
  | 0x4B => do
      let ty ← Ty.ofCode f.fn
      let op ← LaneOp.ofBits f.m
      some (.lred f.head ty f.d f.a op)
  | 0x4C => do
      let ty ← Ty.ofCode f.fn
      let op ← LaneOp.ofBits f.m
      some (.lscan f.head ty f.d f.a op)
  | 0x50 | 0x51 | 0x52 | 0x53 | 0x54 | 0x55 | 0x56 | 0x57 | 0x58 | 0x59 =>
    if 0x20 ≤ f.fn then do
        let cc ← Cmp.ofCode (f.opc - 0x50)
        let ty ← Ty.ofCode (f.fn - 0x20)
        some (.cmpImm f.head cc ty f.d f.a f.x)
    else do
        let cc ← Cmp.ofCode (f.opc - 0x50)
        let ty ← Ty.ofCode f.fn
        some (.cmp f.head cc ty f.d f.a f.b)
  | _ => none

/-- The instruction of a word whose OPC lies in 0x60-0x9F. -/
def decodeFloat (f : Fields) : Option Instr :=
  match f.opc with
  | 0x60 => do
      let ty ← Ty.ofCode f.fn
      some (.fadd f.head ty f.d f.a f.b)
  | 0x61 => do
      let ty ← Ty.ofCode f.fn
      some (.fsub f.head ty f.d f.a f.b)
  | 0x62 => do
      let ty ← Ty.ofCode f.fn
      some (.fmul f.head ty f.d f.a f.b)
  | 0x63 => do
      let ty ← Ty.ofCode f.fn
      some (.fma f.head ty f.d f.a f.b f.c)
  | 0x64 => do
      let ty ← Ty.ofCode f.fn
      some (.fmin f.head ty f.d f.a f.b)
  | 0x65 => do
      let ty ← Ty.ofCode f.fn
      some (.fmax f.head ty f.d f.a f.b)
  | 0x66 => do
      let ty ← Ty.ofCode f.fn
      some (.fclass f.head ty f.d f.a)
  | 0x67 => do
      let ty ← Ty.ofCode f.fn
      some (.frint f.head ty f.d f.a)
  | 0x68 => do
      let ty ← Ty.ofCode f.fn
      some (.fdot2 f.head ty f.d f.a f.b f.c)
  | 0x69 =>
    if 0x20 ≤ f.fn then do
        let ty ← Ty.ofCode (f.fn - 0x20)
        some (.packSr f.head ty f.d f.a f.b)
    else do
        let ty ← Ty.ofCode f.fn
        some (.pack f.head ty f.d f.a f.b)
  | 0x6A => do
      let ty ← Ty.ofCode f.fn
      some (.unpack f.head ty f.d f.a f.b)
  | 0x6B => do
      let ty ← Ty.ofCode f.fn
      some (.mxscale f.head ty f.d f.a f.b)
  | 0x70 =>
    if 0x20 ≤ f.fn then do
        let ty ← Ty.ofCode (f.fn - 0x20)
        some (.fcvtSr f.head ty f.d f.a)
    else do
        let ty ← Ty.ofCode f.fn
        some (.fcvt f.head ty f.d f.a)
  | 0x71 => do
      let ty ← Ty.ofCode f.fn
      some (.fcvtToF32 f.head ty f.d f.a)
  | 0x72 => do
      let ft ← Ty.ofCode (0x10 + f.fn / 16)
      let it ← Ty.ofCode (f.fn % 16)
      some (.icvt f.head ft it f.d f.a)
  | 0x73 => do
      let ft ← Ty.ofCode (0x10 + f.fn / 16)
      let it ← Ty.ofCode (f.fn % 16)
      some (.fcvti f.head ft it f.d f.a)
  | 0x78 => do
      let ty ← Ty.ofCode f.fn
      some (.rcp f.head ty f.d f.a)
  | 0x79 => do
      let ty ← Ty.ofCode f.fn
      some (.rsq f.head ty f.d f.a)
  | 0x7A => do
      let ty ← Ty.ofCode f.fn
      some (.sqrt f.head ty f.d f.a)
  | 0x7B => do
      let ty ← Ty.ofCode f.fn
      some (.exp2 f.head ty f.d f.a)
  | 0x7C => do
      let ty ← Ty.ofCode f.fn
      some (.log2 f.head ty f.d f.a)
  | 0x7D => do
      let ty ← Ty.ofCode f.fn
      some (.sinpi f.head ty f.d f.a)
  | 0x7E => do
      let ty ← Ty.ofCode f.fn
      some (.cospi f.head ty f.d f.a)
  | 0x7F => do
      let ty ← Ty.ofCode f.fn
      some (.tanh f.head ty f.d f.a)
  | 0x80 => do
      let ty ← Ty.ofCode f.fn
      some (.fdiv f.head ty f.d f.a f.b)
  | 0x90 | 0x91 | 0x92 | 0x93 | 0x94 | 0x95 => do
      let cc ← Cmp.ofCode (f.opc - 0x90)
      let ty ← Ty.ofCode f.fn
      some (.fcmp f.head cc ty f.d f.a f.b)
  | _ => none

/-- The instruction of a word whose OPC lies in 0xA0-0xBF. -/
def decodeMemory (f : Fields) : Option Instr :=
  match f.opc with
  | 0xA0 => do
      let ty ← Ty.ofCode f.fn
      let m ← MemMod.ofBits f.m
      some (.ld f.head ty f.d f.a m)
  | 0xA1 => do
      let ty ← Ty.ofCode f.fn
      let m ← MemMod.ofBits f.m
      some (.st f.head ty f.a f.b m)
  | 0xA2 => do
      let ty ← Ty.ofCode f.fn
      some (.ldsp f.head ty f.d f.a)
  | 0xA3 => do
      let ty ← Ty.ofCode f.fn
      some (.stsp f.head ty f.a f.b)
  | 0xA4 => do
      let ty ← Ty.ofCode f.fn
      some (.ldfe f.head ty f.d f.a)
  | 0xA5 => do
      let ty ← Ty.ofCode f.fn
      some (.stfe f.head ty f.a f.b)
  | 0xA6 => do
      let ty ← Ty.ofCode f.fn
      some (.ldstb f.head ty f.d f.a)
  | 0xA7 =>
    if f.fn == 0x00 then do
        let m ← MemMod.ofBits f.m
        some (.pref f.head f.a m)
    else none
  | 0xA8 =>
    if f.fn == 0x00 then some (.cflush f.head f.a f.b)
    else none
  | 0xA9 =>
    if f.fn == 0x00 then some (.cinv f.head f.a f.b)
    else none
  | 0xAA =>
    if f.fn == 0x2B then some (.fenceRemote f.head f.a)
    else do
        let o ← FenceOrd.ofCode (f.fn / 8)
        let sc ← Scope.ofCode (f.fn % 8)
        some (.fence f.head o sc)
  | 0xB0 => do
      let ty ← Ty.ofCode f.fn
      let m ← MemMod.ofBits f.m
      some (.atomAdd f.head ty f.d f.a f.b m)
  | 0xB1 => do
      let ty ← Ty.ofCode f.fn
      let m ← MemMod.ofBits f.m
      some (.atomMin f.head ty f.d f.a f.b m)
  | 0xB2 => do
      let ty ← Ty.ofCode f.fn
      let m ← MemMod.ofBits f.m
      some (.atomMax f.head ty f.d f.a f.b m)
  | 0xB3 => do
      let ty ← Ty.ofCode f.fn
      let m ← MemMod.ofBits f.m
      some (.atomAnd f.head ty f.d f.a f.b m)
  | 0xB4 => do
      let ty ← Ty.ofCode f.fn
      let m ← MemMod.ofBits f.m
      some (.atomOr f.head ty f.d f.a f.b m)
  | 0xB5 => do
      let ty ← Ty.ofCode f.fn
      let m ← MemMod.ofBits f.m
      some (.atomXor f.head ty f.d f.a f.b m)
  | 0xB6 => do
      let ty ← Ty.ofCode f.fn
      let m ← MemMod.ofBits f.m
      some (.atomExch f.head ty f.d f.a f.b m)
  | 0xB7 => do
      let ty ← Ty.ofCode f.fn
      let m ← MemMod.ofBits f.m
      some (.atomCas f.head ty f.d f.a f.b f.c m)
  | 0xB8 => do
      let ty ← Ty.ofCode f.fn
      let m ← MemMod.ofBits f.m
      some (.aredAdd f.head ty f.a f.b m)
  | 0xB9 => do
      let ty ← Ty.ofCode f.fn
      let m ← MemMod.ofBits f.m
      some (.aredMin f.head ty f.a f.b m)
  | 0xBA => do
      let ty ← Ty.ofCode f.fn
      let m ← MemMod.ofBits f.m
      some (.aredMax f.head ty f.a f.b m)
  | 0xBB =>
    if f.fn == 0x00 then some (.aflush f.head)
    else none
  | 0xBC => do
      let ty ← Ty.ofCode f.fn
      some (.rowld f.head ty f.d f.a f.b (RowLdMod.ofBits f.m))
  | 0xBD => do
      let ty ← Ty.ofCode f.fn
      some (.rowst f.head ty f.a f.b (RowStMod.ofBits f.m))
  | 0xBE => do
      let ty ← Ty.ofCode f.fn
      some (.rowadd f.head ty f.a f.b (RowStMod.ofBits f.m))
  | _ => none

/-- The instruction of a word whose OPC lies in 0xC0-0xD7. -/
def decodeMatrix (f : Fields) : Option Instr :=
  match f.opc with
  | 0xC0 => do
      let fa ← MxFmt.ofCode (f.fn / 8)
      let fb ← MxFmt.ofCode (f.fn % 8)
      let m ← TileMod.ofBits f.m
      some (.mma f.head fa fb f.d f.a f.b m)
  | 0xC1 => do
      let fa ← MxFmt.ofCode (f.fn / 8)
      let fb ← MxFmt.ofCode (f.fn % 8)
      let m ← TileMod.ofBits f.m
      some (.mmas f.head fa fb f.d f.a f.b f.c m)
  | 0xC2 => do
      let fa ← MxFmt.ofCode (f.fn / 8)
      let fb ← MxFmt.ofCode (f.fn % 8)
      some (.mmav f.head fa fb f.d f.a f.b (VecTileMod.ofBits f.m))
  | 0xC3 =>
    if f.fn == 0x00 then some (.omap f.head f.d f.a f.b)
    else none
  | 0xC4 =>
    if f.fn == 0x00 then some (.accClr f.head f.a f.b)
    else none
  | 0xC5 => do
      let ty ← Ty.ofCode f.fn
      let sh ← Shape.ofBits f.m
      some (.accLd f.head ty f.a f.b sh)
  | 0xC6 => do
      let ty ← Ty.ofCode f.fn
      let m ← StTileMod.ofBits f.m
      some (.accSt f.head ty f.a f.b m)
  | 0xC7 => do
      let ty ← Ty.ofCode f.fn
      let sh ← Shape.ofBits f.m
      some (.accCvt f.head ty f.a f.b sh)
  | 0xC8 => do
      let ty ← Ty.ofCode f.fn
      let m ← OrdMod.ofBits f.m
      let sh ← Shape.ofBits f.m
      some (.accSend f.head ty f.a f.b f.c m sh)
  | 0xC9 =>
    if f.fn == 0x00 then some (.trec f.head f.d f.a)
    else none
  | 0xCA =>
    if f.fn == 0x00 then do
        let m ← OrdMod.ofBits f.m
        some (.walk f.head f.a f.b f.c m)
    else none
  | 0xCB =>
    if f.fn == 0x00 then do
        let m ← OrdMod.ofBits f.m
        some (.copy f.head f.a f.b f.c m)
    else none
  | 0xCC =>
    if f.fn == 0x00 then do
        let m ← OrdMod.ofBits f.m
        some (.copyt f.head f.a f.b f.c m)
    else none
  | 0xCD =>
    if f.fn == 0x00 then some (.tbinit f.head f.a f.b)
    else none
  | 0xCE =>
    if f.fn == 0x00 then some (.tbexp f.head f.a f.b)
    else none
  | 0xCF =>
    if f.fn == 0x00 then some (.tbarr f.head f.a f.b)
    else none
  | 0xD0 =>
    if f.fn == 0x00 then some (.tbwait f.head f.d f.a f.b)
    else none
  | _ => none

/-- The instruction of a word whose OPC lies in 0xD8-0xFF. -/
def decodeSync (f : Fields) : Option Instr :=
  match f.opc with
  | 0xD8 =>
    if f.fn == 0x00 then some (.bar f.head f.a)
    else if f.fn == 0x01 then some (.cbar f.head f.a)
    else none
  | 0xD9 =>
    if f.fn == 0x00 then some (.qpush f.head f.a f.b)
    else if f.fn == 0x01 then some (.qpop f.head f.d f.a)
    else if f.fn == 0x02 then some (.qtry f.head f.d f.a)
    else if f.fn == 0x03 then some (.qgrant f.head f.a f.b f.c)
    else none
  | 0xDA => do
      let cc ← Cmp.ofCode (f.fn % 16)
      some (.hold f.head cc (f.fn.testBit 4) (f.fn.testBit 5) f.a f.b f.c)
  | 0xDB =>
    if f.fn == 0x00 then some (.hcancel f.head f.a)
    else none
  | 0xDC =>
    if f.fn == 0x00 then some (.parr f.head f.a f.b)
    else if f.fn == 0x01 then some (.pdrain f.head)
    else none
  | 0xDD =>
    if f.fn == 0x00 then some (.lwait f.head)
    else if f.fn == 0x01 then some (.ltrig f.head)
    else if f.fn == 0x02 then some (.launch f.head f.d f.a)
    else if f.fn == 0x03 then some (.range f.head f.d)
    else none
  | 0xE0 =>
    if f.fn == 0x00 then some (.tspawn f.head f.d f.a)
    else if f.fn == 0x01 then some (.tend f.head)
    else if f.fn == 0x02 then some (.tnspec f.head)
    else if f.fn == 0x03 then some (.tabort f.head)
    else if f.fn == 0x04 then some (.tyield f.head)
    else none
  | 0xE8 =>
    if f.fn == 0x00 then do
        let m ← OrdMod.ofBits f.m
        some (.rcall f.head f.a f.b f.c m)
    else none
  | 0xE9 =>
    if f.fn == 0x00 then some (.rret f.head f.a)
    else none
  | 0xEA =>
    if f.fn / 4 == 0 then do
        let ty ← bnkTyOf (f.fn - 0)
        some (.bnkDot f.head ty f.a f.b f.c)
    else if f.fn / 4 == 1 then do
        let ty ← bnkTyOf (f.fn - 4)
        some (.bnkAxpy f.head ty f.a f.b f.c)
    else if f.fn / 4 == 2 then do
        let ty ← bnkTyOf (f.fn - 8)
        some (.bnkScale f.head ty f.a f.b f.c)
    else if f.fn / 4 == 3 then do
        let ty ← bnkTyOf (f.fn - 12)
        some (.bnkFill f.head ty f.a f.b f.c)
    else if f.fn / 4 == 4 then do
        let ty ← bnkTyOf (f.fn - 16)
        some (.bnkCopy f.head ty f.a f.b f.c)
    else if f.fn / 4 == 5 then do
        let ty ← bnkTyOf (f.fn - 20)
        some (.bnkRed f.head ty f.a f.b f.c)
    else none
  | 0xEB =>
    if f.fn == 0x00 then some (.landOpen f.head f.a f.b)
    else if f.fn == 0x01 then some (.landClose f.head f.a)
    else none
  | _ => none

/-- The instruction a word's OPC and FN name, its reserved bits not yet looked at (R119). The four
operations of `ctxsw` share one word; `step` tells them apart by the OP of the command (R421). -/
def candidate (f : Fields) : Option Instr :=
  if f.opc < 0x20 then decodeControl f
  else if f.opc < 0x60 then decodeInteger f
  else if f.opc < 0xA0 then decodeFloat f
  else if f.opc < 0xC0 then decodeMemory f
  else if f.opc < 0xD8 then decodeMatrix f
  else decodeSync f

/-- The word of an instruction (Table 6-1, Tables 7-4 to 7-9); a step of the package has none. -/
def encode : Instr → Option Word96
  | .moduleReset => none
  | .bootcmdGo _ => none
  | .attestationRequest _ => none
  | .keyLoad _ => none
  | .keyClear _ => none
  | .memcntWrite _ => none
  | .qctlWrite _ _ => none
  | .qpiDoorbell _ _ => none
  | .partitionWrite _ _ _ => none
  | .arbiterDecision => none
  | .placementDecision => none
  | .starvationTimeout _ => none
  | .stageSample => none
  | .preemptCluster _ _ _ => none
  | .contextRestore _ _ _ => none
  | .blockExitComplete _ => none
  | .launchRetire _ => none
  | .lcancel _ => none
  | .fcctlWrite _ => none
  | .faultRecordWrite => none
  | .fresp _ => none
  | .svreqSave _ => none
  | .svreqReady _ => none
  | .svreqDiscard _ => none
  | .hbeat _ => none
  | .rateWrite _ _ => none
  | .berrWrite _ _ _ => none
  | .registerWrite _ _ _ => none
  | .hostMemoryAccess _ => none
  | .hostSnoop _ _ _ => none
  | .ualinkIncomingRequest _ => none
  | .l1Writeback _ _ => none
  | .l2Eviction _ => none
  | .migrationFill _ => none
  | .loadComplete _ _ => none
  | .storePerformed _ _ => none
  | .stallExpiry _ => none
  | .granuleAccessPerform _ _ => none
  | .matrixStart _ => none
  | .matrixComplete _ _ => none
  | .idleSelfTest _ _ => none
  | .engineReport _ _ _ => none
  | .engineCommandComplete _ _ => none
  | .engineFault _ _ => none
  | .rcallDeliver _ => none
  | .rootCallPlace _ => none
  | .rootBlockReturn _ => none
  | .bnkCommandComplete _ => none
  | .landingPacketArrival _ => none
  | .landingStagingAdmit _ => none
  | .phaseEnd _ => none
  | .watchArm _ => none
  | .watchTimeout _ => none
  | .frontierPublish _ => none
  | .taskDispatch _ => none
  | .taskSpillEngine _ => none
  | .capacityAbort _ => none
  | .spawnCapacityAbort _ => none
  | .taskCommit _ => none
  | .trapDelivery _ => none
  | .coreClockGate _ => none
  | .corePowerGate _ => none
  | .coreWake _ => none
  | .thermalSample _ _ => none
  | .heartbeatMissed _ => none
  | .hostWatchdogTimeout => none
  | .completionTimeout _ => none
  | .pathLossTimeout _ => none
  | .peerRequestTimeout _ => none
  | .linkDown _ => none
  | .nop h => some (asm h 0x01 0x00 0 0 0 0)
  | .rep h r => some (asm h 0x02 0x00 0 0 0 r.bits)
  | .bra h x => some (asm h 0x03 0x00 0 0 0 x)
  | .brx h a => some (asm h 0x03 0x01 0 a.bits 0 0)
  | .call h x => some (asm h 0x04 0x00 0 0 0 x)
  | .callx h a => some (asm h 0x04 0x01 0 a.bits 0 0)
  | .ret h => some (asm h 0x04 0x02 0 0 0 0)
  | .exit h => some (asm h 0x05 0x00 0 0 0 0)
  | .trap h x => some (asm h 0x06 0x00 0 0 0 x)
  | .bkpt h x => some (asm h 0x06 0x01 0 0 0 x)
  | .wcnt h l => some (asm h 0x07 0x00 0 0 0 l.bits)
  | .yield h => some (asm h 0x07 0x01 0 0 0 0)
  | .srget h d a => some (asm h 0x08 0x00 d.bits a.bits 0 0)
  | .srset h d a => some (asm h 0x09 0x00 d.bits a.bits 0 0)
  | .srsetSeed h a => some (asm h 0x09 0x01 0 a.bits 0 0)
  | .rti h => some (asm h 0x10 0x00 0 0 0 0)
  | .tlbinv h a b => some (asm h 0x11 0x00 0 a.bits b.bits 0)
  | .icinv h a b => some (asm h 0x12 0x00 0 a.bits b.bits 0)
  | .ifence h => some (asm h 0x13 0x00 0 0 0 0)
  | .ctxswSave h a => some (asm h 0x14 0x00 0 a.bits 0 0)
  | .ctxswReady h a => some (asm h 0x14 0x00 0 a.bits 0 0)
  | .ctxswDiscard h a => some (asm h 0x14 0x00 0 a.bits 0 0)
  | .ctxswPool h a => some (asm h 0x14 0x00 0 a.bits 0 0)
  | .ispsn h d a => some (asm h 0x15 0x00 d.bits a.bits 0 0)
  | .clrpsn h d => some (asm h 0x16 0x00 d.bits 0 0 0)
  | .wsave h => some (asm h 0x17 0x00 0 0 0 0)
  | .wrest h => some (asm h 0x18 0x00 0 0 0 0)
  | .add h ty d a b => some (asm h 0x20 ty.code d.bits a.bits b.bits 0)
  | .sub h ty d a b => some (asm h 0x21 ty.code d.bits a.bits b.bits 0)
  | .mul h ty d a b => some (asm h 0x22 ty.code d.bits a.bits b.bits 0)
  | .mulhi h ty d a b => some (asm h 0x23 ty.code d.bits a.bits b.bits 0)
  | .mad h ty d a b c => some (asm h 0x24 ty.code d.bits a.bits b.bits (xc 0 c.bits))
  | .madw h ty d a b c => some (asm h 0x25 ty.code d.bits a.bits b.bits (xc 0 c.bits))
  | .neg h ty d a => some (asm h 0x26 ty.code d.bits a.bits 0 0)
  | .abs h ty d a => some (asm h 0x27 ty.code d.bits a.bits 0 0)
  | .min h ty d a b => some (asm h 0x28 ty.code d.bits a.bits b.bits 0)
  | .max h ty d a b => some (asm h 0x29 ty.code d.bits a.bits b.bits 0)
  | .and h ty d a b => some (asm h 0x2A ty.code d.bits a.bits b.bits 0)
  | .andImm h ty d a x => some (asm h 0x2A (ty.code + 0x20) d.bits a.bits 0 x)
  | .or h ty d a b => some (asm h 0x2B ty.code d.bits a.bits b.bits 0)
  | .orImm h ty d a x => some (asm h 0x2B (ty.code + 0x20) d.bits a.bits 0 x)
  | .xor h ty d a b => some (asm h 0x2C ty.code d.bits a.bits b.bits 0)
  | .xorImm h ty d a x => some (asm h 0x2C (ty.code + 0x20) d.bits a.bits 0 x)
  | .not h ty d a => some (asm h 0x2D ty.code d.bits a.bits 0 0)
  | .shl h ty d a b => some (asm h 0x2E ty.code d.bits a.bits b.bits 0)
  | .shr h ty d a b => some (asm h 0x2F ty.code d.bits a.bits b.bits 0)
  | .sar h ty d a b => some (asm h 0x30 ty.code d.bits a.bits b.bits 0)
  | .rol h ty d a b => some (asm h 0x31 ty.code d.bits a.bits b.bits 0)
  | .bfe h ty d a b c => some (asm h 0x32 ty.code d.bits a.bits b.bits (xc 0 c.bits))
  | .bfi h ty d a b c => some (asm h 0x33 ty.code d.bits a.bits b.bits (xc 0 c.bits))
  | .popc h ty d a => some (asm h 0x34 ty.code d.bits a.bits 0 0)
  | .clz h ty d a => some (asm h 0x35 ty.code d.bits a.bits 0 0)
  | .brev h ty d a => some (asm h 0x36 ty.code d.bits a.bits 0 0)
  | .sel h ty d a b c => some (asm h 0x37 ty.code d.bits a.bits b.bits (xc 0 c.bits))
  | .mov h ty d a => some (asm h 0x38 ty.code d.bits a.bits 0 0)
  | .movi h ty d x => some (asm h 0x39 ty.code d.bits 0 0 x)
  | .lea h ty d a b m => some (asm h 0x3A ty.code d.bits a.bits b.bits (xc m.bits 0))
  | .idot4 h ty d a b c => some (asm h 0x3B ty.code d.bits a.bits b.bits (xc 0 c.bits))
  | .sad h ty d a b c => some (asm h 0x3C ty.code d.bits a.bits b.bits (xc 0 c.bits))
  | .pand h d a b => some (asm h 0x40 0x00 d.bits a.bits b.bits 0)
  | .por h d a b => some (asm h 0x41 0x00 d.bits a.bits b.bits 0)
  | .pxor h d a b => some (asm h 0x42 0x00 d.bits a.bits b.bits 0)
  | .pnot h d a => some (asm h 0x43 0x00 d.bits a.bits 0 0)
  | .vote h vm d a => some (asm h 0x48 vm.code d.bits a.bits 0 0)
  | .shfl h sm d a b => some (asm h 0x49 sm.code d.bits a.bits b.bits 0)
  | .bcast h ty d a b => some (asm h 0x4A ty.code d.bits a.bits b.bits 0)
  | .lred h ty d a op => some (asm h 0x4B ty.code d.bits a.bits 0 (xc op.bits 0))
  | .lscan h ty d a op => some (asm h 0x4C ty.code d.bits a.bits 0 (xc op.bits 0))
  | .cmp h cc ty d a b => some (asm h (0x50 + cc.code) ty.code d.bits a.bits b.bits 0)
  | .cmpImm h cc ty d a x => some (asm h (0x50 + cc.code) (ty.code + 0x20) d.bits a.bits 0 x)
  | .fadd h ty d a b => some (asm h 0x60 ty.code d.bits a.bits b.bits 0)
  | .fsub h ty d a b => some (asm h 0x61 ty.code d.bits a.bits b.bits 0)
  | .fmul h ty d a b => some (asm h 0x62 ty.code d.bits a.bits b.bits 0)
  | .fma h ty d a b c => some (asm h 0x63 ty.code d.bits a.bits b.bits (xc 0 c.bits))
  | .fmin h ty d a b => some (asm h 0x64 ty.code d.bits a.bits b.bits 0)
  | .fmax h ty d a b => some (asm h 0x65 ty.code d.bits a.bits b.bits 0)
  | .fclass h ty d a => some (asm h 0x66 ty.code d.bits a.bits 0 0)
  | .frint h ty d a => some (asm h 0x67 ty.code d.bits a.bits 0 0)
  | .fdot2 h ty d a b c => some (asm h 0x68 ty.code d.bits a.bits b.bits (xc 0 c.bits))
  | .pack h ty d a b => some (asm h 0x69 ty.code d.bits a.bits b.bits 0)
  | .packSr h ty d a b => some (asm h 0x69 (ty.code + 0x20) d.bits a.bits b.bits 0)
  | .unpack h ty d a b => some (asm h 0x6A ty.code d.bits a.bits b.bits 0)
  | .mxscale h ty d a b => some (asm h 0x6B ty.code d.bits a.bits b.bits 0)
  | .fcvt h ty d a => some (asm h 0x70 ty.code d.bits a.bits 0 0)
  | .fcvtSr h ty d a => some (asm h 0x70 (ty.code + 0x20) d.bits a.bits 0 0)
  | .fcvtToF32 h ty d a => some (asm h 0x71 ty.code d.bits a.bits 0 0)
  | .icvt h ft it d a => some (asm h 0x72 (16 * (ft.code - 0x10) + it.code) d.bits a.bits 0 0)
  | .fcvti h ft it d a => some (asm h 0x73 (16 * (ft.code - 0x10) + it.code) d.bits a.bits 0 0)
  | .rcp h ty d a => some (asm h 0x78 ty.code d.bits a.bits 0 0)
  | .rsq h ty d a => some (asm h 0x79 ty.code d.bits a.bits 0 0)
  | .sqrt h ty d a => some (asm h 0x7A ty.code d.bits a.bits 0 0)
  | .exp2 h ty d a => some (asm h 0x7B ty.code d.bits a.bits 0 0)
  | .log2 h ty d a => some (asm h 0x7C ty.code d.bits a.bits 0 0)
  | .sinpi h ty d a => some (asm h 0x7D ty.code d.bits a.bits 0 0)
  | .cospi h ty d a => some (asm h 0x7E ty.code d.bits a.bits 0 0)
  | .tanh h ty d a => some (asm h 0x7F ty.code d.bits a.bits 0 0)
  | .fdiv h ty d a b => some (asm h 0x80 ty.code d.bits a.bits b.bits 0)
  | .fcmp h cc ty d a b => some (asm h (0x90 + cc.code) ty.code d.bits a.bits b.bits 0)
  | .ld h ty d a m => some (asm h 0xA0 ty.code d.bits a.bits 0 (xc m.bits 0))
  | .st h ty a b m => some (asm h 0xA1 ty.code 0 a.bits b.bits (xc m.bits 0))
  | .ldsp h ty d a => some (asm h 0xA2 ty.code d.bits a.bits 0 0)
  | .stsp h ty a b => some (asm h 0xA3 ty.code 0 a.bits b.bits 0)
  | .ldfe h ty d a => some (asm h 0xA4 ty.code d.bits a.bits 0 0)
  | .stfe h ty a b => some (asm h 0xA5 ty.code 0 a.bits b.bits 0)
  | .ldstb h ty d a => some (asm h 0xA6 ty.code d.bits a.bits 0 0)
  | .pref h a m => some (asm h 0xA7 0x00 0 a.bits 0 (xc m.bits 0))
  | .cflush h a b => some (asm h 0xA8 0x00 0 a.bits b.bits 0)
  | .cinv h a b => some (asm h 0xA9 0x00 0 a.bits b.bits 0)
  | .fence h o sc => some (asm h 0xAA (8 * o.code + sc.code) 0 0 0 0)
  | .fenceRemote h a => some (asm h 0xAA 0x2B 0 a.bits 0 0)
  | .atomAdd h ty d a b m => some (asm h 0xB0 ty.code d.bits a.bits b.bits (xc m.bits 0))
  | .atomMin h ty d a b m => some (asm h 0xB1 ty.code d.bits a.bits b.bits (xc m.bits 0))
  | .atomMax h ty d a b m => some (asm h 0xB2 ty.code d.bits a.bits b.bits (xc m.bits 0))
  | .atomAnd h ty d a b m => some (asm h 0xB3 ty.code d.bits a.bits b.bits (xc m.bits 0))
  | .atomOr h ty d a b m => some (asm h 0xB4 ty.code d.bits a.bits b.bits (xc m.bits 0))
  | .atomXor h ty d a b m => some (asm h 0xB5 ty.code d.bits a.bits b.bits (xc m.bits 0))
  | .atomExch h ty d a b m => some (asm h 0xB6 ty.code d.bits a.bits b.bits (xc m.bits 0))
  | .atomCas h ty d a b c m => some (asm h 0xB7 ty.code d.bits a.bits b.bits (xc m.bits c.bits))
  | .aredAdd h ty a b m => some (asm h 0xB8 ty.code 0 a.bits b.bits (xc m.bits 0))
  | .aredMin h ty a b m => some (asm h 0xB9 ty.code 0 a.bits b.bits (xc m.bits 0))
  | .aredMax h ty a b m => some (asm h 0xBA ty.code 0 a.bits b.bits (xc m.bits 0))
  | .aflush h => some (asm h 0xBB 0x00 0 0 0 0)
  | .rowld h ty d a b m => some (asm h 0xBC ty.code d.bits a.bits b.bits (xc m.bits 0))
  | .rowst h ty a b m => some (asm h 0xBD ty.code 0 a.bits b.bits (xc m.bits 0))
  | .rowadd h ty a b m => some (asm h 0xBE ty.code 0 a.bits b.bits (xc m.bits 0))
  | .mma h fa fb d a b m => some (asm h 0xC0 (8 * fa.code + fb.code) d.bits a.bits b.bits (xc m.bits 0))
  | .mmas h fa fb d a b c m => some (asm h 0xC1 (8 * fa.code + fb.code) d.bits a.bits b.bits (xc m.bits c.bits))
  | .mmav h fa fb d a b m => some (asm h 0xC2 (8 * fa.code + fb.code) d.bits a.bits b.bits (xc m.bits 0))
  | .omap h d a b => some (asm h 0xC3 0x00 d.bits a.bits b.bits 0)
  | .accClr h a b => some (asm h 0xC4 0x00 0 a.bits b.bits 0)
  | .accLd h ty a b m => some (asm h 0xC5 ty.code 0 a.bits b.bits (xc m.bits 0))
  | .accSt h ty a b m => some (asm h 0xC6 ty.code 0 a.bits b.bits (xc m.bits 0))
  | .accCvt h ty a b m => some (asm h 0xC7 ty.code 0 a.bits b.bits (xc m.bits 0))
  | .accSend h ty a b c m m1 => some (asm h 0xC8 ty.code 0 a.bits b.bits (xc (m.bits ||| m1.bits) c.bits))
  | .trec h d a => some (asm h 0xC9 0x00 d.bits a.bits 0 0)
  | .walk h a b c m => some (asm h 0xCA 0x00 0 a.bits b.bits (xc m.bits c.bits))
  | .copyt h a b c m => some (asm h 0xCC 0x00 0 a.bits b.bits (xc m.bits c.bits))
  | .copy h a b c m => some (asm h 0xCB 0x00 0 a.bits b.bits (xc m.bits c.bits))
  | .tbinit h a b => some (asm h 0xCD 0x00 0 a.bits b.bits 0)
  | .tbexp h a b => some (asm h 0xCE 0x00 0 a.bits b.bits 0)
  | .tbarr h a b => some (asm h 0xCF 0x00 0 a.bits b.bits 0)
  | .tbwait h d a b => some (asm h 0xD0 0x00 d.bits a.bits b.bits 0)
  | .bar h a => some (asm h 0xD8 0x00 0 a.bits 0 0)
  | .cbar h a => some (asm h 0xD8 0x01 0 a.bits 0 0)
  | .qpush h a b => some (asm h 0xD9 0x00 0 a.bits b.bits 0)
  | .qpop h d a => some (asm h 0xD9 0x01 d.bits a.bits 0 0)
  | .qtry h d a => some (asm h 0xD9 0x02 d.bits a.bits 0 0)
  | .qgrant h a b c => some (asm h 0xD9 0x03 0 a.bits b.bits (xc 0 c.bits))
  | .hold h cc wide sys a b c => some (asm h 0xDA (cc.code + 16 * wide.toNat + 32 * sys.toNat) 0 a.bits b.bits (xc 0 c.bits))
  | .hcancel h a => some (asm h 0xDB 0x00 0 a.bits 0 0)
  | .parr h a b => some (asm h 0xDC 0x00 0 a.bits b.bits 0)
  | .pdrain h => some (asm h 0xDC 0x01 0 0 0 0)
  | .lwait h => some (asm h 0xDD 0x00 0 0 0 0)
  | .ltrig h => some (asm h 0xDD 0x01 0 0 0 0)
  | .launch h d a => some (asm h 0xDD 0x02 d.bits a.bits 0 0)
  | .range h d => some (asm h 0xDD 0x03 d.bits 0 0 0)
  | .tspawn h d a => some (asm h 0xE0 0x00 d.bits a.bits 0 0)
  | .tend h => some (asm h 0xE0 0x01 0 0 0 0)
  | .tnspec h => some (asm h 0xE0 0x02 0 0 0 0)
  | .tabort h => some (asm h 0xE0 0x03 0 0 0 0)
  | .tyield h => some (asm h 0xE0 0x04 0 0 0 0)
  | .rcall h a b c m => some (asm h 0xE8 0x00 0 a.bits b.bits (xc m.bits c.bits))
  | .rret h a => some (asm h 0xE9 0x00 0 a.bits 0 0)
  | .bnkDot h ty a b c => some (asm h 0xEA (0 + bnkTy ty) 0 a.bits b.bits (xc 0 c.bits))
  | .bnkAxpy h ty a b c => some (asm h 0xEA (4 + bnkTy ty) 0 a.bits b.bits (xc 0 c.bits))
  | .bnkScale h ty a b c => some (asm h 0xEA (8 + bnkTy ty) 0 a.bits b.bits (xc 0 c.bits))
  | .bnkFill h ty a b c => some (asm h 0xEA (12 + bnkTy ty) 0 a.bits b.bits (xc 0 c.bits))
  | .bnkCopy h ty a b c => some (asm h 0xEA (16 + bnkTy ty) 0 a.bits b.bits (xc 0 c.bits))
  | .bnkRed h ty a b c => some (asm h 0xEA (20 + bnkTy ty) 0 a.bits b.bits (xc 0 c.bits))
  | .landOpen h a b => some (asm h 0xEB 0x00 0 a.bits b.bits 0)
  | .landClose h a => some (asm h 0xEB 0x01 0 a.bits 0 0)
  | .patrolScrub _ => none
  | .dieLinkFence _ _ => none
  | .routePortDown _ _ => none
  | .hostLinkTraining _ _ _ => none
  | .cxlExpanderAttach _ _ => none
  | .peerWriteRefusal _ _ => none

/-- The instruction of a word, or why it is none (R105). A word is an instruction when the term its
fields name is well formed and has exactly this word, so no reserved bit is dropped. -/
def decode (w : Word96) : Decoded :=
  if w == 0 then .illegal .zeroWord
  else match candidate (Fields.ofWord w) with
    | none => .illegal .unassigned
    | some i => if i.wf && encode i == some w then .instr i else .illegal .reserved

/-- A word from its twelve bytes, lowest address first (R3, R95). -/
def wordOfBytes : List Byte → Word96
  | [] => 0
  | b :: bs => (wordOfBytes bs <<< 8) ||| b.setWidth 96

/-- The twelve bytes of a word as memory stores them (R3, R95). -/
def bytesOfWord (w : Word96) : List Byte :=
  (List.range 12).map fun k => w.extractLsb' (8 * k) 8

/-- The instruction of a row of the operation table whose bits are `w`: the word is laid out in
memory order and read back by `decode`. A word longer than 96 bits is none. -/
def decodeTableWord (nbits w : Nat) : Option Instr :=
  if nbits ≤ 96 then
    match decode (wordOfBytes (bytesOfWord (BitVec.ofNat 96 (w % 2 ^ nbits)))) with
    | .instr i => some i
    | .illegal _ => none
  else none

end Sys2Proof
end

