-- ==== Sys2Proof/Config.lean ====
section
/-! DEFINITION. What the specification leaves to the part or open: constants without a body, so that
no statement can rest on a value of theirs, and the figures of a full part. -/

namespace Sys2Proof.Config

/-! ### Free values -/

/-- The free value of number `n` of the counter `State.fresh` (assumption 20). -/
opaque freeBits : Nat → BitVec 64

/-- Whether the byte at offset `a` of a store keeps what an earlier block of its partition left
there when a block is placed (R75, assumption 12). -/
opaque entryKeeps : Nat → Nat → Bool

/-- The supervisor's entry address, where its slot begins each service (R397, assumption 6). -/
opaque supervisorEntry : BitVec 64

/-- The device's own evaluation of a special function: function code, type code, operand bits
(R179, assumption 10). A result outside the bound of Table 10-4 is not taken. -/
opaque special : (fn ty : Nat) → BitVec 64 → BitVec 64

/-- Bank [4:0], row [22:5] and column [29:23] of a 32-byte column of a pseudo-channel (R327, assumption
22). -/
opaque dramPlace : (column : Nat) → BitVec 30

/-! ### Secrets, random choices and signed objects (R443 to R446, assumption 13) -/

/-- The SHA-512 digest of mask ROM, and the digests it fixes of the keys that sign objects: 0 the Ed25519 key, 1 the ML-DSA-65
key (R443). -/
opaque romDigest : BitVec 512
opaque romKeyDigest : (key : Nat) → BitVec 512

/-- Where a part of a signed object lies in its bytes, and its length: 0 the object, 1 its body, 2 and 3 the Ed25519 key and
signature, 4 and 5 those of ML-DSA-65. -/
opaque objectPart : (part : Nat) → List (Nat × BitVec 8) → Nat × Nat

/-- A field of the configuration record in a signed object: 0 STEP, 1 CFGVER, 2 SERNO, 3 LPG, 4 FEATPKG, 5 MINFW,
6 to 9 the enable masks of cores, root cores, pseudo-channels and UALink lanes, and 16 + c the sub-arrays of core c. -/
opaque recordField : (field : Nat) → List (Nat × BitVec 8) → BitVec 1024

/-- The version field of a signed firmware image (Table 21-3). -/
opaque firmwareVersion : List (Nat × BitVec 8) → BitVec 16

/-- The X25519 secret of key exchange `n`, and the message that it encapsulates: the part's own random choices (R445). -/
opaque x25519Secret : (n : Nat) → BitVec 256
opaque kemMessage : (n : Nat) → BitVec 256

/-- The seed of the device's Ed25519 key pair, derived from the die-0 SRAM PUF (R445). -/
opaque ed25519Seed : BitVec 256

/-- The seed of the device's ML-DSA-65 key pair, from the same source. -/
opaque mlDsaSeed : BitVec 256

/-- The random bytes of the ML-DSA-65 signature of report `n`. -/
opaque mlDsaRandom : (n : Nat) → BitVec 256

/-- The window save area that the supervisor gives a group of a block (R69, R423, assumption 6). -/
opaque windowArea : (bid g : Nat) → BitVec 64

/-- Whether the self-test of boot step 1, and the training of boot step 4, pass (R443). -/
opaque bootStepPasses : (step attempt : Nat) → Bool

/-! ### Figures of a full part (Tables 1-1 and 1-2) -/

/-- Crown-die cores of a full part. -/
def cores : Nat := 320
/-- Root cores of a full part. -/
def rootCores : Nat := 512
/-- Scratchpad bytes of a core. -/
def scratchBytes : Nat := 0x200000
/-- Accumulator bytes of a core. -/
def accBytes : Nat := 0x800000
/-- Bytes of a migration table: 256 entries of a fill bit for each line of 2 MiB and four words; the size of an entry is the model's
(R196, R201; DESIGN CHOICE, log entry 77). -/
def migTableBytes : Nat := 256 * (2048 + 32)
/-- 128-byte lines that the L2 of a die caches: 384 MiB less the 1 MiB watch table, the 8 MiB version store and the migration table
(R14, R196, assumption 77). -/
def l2Lines : Nat := (384 * 2 ^ 20 - 2 ^ 20 - 8 * 2 ^ 20 - migTableBytes) / 128
/-- Local SRAM bytes of a root core (R306). -/
def sramBytes : Nat := 0x80000

end Sys2Proof.Config
end

