-- ==== Sys2Proof/Machine/State.lean ====
section
/-! DEFINITION. Everything the specification gives the part to hold, as plain data; the fault and
refusal reasons; and the part right after module reset. Registers whose reset value the
specification does not give are named in notes/assumptions/11.md. -/

namespace Sys2Proof.Machine

/-- A finite table keyed by number, in ascending key order without repeats. -/
abbrev Cells (α : Type) := List (Nat × α)

/-- Why a step has no next state. -/
inductive Fault where
  /-- `exec` of an encoded instruction was asked for while no context is chosen to issue, or the
  chosen context does not exist; no run of the part does this. Safe: nothing is claimed. -/
  | noIssuer
  deriving DecidableEq, Repr

/-- Why the model gives an instruction no meaning. -/
inductive Refusal where
  /-- The instruction has no meaning in the model yet. Raised by `exec` alone. Safe: nothing is
  claimed of it. -/
  | notModelled (mnemonic : String)
  deriving DecidableEq, Repr

/-! ### Groups -/

/-- A 32-bit vector register element with its tag bit (R67, R402). -/
structure Elem where
  v : Elem32 := 0
  tag : Bool := false
  deriving DecidableEq, Repr

/-- A 64-bit scalar with its tag bit (R71, R402). -/
structure Scal where
  v : W64 := 0
  tag : Bool := false
  deriving DecidableEq, Repr

/-- One lane: its PC, its call depth, whether it is live, and p0-p6 (R67, R72, R85). -/
structure Lane where
  pc : W64 := 0
  depth : Nat := 0
  live : Bool := true
  preds : BitVec 7 := 0
  deriving DecidableEq, Repr

/-- Where one element of an outstanding load goes: a slot of a lane's register column, the pair of slots
from `slot` up for a 64-bit element, or a scalar. -/
inductive Dest where
  | vreg (slot lane : Nat)
  | vpair (slot lane : Nat)
  | sreg (n : Nat)
  | nowhere
  deriving DecidableEq, Repr

/-- How a load reads its elements: through the L1, as a `.strm` load, at the home, on the stable path, from a scratchpad; as
element `e` of a row and the one after it in the same register, or as half `k` of the row's version; or in a way of its own, as
atomics do. -/
inductive LoadWay where
  | l1 | strm | home | stable | spad
  | row (e : Nat)
  | rowVer (k : Nat)
  | own
  deriving DecidableEq, Repr

/-- Where an element of an outstanding load comes from (R411, R441): its 32-byte sector where its address has one, its lane's address
and the element's offset from it, its type, and how it is read. -/
structure LoadSrc where
  sector : Option Nat := none
  ea : W64
  off : Nat := 0
  ty : Ty := .b32
  way : LoadWay := .own
  deriving DecidableEq, Repr

/-- One destination element of an outstanding load (R94), with where its value comes from; `given` once it has been written
early. -/
structure PendElem where
  dst : Dest
  v : W64
  tag : Bool
  src : Option LoadSrc := none
  given : Bool := false
  deriving DecidableEq, Repr

/-- An operation counted in LDCNT (`load`) or STCNT (R93). `blocked` counts the other steps it waits
for (granule accesses, an engine, the arbiter); at 0 it can complete. `sectors` are the 32-byte sectors of memory that its
outstanding requests name, those of one line in one request (R197, R441). -/
structure Pending where
  id : Nat
  load : Bool
  elems : List PendElem := []
  blocked : Nat := 0
  sectors : List Nat := []
  /-- issued by an iteration of a `rep`: 1, or 2 by one of the handler's; 0 otherwise (R102) -/
  iter : Nat := 0
  deriving DecidableEq, Repr

/-- A trap that became pending without an issuing instruction (R410). -/
structure AsyncTrap where
  cause : BitVec 8
  addr : W64
  /-- the held engine command's identifier, when the engine keeps the command (R284) -/
  cmd : Option Nat := none
  /-- an engine fault, which waits while a held command's trap has not returned (R284) -/
  engine : Bool := false
  /-- the access that failed was a write (R409) -/
  write : Bool := false
  /-- MPROG of the command that was dropped, which the group reads from the trap's delivery on (R285) -/
  mprog : Option W64 := none
  deriving DecidableEq, Repr

/-- What a `hold` waits for (R350): the physical element with its leaf's key slot, its width, condition and
operand, and the deadline. -/
structure WatchReq where
  pa : Nat
  key : Nat
  wide : Bool
  cc : Cmp
  v : W64
  deadline : W64
  sys : Bool
  /-- the launch and the virtual address it was translated for, the level of its leaf, and whether that is global (R418) -/
  lid : Nat := 0
  va : W64 := 0
  level : Nat := 1
  glob : Bool := false
  deriving DecidableEq, Repr

/-- What keeps a group from issuing beyond its instruction's own conditions. -/
inductive Hold where
  | none
  /-- delivered to the supervisor, which has not ended its service (R397) -/
  | trapped
  /-- a raised trap waits until its scheduler's supervisor slot is free (R397) -/
  | svWait
  /-- a speculative task's trap waits until the task is non-speculative (R386) -/
  | deferred
  /-- arrived at block barrier `n` (R335) -/
  | bar (n : Nat)
  /-- arrived at cluster barrier `n` (R335) -/
  | cbar (n : Nat)
  /-- held in `lwait` (R361) -/
  | lwait
  /-- `hold` issued, not yet armed (R351); `full` once it has met a full overflow list (R356) -/
  | arming (w : WatchReq) (full : Bool)
  /-- armed at its home (R351) -/
  | armed
  /-- ended: the acquire of R258 at this scope comes before the next issue -/
  | acquire (sc : Scope)
  /-- in `wcnt`, until the counts are low enough; with the STALL and YLD of its word (R145) -/
  | wcnt (ldmax stmax stall : Nat) (yld : Bool)
  deriving DecidableEq, Repr

/-- A group of lanes with everything the specification gives it (R67, R71, R73, R93, R396, R398). A
supervisor slot's register bank is a group too (R397). -/
structure Group where
  /-- lanes of the group: 32 on a core, 16 on a root core -/
  width : Nat := 32
  /-- WINDOW, so CAP = 48 W + 16 -/
  win : Nat := 1
  /-- SCALARS -/
  nscal : Nat := 8
  lanes : List Lane := []
  /-- register stack: slot s of lane l at key 32 s + l -/
  regs : Cells Elem := []
  scal : Cells Scal := []
  rb : Nat := 0
  hb : Option Nat := .none
  hr : BitVec 32 := 0
  hrPc : W64 := 0
  /-- every lane that has returned from the handler took `hrPc` (R417) -/
  hrSame : Bool := true
  sched : Nat := 0
  slot : Nat := 0
  stall : Nat := 0
  hold : Hold := .none
  ended : Bool := false
  nextId : Nat := 0
  /-- outstanding loads numbered below this come before an access or a synchronisation of the group that has been performed, so
  issued again after a save they keep the value that they had read (R250, R411) -/
  ordered : Nat := 0
  pend : List Pending := []
  flags : BitVec 32 := 0
  trapc : BitVec 32 := 0
  trapa : W64 := 0
  trappc : W64 := 0
  psnm : BitVec 32 := 0
  repi : BitVec 32 := 0
  /-- the `rep` in progress at the run's PC (R102) -/
  rep : Option RepMod := .none
  hstat : BitVec 32 := 0
  qstat : BitVec 32 := 0
  /-- the push on a named queue that the group waits to perform, and its PC (R342) -/
  push : Option (W64 × Head × Operand × Operand) := .none
  /-- MPROG of a dropped command, until the group next issues an engine instruction (R285) -/
  mprog : W64 := 0
  ts : W64 := 0
  taskid : BitVec 32 := 0
  /-- spawn sequence of the task the group runs (R366) -/
  task : Option Nat := .none
  /-- when the group became free for dispatch (R370) -/
  freeSince : Nat := 0
  /-- a stopped task group that is free once its counts are 0 (R381) -/
  stopping : Bool := false
  /-- its last `tspawn` found neither its bank nor the ring with room (R384) -/
  spawnWait : Bool := false
  drain : BitVec 32 := 0
  ltrig : Bool := false
  origins : Cells W64 := []
  originNext : Nat := 0
  wsarea : W64 := 0
  /-- words fetched ahead of issue: PC and word (R79) -/
  ahead : List (W64 × Word96) := []
  asyncs : List AsyncTrap := []
  /-- the stage-queue item the group holds (R343) -/
  item : Bool := false
  /-- the trapping run's lanes, by number, while a trap is in service (R397) -/
  trapRun : List Nat := []
  /-- the held engine command that the trap in service is about (R284) -/
  svcCmd : Option Nat := .none
  /-- the trap in service is that command's own, and no later one of its handler (R284, R399) -/
  svcNow : Bool := false
  /-- the access that raised the last trap was a write, as a PFAULT's record reports it (R409) -/
  trapWr : Bool := false
  /-- the trap in service is a PFAULT that waits for the host's answer (R409) -/
  asked : Bool := false
  /-- the last issue's time (R447), and its place among the issues of the unit, 0 while it has not issued since it was placed or
  restored (R89, assumption 104) -/
  lastIssue : Nat := 0
  issueNo : Nat := 0
  deriving DecidableEq, Repr

/-! ### Blocks -/

/-- A block or cluster barrier: phase and arrived mask (R335). -/
structure Barrier where
  phase : Bool := false
  mask : List Nat := []
  deriving DecidableEq, Repr

/-- A named queue of a block (R338); each group's allowance A and in-flight count F by its number. -/
structure NamedQueue where
  slots : Nat
  slotb : Nat
  /-- the ring's offset within the block's scratchpad run -/
  base : Nat
  head : Nat := 0
  /-- the pushers of the occupied slots, head first -/
  pushers : List Nat := []
  allow : List Nat := []
  inflight : List Nat := []
  deriving DecidableEq, Repr

/-- A tensor record (Table 15-6). -/
structure TensorRec where
  base : W64
  fmt : Nat
  rank : Nat
  oob : Nat
  swz : Bool
  ext : List Nat
  str : List Nat
  box : List Nat
  mxl : Bool
  deriving DecidableEq, Repr

/-- A tensor record slot (R296). -/
inductive TrecSlot where
  | empty
  /-- the `trec` of group `g` counted as `pend`, from `va`: the record when it is valid, or the cause of its failed read -/
  | loading (g pend : Nat) (va : W64) (r : Option TensorRec) (cause : Option (BitVec 8 × W64))
  | valid (r : TensorRec)
  | invalid
  | failed (cause : BitVec 8) (addr : W64)
  deriving DecidableEq, Repr

/-- A block: its place in the launch, its runs, and what its groups share (R61, R269, R296, R335,
R338). -/
structure Block where
  bid : Nat
  lid : Nat
  stage : Nat := 0
  cidx : Nat := 0
  /-- rank in the cluster (R213) -/
  rank : Nat := 0
  blk : List Nat := [0, 0, 0]
  clu : List Nat := [0, 0, 0]
  /-- linear index (R26) -/
  index : Nat := 0
  /-- the unit that holds it: a core, or 0x8000 + a root core -/
  unit : Nat
  segBase : Nat := 0
  segLen : Nat := 0
  spBase : Nat := 0
  spLen : Nat := 0
  accBase : Nat := 0
  accLen : Nat := 0
  groups : List Group := []
  bars : Cells Barrier := []
  queues : List NamedQueue := []
  omaps : Cells W64 := []
  trecs : Cells TrecSlot := []
  /-- for a root block: the live call it serves, and its recorded result (R318) -/
  call : Option Nat := .none
  result : Option (BitVec 32) := .none
  /-- a terminated block's cause (R400) -/
  cause : Option (BitVec 8) := .none
  deriving DecidableEq, Repr

/-! ### Engines -/

/-- What an engine command does (R283, R293, R294, R297 to R299). -/
inductive EngKind where
  | copy (dst src : W64) (len : Nat)
  | walk (r : TensorRec) (coord : List Int) (dst : Nat)
  | copyt (r : TensorRec) (coord : List Int) (src : Nat)
  | send (acc : Nat) (va : W64) (x64 : Bool) (shape : Shape) (e : Int) (srcRank : Nat)
  | stMem (acc : Nat) (va : W64) (ty : Ty) (shape : Shape) (rnd : Rnd) (sat : Bool)
  deriving DecidableEq, Repr

/-- A command of the walker, the copy engine, `acc.send` or `acc.st` with DMEM. `done` counts
units in the command's own order: bytes, box rows, destination lines (Table 15-3). -/
structure EngCmd where
  id : Nat
  bid : Nat
  g : Nat
  pend : Nat
  kind : EngKind
  rel : Option Scope := .none
  /-- the transaction barrier's block and scratchpad offset (R303) -/
  bar : Option (Nat × Nat) := .none
  done : Nat := 0
  /-- held for a PFAULT until the group's `rti` (R284) -/
  held : Bool := false
  /-- it has been saved with its block (R285) -/
  saved : Bool := false
  /-- address of the lowest marked granule the command has met (R286) -/
  poison : Option Nat := .none
  /-- packets sent and not yet accepted, or not yet applied with REL (Table 15-2) -/
  inflight : Nat := 0
  deriving DecidableEq, Repr

/-- One operand of a matrix instruction: a map descriptor, or captured lanes of registers (R269,
R272). -/
inductive MxOperand where
  | map (d : W64)
  | frag (lanes : List (List Elem32)) (scale : Option (List Byte))
  deriving DecidableEq, Repr

/-- What a matrix-queue entry does (R265, R287, R291 to R293). -/
inductive MxKind where
  /-- `sparse` is the metadata's offset with its bitmap, read at issue (R275) -/
  | mul (sparse : Option (Nat × BitVec 128)) (fa fb : MxFmt) (z sat : Bool) (a b : MxOperand) (shape : Shape) (chunks : Nat)
  | clr (bytes : Nat)
  | load (ty : Ty) (sp : Nat) (shape : Shape)
  | store (ty : Ty) (sp : Nat) (shape : Shape) (rnd : Rnd) (sat : Bool)
  | cvt (ty : Ty) (acc2 : Nat) (shape : Shape) (rnd : Rnd) (sat : Bool)
  /-- the place of an `acc.send` or `acc.st` with DMEM whose work is engine command `cmd` -/
  | engine (cmd : Nat) (shape : Shape)
  deriving DecidableEq, Repr

/-- An entry of the matrix queue (R265). `set` is the first sub-array and size of its set once it
has started; `done` has bit t set once sub-tile t is written. -/
structure MxCmd where
  id : Nat
  bid : Nat
  g : Nat
  pend : Nat
  acc : Nat
  kind : MxKind
  started : Bool := false
  set : Option (Nat × Nat) := .none
  done : BitVec 16 := 0
  /-- marked granules, of its block's run, that its passes have met (R286) -/
  poison : List Nat := []
  /-- it has been saved with its block (R285) -/
  saved : Bool := false
  deriving DecidableEq, Repr

/-- One lane's element of a granule access: its offset in the scratchpad, its address operand, the destination of an `ldfe`,
the value of an `stfe`. -/
structure GranPart where
  lane : Nat
  off : Nat
  va : W64
  dst : Dest := .nowhere
  v : W64 := 0
  deriving DecidableEq, Repr

/-- A granule access of `ldfe` or `stfe` that waits or is to be performed (R214). -/
structure GranAccess where
  ctx : Ctx
  pend : Nat
  granule : Nat
  /-- `ldfe` reads; its `.clr` empties -/
  load : Bool
  clr : Bool
  ty : Ty
  parts : List GranPart
  deriving DecidableEq, Repr

/-- A near-bank command (R323). -/
structure BnkCmd where
  bid : Nat
  g : Nat
  pend : Nat
  op : Nat
  ty : Ty
  apa : Nat
  bpa : Nat
  /-- the pages its addresses lie in, each with the level of its leaf and whether that is global (R418) -/
  pages : List (W64 × Nat × Bool) := []
  n : Nat
  val : BitVec 32
  deriving DecidableEq, Repr

/-- A run of a block on a unit's stores, by the partition of the block (R75). -/
structure Owner where
  part : Nat
  spBase : Nat
  spLen : Nat
  accBase : Nat
  accLen : Nat
  deriving DecidableEq, Repr

/-- A suspended block: the block with the bytes its runs held (R411, Table 19-4). -/
structure Image where
  block : Block
  sp : Cells Byte
  full : List Nat
  spPoison : List Nat
  acc : Cells Byte
  accPoison : List Nat
  cmds : List EngCmd := []
  mx : List MxCmd := []
  grans : List GranAccess := []
  /-- its cluster has something to run: not so while each of its groups waits for a watch (R357) -/
  ready : Bool
  /-- saved by SAVE: it stays suspended until READY (R421) -/
  kept : Bool := false
  /-- reported to the host as NORESTORE (R413) -/
  told : Bool := false
  /-- the image's place in the save pool -/
  poolBase : Nat
  poolLen : Nat
  deriving DecidableEq, Repr

/-! ### Units -/

/-- A line of a core's L1: its bytes, the bytes written since its fill, its key slot and poison
(R195, R407). `seq` orders lines by their last write, `used` by their last use (R206). -/
structure L1Line where
  data : BitVec 1024
  mask : BitVec 128 := 0
  key : Nat := 0
  poison : Bool := false
  seq : Nat := 0
  used : Nat := 0
  deriving DecidableEq, Repr

/-- A line of the stable path (R199), as read under its key slot (R204). -/
structure StbLine where
  lid : Nat
  line : Nat
  key : Nat
  data : BitVec 1024
  poison : Bool
  deriving DecidableEq, Repr

/-- A cached translation: launch, page table, virtual page, leaf entry and its level (R185, R189). -/
structure TlbEntry where
  lid : Nat
  root : W64
  vpn : Nat
  leaf : W64
  leafPa : Nat
  level : Nat
  deriving DecidableEq, Repr

/-- A partial of an atomic buffer, or a held partial (R225, R227). `pos` is the issue position of its first
contribution, `key` the key slot of its element's leaf, and `va` the address its group named. -/
structure Partial where
  lid : Nat
  core : Nat
  sched : Nat
  slot : Nat
  pos : Nat
  bid : Nat
  g : Nat
  /-- 0 add, 1 min, 2 max -/
  op : Nat
  ty : Ty
  pa : Nat
  va : W64
  v : W64
  key : Nat
  /-- for `rowadd`: the row's address, and its elements with their `.f32` partials; `pa` is then the
  first element of the span -/
  row : Option (Nat × List (Nat × BitVec 32)) := .none
  /-- stamp W and PART of the writer (R239) -/
  stamp : W64 := 0
  part : Nat := 0
  /-- the addresses that its contributions were translated from, each with the level of its leaf and whether that is global (R418) -/
  pages : List (W64 × Nat × Bool) := []
  deriving DecidableEq, Repr

/-- The supervisor slot of a scheduler (R397, R401). -/
structure SupSlot where
  g : Group := {}
  active : Bool := false
  svgrp : BitVec 32 := 0
  svdisp : BitVec 32 := 0
  svpc : W64 := 0
  svevt : BitVec 32 := 0
  /-- events that wait for the slot -/
  events : List (BitVec 32) := []
  deriving DecidableEq, Repr

/-- Power states of Table 21-4. -/
inductive Power where
  | c0 | c1 | c2
  deriving DecidableEq, Repr

/-- A counter of Table 21-5. -/
structure Counter where
  ctl : W64 := 0
  val : BitVec 48 := 0
  deriving DecidableEq, Repr

/-- A crown-die core or a root core (R14, R306). -/
structure Proc where
  /-- cycles that CLK has not counted, the core being gated (Table 4-2, R447) -/
  clkMissed : W64 := 0
  power : Power := .c0
  /-- TIME since which it could be gated (R447) -/
  idleSince : Nat := 0
  halted : Bool := false
  /-- FEAT bits lost to run-time fencing (R84) -/
  featLost : W64 := 0
  sp : Cells Byte := []
  full : List Nat := []
  spPoison : List Nat := []
  acc : Cells Byte := []
  accPoison : List Nat := []
  /-- runs that blocks have held in the stores, latest first (R75) -/
  owners : List Owner := []
  l1 : Cells L1Line := []
  l1Seq : Nat := 0
  stb : List StbLine := []
  /-- instruction cache: line number and bytes (R78) -/
  icache : Cells (BitVec 1024) := []
  itlb : List TlbEntry := []
  dtlb : List TlbEntry := []
  wtlb : List TlbEntry := []
  gen : W64 := 0x9E3779B97F4A7C15
  draws : List (BitVec 16) := []
  sups : Cells SupSlot := []
  /-- schedulers' atomic buffers, oldest first (R225) -/
  abuf : List Partial := []
  grans : List GranAccess := []
  mx : List MxCmd := []
  cmds : List EngCmd := []
  rtfence : BitVec 16 := 0
  fails : BitVec 16 := 0
  /-- chunks of figure 3 each sub-array has processed, modulo 85 (R267) -/
  chunks85 : Cells Nat := []
  /-- sub-arrays whose next self-test fails: data from outside (R277) -/
  failing : BitVec 16 := 0
  counters : Cells Counter := []
  /-- root core: calls waiting in the inbox, oldest first (R314) -/
  inbox : List Nat := []
  bnk : List BnkCmd := []
  berr : Cells W64 := []
  /-- issues so far (R89) -/
  issues : Nat := 0
  /-- per scheduler, the group issued from last, how many runs in a row it has issued, and whether the last had YLD (R89) -/
  lastSlot : Cells (Ctx × Nat × Bool) := []
  /-- per scheduler, the arithmetic clock since which every resident group has been found held, in twentieths of a cycle (R447)
  -/
  still : Cells Nat := []
  deriving DecidableEq, Repr

/-! ### Launches and tasks -/

/-- A launch record (Table 2-4), as the arbiter read it, with the image's values taken (R31). -/
structure LaunchRec where
  imageva : W64 := 0
  ext : List Nat := [1, 1, 1]
  shape : List Nat := [1, 1, 1]
  stagecnt : Nat := 0
  groups : Nat := 1
  window : Nat := 1
  scalars : Nat := 8
  lflags : Nat := 0
  scratchb : Nat := 0
  accumb : Nat := 0
  prio : Nat := 0
  part : Nat := 0
  keyslot : Nat := 0
  argva : W64 := 0
  arglen : Nat := 0
  prod0 : Nat := 0
  prod1 : Nat := 0
  doneva : W64 := 0
  doneval : W64 := 0
  rtotal : Nat := 0
  rmin : Nat := 0
  rdiv : Nat := 0
  phaseva : W64 := 0
  stageva : W64 := 0
  taskva : W64 := 0
  deriving DecidableEq, Repr

/-- An image header (Table 2-2). -/
structure ImageHdr where
  needfeat : W64 := 0
  codeoff : Nat := 0x100
  codelen : Nat := 12
  dataoff : Nat := 0
  datalen : Nat := 0
  entry : Nat := 0x100
  handler : Nat := 0
  groups : Nat := 1
  window : Nat := 1
  scalars : Nat := 8
  nqueue : Nat := 0
  scratch : Nat := 0
  accum : Nat := 0
  stages : Nat := 0
  iflags : Nat := 0
  imglen : Nat := 0x200
  queues : List W64 := []
  deriving DecidableEq, Repr

/-- A stage of a pipelined launch (Table 2-6, R58, R59, R343). -/
structure StageRec where
  sentry : Nat
  itemb : Nat
  qva : W64
  qcap : Nat
  minc : Nat
  maxc : Nat
  initc : Nat
  /-- cores assigned, each with the TIME it was given and the TIME it was last moved -/
  cores : List (Nat × Nat × Option Nat) := []
  /-- output queue: items pushed in all, popped in all, and counted (R343) -/
  pushed : Nat := 0
  popped : Nat := 0
  counted : Nat := 0
  /-- whether the donor and taker conditions held at the last sample (R59) -/
  wasDonor : Bool := false
  wasTaker : Bool := false
  deriving DecidableEq, Repr

/-- Where a record stands (Table 18-4). A running record's `parked` and non-speculative state follow
from its group and the published key. -/
inductive TaskSt where
  | queued (bank : Nat)
  | spilled
  | running (bid g : Nat)
  | finished (cluster : Nat)
  deriving DecidableEq, Repr

/-- A task record (Table 18-1). -/
structure TaskRec where
  n : Nat
  ts : Nat
  entry : Nat
  nospec : Bool
  /-- the spawning task's sequence plus 1, 0 for an initial record; PARENT is its id (R366) -/
  parent : Nat
  args : List W64
  rtiles : BitVec 32
  wtiles : BitVec 32
  st : TaskSt
  /-- non-speculative (R374) -/
  ns : Bool := false
  /-- re-queued by `tabort` and not ready (R393) -/
  unready : Bool := false
  /-- bank cluster where it last ran -/
  home : Nat := 0
  /-- the die whose dependence table holds its tile sets (R372) -/
  table : Option Nat := .none
  /-- the 64-byte place of the overflow ring that holds its image (R369) -/
  ring : Nat := 0
  /-- TIME since which it stalls for version space, and the die whose store is full (R383) -/
  stalled : Option (Nat × Nat) := .none
  deriving DecidableEq, Repr

/-- How a producer stands for a dependent launch (R54, R361). -/
inductive ProdSt where
  | waiting
  | triggered
  | failed (cause : BitVec 8) (time : Nat)
  deriving DecidableEq, Repr

/-- A live launch (R43). -/
structure Launch where
  lid : Nat
  r : LaunchRec
  img : ImageHdr
  ptroot : W64
  /-- the host queue it came from, or the group that issued it -/
  queue : Option Nat
  issuer : Option (Nat × Nat) := .none
  /-- launch whose MSI-X vector it uses (R429) -/
  vector : Nat := 0
  order : Nat := 0
  /-- next cluster index to place, per stage -/
  next : List Nat := [0]
  /-- blocks exited or terminated in all, and per stage -/
  exited : List Nat := [0]
  cause : Option (BitVec 8) := .none
  cancelled : Bool := false
  triggered : Bool := false
  /-- blocks that executed `ltrig` in every group or exited, per stage and index (R54) -/
  trigBlocks : List Nat := []
  prods : List ProdSt := []
  /-- per stage, TIME since which its next cluster has been unplaceable (R47) -/
  waits : Cells Nat := []
  rem : Nat := 0
  tree : Option Nat := .none
  phase : Nat := 0
  /-- destinations: id, expected count, C (R346) -/
  dests : List (Nat × Nat × Int) := []
  stages : List StageRec := []
  stagesFixed : Bool := false
  chan : Option Nat := .none
  banks : List Nat := []
  ringva : W64 := 0
  ringb : Nat := 0
  tasks : List TaskRec := []
  /-- initial records not yet entered in a bank -/
  initial : List TaskRec := []
  /-- an initial record breaks R365 -/
  initialBad : Bool := false
  nextSeq : Nat := 0
  /-- the published frontier key: TSTAMP and sequence (R367) -/
  front : Option (Nat × Nat) := .none
  /-- stages whose next cluster has starved (R47) -/
  starved : List Nat := []
  /-- TIME of the last abort that made room for a `tspawn` (R384) -/
  spawnAbort : Option Nat := .none
  /-- the minimum key that a rescan of the ring still reports (R369) -/
  ringOld : Option (Nat × Nat) := .none
  /-- banks whose spill down to 3,584 records, and whose refill up to 2,048, the rate cap has broken off (R369, R454) -/
  spilling : List Nat := []
  refilling : List Nat := []
  /-- FRAG counted: stage, cluster and core (R65) -/
  fragged : List (Nat × Nat × Nat) := []
  deriving DecidableEq, Repr

/-- A block's resources, freed after the next cluster of a launch's stage had starved (R47). -/
structure Ghost where
  lid : Nat
  stage : Nat
  block : Block
  deriving DecidableEq, Repr

/-- A version or a tracking mark of the version store (R377). `ver` is none for a mark. -/
structure Version where
  lid : Nat
  n : Nat
  line : Nat
  key : Nat := 0
  ver : Option (BitVec 1024 × BitVec 128)
  /-- its write into the line meets an uncorrectable error (R385) -/
  bad : Bool := false
  deriving DecidableEq, Repr

/-! ### Root side and reductions -/

/-- Where a call stands (R314, R315, R319, R320). -/
inductive CallSt where
  | issued
  | inbox
  | running (bid : Nat)
  | returned
  deriving DecidableEq, Repr

/-- A live `rcall` (R311 to R320). -/
structure RCall where
  id : Nat
  lid : Nat
  caller : Nat
  g : Nat
  pend : Nat
  owner : Nat
  msg : List Byte
  entry : Nat
  /-- the barrier: block and offset in its scratchpad run -/
  barBid : Nat
  barOff : Nat
  rel : Option Scope
  /-- the pages of its ranges: an address, the level of its leaf, and whether that is global (R418) -/
  pages : List (W64 × Nat × Bool) := []
  /-- lines of the read and the write ranges, by physical line number -/
  rlines : List Nat
  wlines : List Nat
  /-- the caller's linear index, coordinates, stage and partition (R316) -/
  index : Nat
  coords : List Nat
  stage : Nat
  part : Nat
  st : CallSt := .issued
  result : BitVec 32 := 0
  err : BitVec 8 := 0
  deriving DecidableEq, Repr

/-- A reduction packet in flight (R437, Table 20-5). -/
structure Packet where
  pa : Nat
  va : W64
  x64 : Bool
  rank : Nat
  e : Int
  corrupt : Bool
  /-- an element saturated, or was a NaN, when it was encoded (R134) -/
  ovf : Bool := false
  data : BitVec 1024
  residues : List Nat
  /-- the sending command's identifier; none for a packet from a peer -/
  cmd : Option Nat
  rel : Bool
  /-- waits for staging at its root die (R332) -/
  waiting : Bool := false
  /-- the level of the leaf its address was translated by, and whether that is global (R418) -/
  level : Nat := 1
  glob : Bool := false
  /-- the sender's UALink id and CORE (Table 20-5) -/
  src : BitVec 32 := 0
  deriving DecidableEq, Repr

/-- What has reached one line of a landing (R330, R331): ranks seen with their data, none for a
refused or corrupt packet's place. -/
structure LandLine where
  line : Nat
  got : List (Nat × Option Packet) := []
  settled : Bool := false
  deriving DecidableEq, Repr

/-- An open landing of a root die (R328 to R333). -/
structure Landing where
  stack : Nat
  id : Nat
  lid : Nat
  /-- the descriptor's address and its leaf's key slot -/
  desc : Nat
  descKey : Nat
  x64 : Bool
  srcs : Nat
  lines : List LandLine
  e : Option Int := .none
  ovf : Bool := false
  corrupt : Bool := false
  duprank : Bool := false
  lost : Bool := false
  applied : Nat := 0
  deriving DecidableEq, Repr

/-! ### Memory side -/

/-- States of a line at its home L2 (Table 13-2); a line not listed is NC. -/
inductive L2St where
  | cl | dt | lk
  deriving DecidableEq, Repr

/-- A line held at its home L2: state, remote sharers by die, key slot, and what DRAM holds beneath
it (R261, R308). -/
structure L2Line where
  st : L2St
  sharers : BitVec 4 := 0
  /-- 64-byte halves that the host shares under HDM-DB (R434) -/
  hostHalves : BitVec 2 := 0
  dram : BitVec 1024
  dramKey : Nat
  dramPoison : Bool
  deriving DecidableEq, Repr

/-- States of a 64-byte half of a host-window line (R433). -/
inductive HalfSt where
  | i | s | e | m
  deriving DecidableEq, Repr

/-- A host-window line with a half not in I; `h0`, `h1` hold what host memory holds beneath. -/
structure HostLine where
  s0 : HalfSt := .i
  s1 : HalfSt := .i
  /-- remote L2s that hold a clean copy, by die (R191) -/
  sharers : BitVec 4 := 0
  h0 : BitVec 512 := 0
  h1 : BitVec 512 := 0
  deriving DecidableEq, Repr

/-- An armed watch entry of a die's table (R351, R356). -/
structure Watch where
  die : Nat
  w : WatchReq
  bid : Nat
  g : Nat
  seq : Nat
  /-- spilled to the overflow list now, and at some time; its place in the list -/
  spilled : Bool := false
  everSpilled : Bool := false
  place : Nat := 0
  deriving DecidableEq, Repr

/-- A migration-table entry (R201). -/
structure Migration where
  die : Nat
  newPa : Nat
  oldPa : Nat
  size : Nat
  leafPa : Nat
  filled : List Nat := []
  deriving DecidableEq, Repr

/-! ### Package, platform and host -/

/-- The signed configuration record and what follows from it (Tables 1-5 to 1-8, R443). -/
structure PkgCfg where
  step : BitVec 8 := 0x10
  cfgver : BitVec 8 := 1
  serno : BitVec 32 := 0
  lpg : Nat := 2048
  featpkg : W64 := 0x3FF
  minfw : BitVec 16 := 0
  /-- fenced units, by number -/
  fcores : List Nat := []
  froots : List Nat := []
  fpchans : List Nat := []
  flanes : List Nat := []
  /-- sub-arrays fenced at boot: core and 16-bit mask -/
  fsubs : List (Nat × BitVec 16) := []
  /-- whether its two signatures verify -/
  signed : Bool := true
  /-- its bytes in flash -/
  body : Cells Byte := []
  deriving DecidableEq, Repr

/-- A firmware image in flash: its version and whether its signatures verify (R443). -/
structure Firmware where
  version : BitVec 16 := 1
  signed : Bool := true
  body : Cells Byte := []
  deriving DecidableEq, Repr

/-- A host launch queue (Table 3-1). -/
structure HQueue where
  qbase : W64 := 0
  qres : W64 := 0
  logn : Nat := 4
  pause : Bool := false
  en : Bool := false
  qpi : BitVec 32 := 0
  qci : BitVec 32 := 0
  qerr : BitVec 10 := 0
  qptr : W64 := 0
  deriving DecidableEq, Repr

/-- A record in a device-launch FIFO (R45): the record, the issuing group and its load, and what the issuing
launch lends it (R41, R45, R429). -/
structure FifoRec where
  bytes : List Byte
  bid : Nat
  g : Nat
  pend : Nat
  ptroot : W64
  prio : Nat
  part : Nat
  keyslot : Nat
  vector : Nat
  deriving DecidableEq, Repr

/-- A partition block (Tables 3-3 and 3-4). -/
structure Partition where
  valid : Bool := false
  maxprio : BitVec 2 := 0
  qmask : W64 := 0
  /-- PCORE0 to PCORE4 -/
  pcore : BitVec 320 := 0
  phbm : BitVec 16 := 0
  pstat : BitVec 8 := 0
  deriving DecidableEq, Repr

/-- A fault record that waits to be written (R428). -/
structure FaultRec where
  kind : BitVec 8
  cause : BitVec 8
  write : Bool
  lid : BitVec 32
  core : BitVec 32
  addr : W64
  value : W64
  /-- the group a PFAULT record answers for -/
  ctx : Option Ctx := .none
  deriving DecidableEq, Repr

/-- Launch arbiter state (R43 to R45). -/
structure Arbiter where
  nextLid : Nat := 1
  accepted : Nat := 0
  /-- per level, the source served last: 0-15 a queue, 16 the FIFO -/
  last : List Nat := [16, 16, 16, 16]
  fifos : List (List FifoRec) := [[], [], [], []]
  deriving DecidableEq, Repr

/-- The host control block and the fault channel (Table 20-1, R428). -/
structure HostCtl where
  fcbase : W64 := 0
  fclogn : Nat := 0
  fcen : Bool := false
  fcpi : BitVec 32 := 0
  fcci : BitVec 32 := 0
  lcstat : BitVec 2 := 0
  /-- the launch that the last LCANCEL cancelled (R426) -/
  cancelling : Option Nat := .none
  hbto : BitVec 32 := 0
  hbeat : W64 := 0
  /-- TIME of the last write of HBEAT -/
  hbeatAt : Nat := 0
  svreq : Option W64 := .none
  ulimp : Cells W64 := []
  ulid : BitVec 10 := 0
  ulroute : Cells W64 := []
  /-- the next SEQ, records waiting, and PFAULTs awaiting an answer -/
  seq : BitVec 32 := 0
  waiting : List FaultRec := []
  asked : List (BitVec 32 × Ctx) := []
  /-- MSI-X messages sent, newest first (R429) -/
  msix : List Nat := []
  /-- bytes of the last host or peer read's response; none for an abort, with poison marked -/
  response : Option (List Byte × Bool) := .none
  /-- the link as trained: lanes and rate code (R431) -/
  lanes : Nat := 16
  rate : Nat := 6
  deriving DecidableEq, Repr

/-- An error log of a die (R452). -/
structure ErrLog where
  recs : Cells (W64 × W64) := []
  idx : Nat := 0
  lost : Nat := 0
  deriving DecidableEq, Repr

/-- The platform block and mask ROM's state (Tables 21-1 to 21-3, R444 to R446). -/
structure Platform where
  state : BitVec 4 := 0
  err : BitVec 8 := 0
  fwver : BitVec 16 := 0
  keystat : BitVec 8 := 0
  /-- R454 -/
  rates : List Nat := [32, 2000, 16, 8]
  elogs : Cells ErrLog := []
  pctr : Cells Counter := []
  stale : Cells (BitVec 48) := []
  flashFw : Firmware := {}
  /-- the image that boot last verified, which is the one that runs (R443, R444) -/
  fw : Option Firmware := .none
  flashCfg : PkgCfg := {}
  /-- the image that boot steps 3 to 6 act on -/
  booting : Firmware := {}
  /-- per die, TIME of the last THERM count (R448) -/
  thermAt : Cells Nat := []
  /-- what each capped engine moved within the last 10,000 ns: TIME and bytes (R454) -/
  moved : Cells (List (Nat × Nat)) := []
  /-- the 64 MiB staging area of R444 -/
  staging : Cells Byte := []
  keys : Cells (BitVec 512) := []
  session : Option (BitVec 256) := .none
  /-- boots and attestations so far, for the parts' own random choices -/
  attempts : Nat := 0
  deriving DecidableEq, Repr

/-- What may move next, as data (assumption 3): an agent of the part or of the outside. -/
inductive Turn where
  /-- TIME passes -/
  | elapse (ns : Nat)
  /-- a step of the package -/
  | event (i : Instr)
  /-- a context issues -/
  | issue (c : Ctx)
  /-- a scheduler issues in the order of R89, every word being fetched in time -/
  | cycle (unit sched : Nat)
  /-- one element of an outstanding load is written early (R94) -/
  | deliver (c : Ctx) (id k : Nat)
  /-- the core fetches ahead of issue for a group (R79) -/
  | ahead (c : Ctx) (pc : W64)
  /-- a TLB drops an entry: instruction, data, walk-ahead (R189) -/
  | tlbDrop (unit which k : Nat)
  /-- an instruction cache drops a line (R78) -/
  | icacheDrop (unit line : Nat)
  /-- the resident supervisor serves its slot (R69, R70, R142, R399, R409) -/
  | supervise (unit sched : Nat)
  /-- a line of memory, or a 32-byte DRAM column, becomes uncorrectable; a sub-array begins to fail -/
  | eccLine (line : Nat)
  | eccColumn (col : Nat) (cls : BitVec 2)
  | subFail (unit s : Nat)
  /-- an uncorrectable error in a version line, before its commit or as it is written into the line (R385) -/
  | eccVersion (lid n line : Nat)
  | eccPublish (lid n line : Nat)
  /-- the host or a peer writes its own memory, named by its window address -/
  | outside (pa : Nat) (bytes : List Byte)
  /-- a peer sends a reduction packet (R437) -/
  | packet (p : Packet)
  /-- the supervisor's three steps of a migration: table entry, leaf, invalidation (R201) -/
  | migrate (m : Migration)
  | migrateLeaf (newPa : Nat)
  | migrateDone (newPa : Nat)
  /-- a 64-byte half of a host-window line that a snoop took from under an armed watch is read again (R353) -/
  | reread (half : Nat)
  /-- an L1's check fails for a line it holds (R407) -/
  | eccL1 (core line : Nat)
  /-- a 64-byte half of host memory becomes one that the host returns poisoned (R433) -/
  | hostPoison (half : Nat)
  /-- the walk-ahead TLB takes the page of row `row` of the walker's command `k` (R189) -/
  | walkAhead (unit k row : Nat)
  /-- a peer refuses the outstanding load `id` of a context (R436) -/
  | peerRefusal (c : Ctx) (id : Nat)
  /-- a started matrix instruction finishes a pass (R266) -/
  | matrixPass (unit k : Nat)
  /-- the step of Table 21-1 that boot has reached (R443) -/
  | boot
  /-- the host reads `n` bytes at an offset of BAR0 (R7, R39) -/
  | barRead (off n : Nat)
  deriving DecidableEq, Repr

/-- The part. -/
structure State where
  turns : List Turn := []
  /-- how many idle turns have been taken, which chooses the next (assumption 3) -/
  rotor : Nat := 0
  /-- the context that issues -/
  sel : Option Ctx := .none
  fresh : Nat := 0
  time : W64 := 0
  /-- twentieths of a cycle of the arithmetic clock since reset, 21 to a nanosecond (R15) -/
  phase20 : Nat := 0
  cfg : PkgCfg := {}
  cxlg : Nat := 0
  cxlgWritten : Bool := false
  /-- GiB attached to each CXL port (R21) -/
  cxlGib : Cells Nat := []
  plat : Platform := {}
  host : HostCtl := {}
  port : PortMode := .cxl
  /-- UALink lanes fenced or ports that are down -/
  ulDown : List Nat := []
  dlink : List (Nat × Nat) := []
  dead : List Agent := []
  queues : Cells HQueue := []
  parts : Cells Partition := []
  arb : Arbiter := {}
  launches : List Launch := []
  blocks : List Block := []
  images : List Image := []
  ghosts : List Ghost := []
  /-- save-pool ranges: partition, base and length (R411) -/
  pool : List (Nat × Nat × Nat) := []
  units : Cells Proc := []
  nextBid : Nat := 1
  nextCmd : Nat := 1
  /-- memory as its home sees it, by physical address (assumption 8) -/
  mem : List Host.Cell := []
  /-- key slot each line was last written under; 0 is unlisted (R204) -/
  keyOf : Cells Nat := []
  /-- poisoned lines and uncorrectable DRAM columns (R407, R309) -/
  poison : List Nat := []
  colErr : List Nat := []
  /-- how a column fails: CLASS of R327, 01 where none is listed -/
  colClass : Cells (BitVec 2) := []
  /-- lines whose error an agent has already recorded (R407) -/
  reported : List Nat := []
  l2 : Cells L2Line := []
  hostLines : Cells HostLine := []
  /-- 64-byte halves of host memory, by number, that the host returns poisoned (R433) -/
  hostBad : List Nat := []
  /-- 64-byte halves of host-window lines, by number, that an invalidating snoop took from under an armed watch and that are
  still to be read again (R353) -/
  rereads : List Nat := []
  held : List Partial := []
  watches : List Watch := []
  watchSeq : Nat := 0
  wovlb : Cells W64 := []
  wovln : Cells (BitVec 32) := []
  migs : List Migration := []
  versions : List Version := []
  tfront : W64 := 0
  /-- TIME of the last sample of R59 -/
  sampledAt : Nat := 0
  calls : List RCall := []
  nextCall : Nat := 1
  packets : List Packet := []
  /-- reduction packets sent to peers, oldest first: the accelerator, and the packet as it crosses UALink (R437) -/
  sent : List (Nat × Packet) := []
  lands : List Landing := []
  deriving DecidableEq, Repr

/-- Partition 0 after reset: VALID, every core, every queue, MAXPRIO 0, PHBM 0 (R50). -/
def Partition.zero : Partition :=
  { valid := true, qmask := BitVec.allOnes 64, pcore := BitVec.allOnes 320 }

/-- The part right after module reset (R443): nothing listed, the counters and registers of the
tables at their reset values, mask ROM about to run the boot steps. -/
def State.reset : State :=
  { parts := [(0, Partition.zero)] }

end Sys2Proof.Machine
end

