-- ==== Sys2Proof/Machine/Cells.lean ====
section
/-! DEFINITION. Finite tables in one canonical form, and sets of numbers: how every store of the part
is read and written. -/

namespace Sys2Proof.Machine

/-- The entry of a key, or `d` where none is listed. -/
def Cells.get {α : Type} (d : α) : Cells α → Nat → α
  | [], _ => d
  | (k, v) :: r, a => if a = k then v else Cells.get d r a

/-- The listed entry of a key. -/
def Cells.find {α : Type} : Cells α → Nat → Option α
  | [], _ => none
  | (k, v) :: r, a => if a = k then some v else Cells.find r a

/-- The table with key `a` listed as `v`. -/
def Cells.set {α : Type} : Cells α → Nat → α → Cells α
  | [], a, v => [(a, v)]
  | (k, w) :: r, a, v =>
    if a < k then (a, v) :: (k, w) :: r
    else if a = k then (a, v) :: r
    else (k, w) :: Cells.set r a v

/-- The table without key `a`. -/
def Cells.erase {α : Type} : Cells α → Nat → Cells α
  | [], _ => []
  | (k, w) :: r, a => if a = k then Cells.erase r a else (k, w) :: Cells.erase r a

/-- The table in which key `a` reads as `v`: an entry equal to the default is not listed. -/
def Cells.put {α : Type} [DecidableEq α] (d : α) (m : Cells α) (a : Nat) (v : α) : Cells α :=
  if v = d then Cells.erase m a else Cells.set m a v

/-- Keys above `lo` (when given) in strictly rising order. -/
def Cells.risingFrom {α : Type} : Option Nat → Cells α → Bool
  | _, [] => true
  | lo, (k, _) :: r => (match lo with | none => true | some b => decide (b < k)) && Cells.risingFrom (some k) r

/-- Keys in strictly rising order. -/
def Cells.rising {α : Type} (m : Cells α) : Bool := Cells.risingFrom none m

/-- The canonical form of a byte memory: addresses strictly rising, no entry 0, since an unlisted
byte reads 0 (assumption 1). -/
def Memory.wf (m : List Host.Cell) : Bool := Cells.rising m && m.all (fun c => c.2 != 0)

/-- One byte of a memory; a byte nothing has written reads 0 (assumption 1). -/
def Memory.read (m : List Host.Cell) (a : Nat) : Byte := Cells.get 0 m a

/-- The memory with one byte written. -/
def Memory.write (m : List Host.Cell) (a : Nat) (b : Byte) : List Host.Cell := Cells.put 0 m a b

/-- `n` bytes from address `a` up. -/
def Memory.readN (m : List Host.Cell) (a : Nat) : Nat → List Byte
  | 0 => []
  | n + 1 => Memory.read m a :: Memory.readN m (a + 1) n

/-- The memory with bytes written from address `a` up. -/
def Memory.writeN (m : List Host.Cell) (a : Nat) : List Byte → List Host.Cell
  | [] => m
  | b :: bs => Memory.writeN (Memory.write m a b) (a + 1) bs

/-- The set with `n` added, ascending. -/
def NatSet.insert : List Nat → Nat → List Nat
  | [], n => [n]
  | k :: r, n => if n < k then n :: k :: r else if n = k then k :: r else k :: NatSet.insert r n

/-- The set with every number of `ns` added. -/
def NatSet.insertAll (s ns : List Nat) : List Nat := ns.foldl NatSet.insert s

/-- The set without the numbers of `ns`. -/
def NatSet.removeAll (s ns : List Nat) : List Nat := s.filter (fun k => !ns.contains k)

/-- The entries of a table whose keys lie in [lo, lo + n), moved down by `lo`. -/
def Cells.slice {α : Type} (m : Cells α) (lo n : Nat) : Cells α :=
  (m.filter (fun c => lo ≤ c.1 && c.1 < lo + n)).map (fun c => (c.1 - lo, c.2))

/-- The table without the keys in [lo, lo + n). -/
def Cells.clear {α : Type} (m : Cells α) (lo n : Nat) : Cells α :=
  m.filter (fun c => !(lo ≤ c.1 && c.1 < lo + n))

/-- The table with the entries of `t`, moved up by `lo`, set. -/
def Cells.paste {α : Type} (m : Cells α) (lo : Nat) (t : Cells α) : Cells α :=
  t.foldl (fun acc c => Cells.set acc (c.1 + lo) c.2) m

end Sys2Proof.Machine
end

