-- ==== Sys2Proof/Machine/Bits.lean ====
section
/-! DEFINITION. Bit fields, byte order and sign extension (R2, R3, R11): the one place they are
written. -/

namespace Sys2Proof.Machine

/-- A number as a 64-bit register value. -/
def w64 (n : Nat) : W64 := BitVec.ofNat 64 n

/-- The number little-endian bytes hold (R3). -/
def leNat : List Byte → Nat
  | [] => 0
  | b :: bs => b.toNat + 256 * leNat bs

/-- The low `n` bytes of a number, lowest first (R3). -/
def leBytes (v : Nat) : Nat → List Byte
  | 0 => []
  | n + 1 => BitVec.ofNat 8 v :: leBytes (v / 256) n

/-- Bits [lo + n - 1 : lo] of a number. -/
def field (v lo n : Nat) : Nat := (v >>> lo) % 2 ^ n

/-- The value of the low `n` bits read as two's complement. -/
def signedOf (n v : Nat) : Int :=
  let u := v % 2 ^ n
  if u < 2 ^ (n - 1) then (u : Int) else (u : Int) - (2 ^ n : Nat)

/-- An integer modulo 2^n. -/
def wrap (n : Nat) (x : Int) : Nat := (x % (2 ^ n : Nat)).toNat

/-- `v` clamped into [lo, hi] (`sat` of R11). -/
def clamp (x lo hi : Int) : Int := if x < lo then lo else if hi < x then hi else x

/-- The low `w` bits of a 64-bit value, sign-extended to 64 bits. -/
def sext64 (w : Nat) (v : W64) : W64 := BitVec.ofInt 64 (signedOf w v.toNat)

/-- The low `w` bits of a 64-bit value. -/
def zext64 (w : Nat) (v : W64) : W64 := BitVec.ofNat 64 (v.toNat % 2 ^ w)

/-- `a` up to a multiple of `n`. -/
def alignUp (a n : Nat) : Nat := (a + n - 1) / n * n

/-- The quotient rounded up. -/
def ceilDiv (a n : Nat) : Nat := (a + n - 1) / n

/-- The bytes of a 128-byte line as one value, byte 0 lowest. -/
def lineOf (bs : List Byte) : BitVec 1024 := BitVec.ofNat 1024 (leNat bs)

/-- Byte `k` of a line. -/
def lineByte (d : BitVec 1024) (k : Nat) : Byte := d.extractLsb' (8 * k) 8

/-- A line with byte `k` replaced. -/
def setLineByte (d : BitVec 1024) (k : Nat) (b : Byte) : BitVec 1024 :=
  (d &&& ~~~((0xFF : BitVec 1024) <<< (8 * k))) ||| (b.setWidth 1024 <<< (8 * k))

/-- Bit mask of a list of lane numbers. -/
def laneMask (ls : List Nat) : Nat := ls.foldl (fun m l => m ||| (1 <<< l)) 0

/-- The bytes of a data type of Table 7-1. -/
def tyBytes : Ty → Nat
  | .i8 | .n8 | .e4m3 | .e5m2 => 1
  | .i16 | .n16 | .f16 | .bf16 => 2
  | .i64 | .n64 | .b64 | .f64 | .x64 => 8
  | _ => 4

/-- The width of a type as a register value: 64 for the 64-bit types of R99, else 32. -/
def tyWide : Ty → Bool
  | .i64 | .n64 | .b64 | .f64 | .x64 => true
  | _ => false

/-- The element of `n` list places that starts at place `k`, `d` past the end. -/
def takeAt {α : Type} (d : α) (l : List α) (k : Nat) : α := l.getD k d

/-- The list with place `k` changed. -/
def modifyAt {α : Type} (l : List α) (k : Nat) (f : α → α) : List α :=
  l.mapIdx (fun i x => if i = k then f x else x)

/-- A list ordered by a key, equal keys in their order. -/
def insertBy {α : Type} (key : α → Nat) (a : α) : List α → List α
  | [] => [a]
  | b :: r => if key a < key b then a :: b :: r else b :: insertBy key a r

/-- A list ordered by a key, equal keys in their order. -/
def sortBy {α : Type} (key : α → Nat) (l : List α) : List α := l.foldl (fun acc a => insertBy key a acc) []

end Sys2Proof.Machine
end

