-- ==== Sys2Proof/Machine/Numbers.lean ====
section
/-! DEFINITION. Numbers (R121 to R138): the formats bit by bit, exact values, rounding, saturation,
flushing, and the exact reduction format `.x64`. -/

namespace Sys2Proof.Machine

/-! ### Formats (Table 8-1) -/

/-- The special encodings of a format (Table 8-1). -/
inductive FKind where
  /-- infinities and NaNs where the exponent is all ones -/
  | ieee
  /-- no infinity; one NaN of each sign -/
  | e4m3
  /-- every encoding finite -/
  | finite
  deriving DecidableEq, Repr

/-- A floating-point format. -/
structure Fmt where
  eb : Nat
  mb : Nat
  bias : Nat
  kind : FKind
  deriving DecidableEq, Repr

/-- Table 8-1. -/
def fF64 : Fmt := ⟨11, 52, 1023, .ieee⟩
/-- Table 8-1. -/
def fF32 : Fmt := ⟨8, 23, 127, .ieee⟩
/-- Table 8-1. -/
def fF16 : Fmt := ⟨5, 10, 15, .ieee⟩
/-- Table 8-1. -/
def fBf16 : Fmt := ⟨8, 7, 127, .ieee⟩
/-- Table 8-1. -/
def fE4m3 : Fmt := ⟨4, 3, 7, .e4m3⟩
/-- Table 8-1. -/
def fE5m2 : Fmt := ⟨5, 2, 15, .ieee⟩
/-- Table 8-1. -/
def fE3m2 : Fmt := ⟨3, 2, 3, .finite⟩
/-- Table 8-1. -/
def fE2m3 : Fmt := ⟨2, 3, 1, .finite⟩
/-- Table 8-1. -/
def fE2m1 : Fmt := ⟨2, 1, 1, .finite⟩

/-- The format of a floating-point type code (Table 7-1). -/
def fmtOf : Ty → Fmt
  | .f64 => fF64
  | .f16 => fF16
  | .bf16 => fBf16
  | .e4m3 => fE4m3
  | .e5m2 => fE5m2
  | .e3m2 => fE3m2
  | .e2m3 => fE2m3
  | .e2m1 => fE2m1
  | _ => fF32

/-- Bits of a format. -/
def Fmt.width (f : Fmt) : Nat := 1 + f.eb + f.mb
/-- The sign bit of a format. -/
def Fmt.signBit (f : Fmt) : Nat := 2 ^ (f.eb + f.mb)
/-- The encoding of the largest finite magnitude (Table 8-1). -/
def Fmt.maxFin (f : Fmt) : Nat :=
  match f.kind with
  | .ieee => (2 ^ f.eb - 1) * 2 ^ f.mb - 1
  | .e4m3 => 0x7E
  | .finite => 2 ^ (f.eb + f.mb) - 1
/-- The encoding of +∞; used where the format has one. -/
def Fmt.inf (f : Fmt) : Nat := (2 ^ f.eb - 1) * 2 ^ f.mb
/-- The exponent of the smallest subnormal. -/
def Fmt.qmin (f : Fmt) : Int := 1 - (f.bias : Int) - (f.mb : Int)

/-- The canonical NaN; +0 where the format has none (Tables 8-2 and 8-3). -/
def Fmt.canon (f : Fmt) : Nat :=
  match f.kind with
  | .ieee => if f.eb = 5 && f.mb = 2 then 0x7E else f.inf + 2 ^ (f.mb - 1)
  | .e4m3 => 0x7F
  | .finite => 0

/-- The poison NaN, for the formats that have one (Table 8-2). -/
def Fmt.poison (f : Fmt) : Option Nat :=
  if f = fF64 then some 0x7FFA0175A0000000
  else if f = fF32 then some 0x7FD00BAD
  else if f = fF16 then some 0x7EAD
  else if f = fBf16 then some 0x7FAD
  else none

/-! ### Values -/

/-- What an encoding stands for (R121, R122, R125). A finite value is m × 2^e. -/
inductive Val where
  | poison
  | nan (signalling : Bool)
  | inf (neg : Bool)
  | fin (neg : Bool) (m : Nat) (e : Int)
  deriving DecidableEq, Repr

/-- The value of an encoding. -/
def Fmt.decode (f : Fmt) (b : Nat) : Val :=
  let b := b % 2 ^ f.width
  let neg := f.signBit ≤ b
  let mag := b % f.signBit
  let e := mag / 2 ^ f.mb
  let m := mag % 2 ^ f.mb
  if f.poison = some b then .poison
  else if f.kind = .ieee && e = 2 ^ f.eb - 1 then
    if m = 0 then .inf neg
    else .nan (f != fE5m2 && m < 2 ^ (f.mb - 1))
  else if f.kind = .e4m3 && mag = 0x7F then .nan false
  else if e = 0 then .fin neg m f.qmin
  else .fin neg (2 ^ f.mb + m) (f.qmin + (e : Int) - 1)

/-- A nonzero value below the smallest normal of its format (R130). -/
def Fmt.isSubnormal (f : Fmt) (b : Nat) : Bool :=
  b % f.signBit / 2 ^ f.mb = 0 && b % f.signBit != 0

/-- The value is a NaN of any kind. -/
def Val.isNan : Val → Bool
  | .poison | .nan _ => true
  | _ => false

/-- The value is a zero. -/
def Val.isZero : Val → Bool
  | .fin _ m _ => m = 0
  | _ => false

/-- The sign bit of a value. -/
def Val.neg : Val → Bool
  | .inf n => n
  | .fin n _ _ => n
  | _ => false

/-! ### Flags (Table 8-4) -/

/-- Invalid operation. -/
def fNV : Nat := 1
/-- Division by zero. -/
def fDZ : Nat := 2
/-- Overflow. -/
def fOF : Nat := 4
/-- Underflow. -/
def fUF : Nat := 8
/-- Inexact. -/
def fNX : Nat := 16
/-- Flushed. -/
def fFZ : Nat := 32

/-- Bits delivered and exceptions raised. -/
structure FRes where
  bits : Nat
  fl : Nat := 0
  deriving DecidableEq, Repr

/-- What the MOD field asks of a delivery, as far as the instruction honours it (R163). -/
structure Deliver where
  rnd : Rnd := .rn
  sat : Bool := false
  fzi : Bool := false
  fzo : Bool := false
  deriving DecidableEq, Repr

/-! ### Rounding (R127) -/

/-- Whether a magnitude between n and n + 1 steps up: the discarded part against half is `cmp`
(0 below, 1 equal, 2 above), R127. -/
def roundUp (r : Rnd) (neg : Bool) (odd : Bool) (cmp : Nat) : Bool :=
  match r with
  | .rn => cmp = 2 || (cmp = 1 && odd)
  | .rz => false
  | .rp => !neg
  | .rm => neg

/-- An exact magnitude m × 2^e, and a nonzero remainder below 2^e when `sticky`, rounded to a
multiple of 2^q: the multiple and whether it is inexact. -/
def roundQuantum (r : Rnd) (neg : Bool) (m : Nat) (e : Int) (sticky : Bool) (q : Int) : Nat × Bool :=
  if q ≤ e then (m * 2 ^ (e - q).toNat, sticky)
  else
    let sh := (q - e).toNat
    let hi := m / 2 ^ sh
    let lo := m % 2 ^ sh
    let half := 2 ^ (sh - 1)
    let inexact := lo != 0 || sticky
    let cmp := if lo < half then 0 else if lo = half then (if sticky then 2 else 1) else 2
    if inexact && roundUp r neg (hi % 2 = 1) cmp then (hi + 1, true) else (hi, inexact)

/-- The exponent of the last place of m × 2^e in a format with subnormals and unbounded above. -/
def Fmt.quantum (f : Fmt) (m : Nat) (e : Int) : Int :=
  let top : Int := (Nat.log2 m : Int) + e - (f.mb : Int)
  if top < f.qmin then f.qmin else top

/-- The encoding, on a grid continued above the largest finite value, of n × 2^q (R127). -/
def Fmt.gridBits (f : Fmt) (n : Nat) (q : Int) : Nat := (q - f.qmin).toNat * 2 ^ f.mb + n

/-- A magnitude with its sign bit. -/
def Fmt.signed (f : Fmt) (neg : Bool) (mag : Nat) : Nat := if neg then f.signBit + mag else mag

/-- Table 8-3 for an overflow. -/
def Fmt.overflow (f : Fmt) (r : Rnd) (sat neg : Bool) : Nat :=
  match f.kind with
  | .ieee =>
    if sat then f.signed neg f.maxFin
    else match r with
      | .rn => f.signed neg f.inf
      | .rz => f.signed neg f.maxFin
      | .rp => if neg then f.signed neg f.maxFin else f.inf
      | .rm => if neg then f.signed neg f.inf else f.maxFin
  | _ => f.signed neg f.maxFin

/-- Table 8-3 for an infinite x. -/
def Fmt.infinite (f : Fmt) (sat neg : Bool) : FRes :=
  match f.kind with
  | .ieee => ⟨if sat then f.signed neg f.maxFin else f.signed neg f.inf, 0⟩
  | .e4m3 => if sat then ⟨f.signed neg 0x7E, 0⟩ else ⟨0x7F, fNV⟩
  | .finite => ⟨f.signed neg f.maxFin, 0⟩

/-- A NaN result that is not poison: the canonical NaN with the given flags; a format without a NaN
takes +0 and sets NV (R126, Table 8-3). -/
def Fmt.nanRes (f : Fmt) (fl : Nat) : FRes :=
  match f.kind with
  | .finite => ⟨0, fl ||| fNV⟩
  | _ => ⟨f.canon, fl⟩

/-- The delivery of a poison NaN (R126): the poison NaN of the format, else its loss with NV. -/
def Fmt.poisonRes (f : Fmt) : FRes :=
  match f.poison with
  | some p => ⟨p, 0⟩
  | none => f.nanRes fNV

/-- m × 2^e (and a remainder below 2^e when `sticky`) is nonzero and below the smallest normal. -/
def Fmt.tiny (f : Fmt) (m : Nat) (e : Int) : Bool :=
  m != 0 && (Nat.log2 m : Int) + e < 1 - (f.bias : Int)

/-- `out` of R163 for a finite value: rounding (R127), Table 8-3, and the flush of R130. -/
def Fmt.outFin (f : Fmt) (d : Deliver) (neg : Bool) (m : Nat) (e : Int) (sticky : Bool := false) : FRes :=
  if m = 0 && !sticky then ⟨f.signed neg 0, 0⟩
  else
    let q := f.quantum m e
    let (n, inexact) := roundQuantum d.rnd neg m e sticky q
    let g := f.gridBits n q
    if f.maxFin < g then ⟨f.overflow d.rnd d.sat neg, fOF ||| fNX⟩
    else
      let fl := (if inexact then fNX else 0) ||| (if inexact && f.tiny m e then fUF else 0)
      if d.fzo && g != 0 && g < 2 ^ f.mb then ⟨f.signed neg 0, fl ||| fUF ||| fNX ||| fFZ⟩
      else ⟨f.signed neg g, fl⟩

/-- `out` of R163. -/
def Fmt.out (f : Fmt) (d : Deliver) : Val → FRes
  | .poison => f.poisonRes
  | .nan sig => f.nanRes (if sig then fNV else 0)
  | .inf neg => f.infinite d.sat neg
  | .fin neg m e => f.outFin d neg m e

/-- `in` of R163: the value of an encoding after MOD.FZI, and FZ when it was flushed (R130). -/
def Fmt.input (f : Fmt) (fzi : Bool) (b : Nat) : Val × Nat :=
  if fzi && f.isSubnormal b then (.fin (f.signBit ≤ b % 2 ^ f.width) 0 f.qmin, fFZ) else (f.decode b, 0)

/-! ### Exact dyadic sums -/

/-- The signed multiple of 2^e that a finite value is. -/
def Val.mantInt : Val → Int
  | .fin neg m _ => if neg then -(m : Int) else m
  | _ => 0

/-- The exponent of a finite value. -/
def Val.exp : Val → Int
  | .fin _ _ e => e
  | _ => 0

/-- The lowest exponent of some values. -/
def lowestExp : List Val → Int
  | [] => 0
  | [v] => v.exp
  | v :: r => let x := lowestExp r; if v.exp < x then v.exp else x

/-- The exact sum of finite values, as a multiple of 2^e. -/
def exactSum (l : List Val) : Int × Int :=
  let e := lowestExp l
  ((l.map (fun v => v.mantInt * ((2 ^ (v.exp - e).toNat : Nat) : Int))).sum, e)

/-- The exact product of two values, special values apart. -/
def Val.mul : Val → Val → Val
  | .fin a m e, .fin b n g => .fin (a != b) (m * n) (e + g)
  | x, y => .inf (x.neg != y.neg)

/-- Zero times infinity (R166). -/
def mulInvalid (a b : Val) : Bool :=
  match a, b with
  | .inf _, y => y.isZero
  | x, .inf _ => x.isZero
  | _, _ => false

/-- The flags of signalling sources (R126). -/
def sigFlags (l : List Val) : Nat := if l.any (fun v => v = .nan true) then fNV else 0

/-- A sum of addends that are not NaN: infinities, then the exact sum, with the zero rules of
Table 10-2. -/
def Fmt.sumOut (f : Fmt) (d : Deliver) (l : List Val) : FRes :=
  let pinf := l.any (fun v => v = .inf false)
  let ninf := l.any (fun v => v = .inf true)
  if pinf && ninf then f.nanRes fNV
  else if pinf || ninf then f.infinite d.sat ninf
  else
    let (s, e) := exactSum l
    if s = 0 then
      let allNeg := l.all (fun v => v.isZero && v.neg)
      let allPos := l.all (fun v => v.isZero && !v.neg)
      ⟨f.signed (if allNeg then true else if allPos then false else d.rnd = .rm) 0, 0⟩
    else f.outFin d (s < 0) s.natAbs e

/-- The sum of products `ps` and addends `as` delivered to `f`, with `src` the sources for R126 and
`fl` the flags of their flushing. -/
def Fmt.dotOut (f : Fmt) (d : Deliver) (src : List Val) (ps : List (Val × Val)) (as : List Val) (fl : Nat) : FRes :=
  if src.any (fun v => v = .poison) then f.poisonRes
  else if ps.any (fun p => mulInvalid p.1 p.2) then f.nanRes (fl ||| fNV)
  else if src.any Val.isNan then f.nanRes (fl ||| sigFlags src)
  else
    let r := f.sumOut d (ps.map (fun p => p.1.mul p.2) ++ as)
    ⟨r.bits, r.fl ||| fl⟩

/-! ### The forms of Table 10-1 -/

/-- The value of opposite sign. -/
def Val.negate : Val → Val
  | .inf n => .inf (!n)
  | .fin n m e => .fin (!n) m e
  | v => v

/-- `fadd` (R165, R166). -/
def fAdd (f : Fmt) (d : Deliver) (a b : Nat) : FRes :=
  let x := f.input d.fzi a
  let y := f.input d.fzi b
  f.dotOut d [x.1, y.1] [] [x.1, y.1] (x.2 ||| y.2)

/-- `fsub` (R165, R166). -/
def fSub (f : Fmt) (d : Deliver) (a b : Nat) : FRes :=
  let x := f.input d.fzi a
  let y := f.input d.fzi b
  f.dotOut d [x.1, y.1] [] [x.1, y.1.negate] (x.2 ||| y.2)

/-- `fmul` (R165, R166). -/
def fMul (f : Fmt) (d : Deliver) (a b : Nat) : FRes :=
  let x := f.input d.fzi a
  let y := f.input d.fzi b
  f.dotOut d [x.1, y.1] [(x.1, y.1)] [] (x.2 ||| y.2)

/-- `fma` (R165, R166). -/
def fMa (f : Fmt) (d : Deliver) (a b c : Nat) : FRes :=
  let x := f.input d.fzi a
  let y := f.input d.fzi b
  let z := f.input d.fzi c
  f.dotOut d [x.1, y.1, z.1] [(x.1, y.1)] [z.1] (x.2 ||| y.2 ||| z.2)

/-- `fdot2` (R175): two products of τ values and one `.f32` addend, one rounding to `.f32`. -/
def fDot2 (f : Fmt) (d : Deliver) (a b c : Nat) : FRes :=
  let a0 := f.input d.fzi (a % 2 ^ 16)
  let a1 := f.input d.fzi (a / 2 ^ 16 % 2 ^ 16)
  let b0 := f.input d.fzi (b % 2 ^ 16)
  let b1 := f.input d.fzi (b / 2 ^ 16 % 2 ^ 16)
  let z := fF32.input d.fzi c
  fF32.dotOut d [a0.1, a1.1, b0.1, b1.1, z.1] [(a0.1, b0.1), (a1.1, b1.1)] [z.1]
    (a0.2 ||| a1.2 ||| b0.2 ||| b1.2 ||| z.2)

/-- A quotient of finite nonzero magnitudes with `k` extra bits: m × 2^e and whether a remainder is
left. -/
def quotient (m n : Nat) (e g : Int) (k : Nat) : Nat × Int × Bool :=
  let sh := k + Nat.log2 n + 1
  let num := m * 2 ^ sh
  (num / n, e - g - (sh : Int), num % n != 0)

/-- `fdiv` (R165, R166). -/
def fDiv (f : Fmt) (d : Deliver) (a b : Nat) : FRes :=
  let x := f.input d.fzi a
  let y := f.input d.fzi b
  let fl := x.2 ||| y.2
  match x.1, y.1 with
  | .poison, _ => f.poisonRes
  | _, .poison => f.poisonRes
  | .nan p, .nan q => f.nanRes (fl ||| (if p || q then fNV else 0))
  | .nan p, _ => f.nanRes (fl ||| (if p then fNV else 0))
  | _, .nan q => f.nanRes (fl ||| (if q then fNV else 0))
  | .inf _, .inf _ => f.nanRes (fl ||| fNV)
  | .inf p, .fin q _ _ => ⟨f.signed (p != q) f.inf, fl⟩
  | .fin p _ _, .inf q => ⟨f.signed (p != q) 0, fl⟩
  | .fin p m e, .fin q n g =>
    if n = 0 then
      if m = 0 then f.nanRes (fl ||| fNV) else ⟨f.signed (p != q) f.inf, fl ||| fDZ⟩
    else if m = 0 then ⟨f.signed (p != q) 0, fl⟩
    else
      let (v, w, st) := quotient m n e g (f.mb + 3)
      let r := f.outFin d (p != q) v w st
      ⟨r.bits, r.fl ||| fl⟩

/-- The integer square root by bits: the largest r with r² ≤ n, from `b` bits. -/
def isqrtBits (n : Nat) : Nat → Nat → Nat
  | 0, r => r
  | b + 1, r => let t := r + 2 ^ b; isqrtBits n b (if t * t ≤ n then t else r)

/-- The integer square root. -/
def isqrt (n : Nat) : Nat := isqrtBits n (Nat.log2 n / 2 + 1) 0

/-- The square root of m × 2^e with `k` extra bits, and whether a remainder is left. -/
def rootOf (m : Nat) (e : Int) (k : Nat) : Nat × Int × Bool :=
  let sh := 2 * k + (if (e - (2 * k : Nat)) % 2 = 0 then 0 else 1)
  let n := m * 2 ^ sh
  let r := isqrt n
  (r, (e - (sh : Int)) / 2, r * r != n)

/-- `sqrt` (R165, R166). -/
def fSqrt (f : Fmt) (d : Deliver) (a : Nat) : FRes :=
  let x := f.input d.fzi a
  match x.1 with
  | .poison => f.poisonRes
  | .nan p => f.nanRes (x.2 ||| (if p then fNV else 0))
  | .inf true => f.nanRes (x.2 ||| fNV)
  | .inf false => ⟨f.inf, x.2⟩
  | .fin neg m e =>
    if m = 0 then ⟨f.signed neg 0, x.2⟩
    else if neg then f.nanRes (x.2 ||| fNV)
    else
      let (v, w, st) := rootOf m e (f.mb + 3)
      let r := f.outFin d false v w st
      ⟨r.bits, r.fl ||| x.2⟩

/-! ### Comparison, minimum, class, integral rounding -/

/-- The order of two values that are not NaN: negative, zero or positive for less, equal, greater. -/
def Val.compare (a b : Val) : Int :=
  match a, b with
  | .inf p, .inf q => if p = q then 0 else if p then -1 else 1
  | .inf p, _ => if p then -1 else 1
  | _, .inf q => if q then 1 else -1
  | x, y => (exactSum [x, y.negate]).1

/-- `fcmp` (R168): the truth value and its flags: NV of the comparison, and FZ of a flushed source, which compares as a zero
(R130, assumption 95). -/
def fCmp (f : Fmt) (cc : Cmp) (fzi : Bool) (a b : Nat) : Bool × Nat :=
  let (x, fx) := f.input fzi a
  let (y, fy) := f.input fzi b
  let (r, nv) := compared x y
  (r, nv ||| fx ||| fy)
where
  /-- The comparison of two values, with NV. -/
  compared (x y : Val) : Bool × Nat :=
  if x.isNan || y.isNan then
    match cc with
    | .eq => (false, sigFlags [x, y])
    | .ne => (true, sigFlags [x, y])
    | _ => (false, fNV)
  else
    let c := x.compare y
    match cc with
    | .eq => (c = 0, 0)
    | .ne => (c != 0, 0)
    | .lt => (c < 0, 0)
    | .le => (c ≤ 0, 0)
    | .gt => (0 < c, 0)
    | .ge => (0 ≤ c, 0)
    | _ => (false, 0)

/-- The flushed bits of a source. -/
def Fmt.flushBits (f : Fmt) (fzi : Bool) (b : Nat) : Nat :=
  if fzi && f.isSubnormal b then (if f.signBit ≤ b % 2 ^ f.width then f.signBit else 0) else b % 2 ^ f.width

/-- `fmin` (`hi` false) and `fmax` (`hi` true) (R167). -/
def fMinMax (f : Fmt) (hi : Bool) (d : Deliver) (a b : Nat) : FRes :=
  let x := f.input d.fzi a
  let y := f.input d.fzi b
  let fl := x.2 ||| y.2 ||| sigFlags [x.1, y.1]
  if x.1 = .poison || y.1 = .poison then f.poisonRes
  else if x.1.isNan && y.1.isNan then f.nanRes fl
  else
    let ab := f.flushBits d.fzi a
    let bb := f.flushBits d.fzi b
    let pick :=
      if x.1.isNan then bb
      else if y.1.isNan then ab
      else
        let c := x.1.compare y.1
        let aLess := c < 0 || (c = 0 && x.1.neg && !y.1.neg)
        if hi then (if aLess then bb else ab) else (if aLess || (c = 0 && x.1.neg = y.1.neg) then ab else bb)
    if d.fzo && f.isSubnormal pick then ⟨if f.signBit ≤ pick then f.signBit else 0, fl ||| fFZ⟩
    else ⟨pick, fl⟩

/-- `fclass` (Table 10-3). -/
def fClass (f : Fmt) (b : Nat) : Nat :=
  match f.decode b with
  | .poison => 2 ^ 10 + 2 ^ 9
  | .nan sig => if sig then 2 ^ 8 else 2 ^ 9
  | .inf neg => if neg then 2 ^ 0 else 2 ^ 7
  | .fin neg m _ =>
    if m = 0 then (if neg then 2 ^ 3 else 2 ^ 4)
    else if f.isSubnormal b then (if neg then 2 ^ 2 else 2 ^ 5)
    else (if neg then 2 ^ 1 else 2 ^ 6)

/-- `frint` (R170). -/
def fRint (f : Fmt) (d : Deliver) (a : Nat) : FRes :=
  let x := f.input d.fzi a
  match x.1 with
  | .poison => f.poisonRes
  | .nan p => f.nanRes (x.2 ||| (if p then fNV else 0))
  | .inf neg => ⟨f.signed neg f.inf, x.2⟩
  | .fin neg m e =>
    if 0 ≤ e then ⟨f.flushBits d.fzi a, x.2⟩
    else
      let (n, inexact) := roundQuantum d.rnd neg m e false 0
      ⟨(f.outFin {} neg n 0).bits, x.2 ||| (if inexact then fNX else 0)⟩

/-! ### Conversions -/

/-- A value of format `g` delivered to format `f` (R171, R172). -/
def fConvert (f g : Fmt) (d : Deliver) (a : Nat) : FRes :=
  let x := g.input d.fzi a
  let r := f.out d x.1
  ⟨r.bits, r.fl ||| (if x.1 = .poison then 0 else x.2)⟩

/-- The widening of R172: an E4M3 or E5M2 NaN sets no flag. -/
def fWiden (g : Fmt) (d : Deliver) (a : Nat) : FRes := fConvert fF32 g { d with rnd := .rn, sat := false } a

/-- An integer delivered to a format; an overflow is delivered as Table 8-3 has it (R173, assumption 114). -/
def fFromInt (f : Fmt) (r : Rnd) (x : Int) : FRes := f.outFin { rnd := r } (x < 0) x.natAbs 0

/-- The bits of an integer type. -/
def tyBits (t : Ty) : Nat := 8 * tyBytes t

/-- A signed type of Table 7-1. -/
def tySigned : Ty → Bool
  | .i8 | .i16 | .i32 | .i64 => true
  | _ => false

/-- The limits of an integer type (R131). -/
def tyLo (t : Ty) : Int := if tySigned t then -(2 ^ (tyBits t - 1) : Nat) else 0
/-- The limits of an integer type (R131). -/
def tyHi (t : Ty) : Int := if tySigned t then (2 ^ (tyBits t - 1) : Nat) - 1 else (2 ^ tyBits t : Nat) - 1

/-- The value of an integer type held in a register (R173). -/
def intOf (t : Ty) (v : Nat) : Int := if tySigned t then signedOf (tyBits t) v else ((v % 2 ^ tyBits t : Nat) : Int)

/-- An integer result under R131: wrapped, or clamped under SAT. -/
def fitInt (t : Ty) (sat : Bool) (x : Int) : Int :=
  if sat then clamp x (tyLo t) (tyHi t)
  else
    let u := wrap (tyBits t) x
    if tySigned t then signedOf (tyBits t) u else (u : Int)

/-- The register bits of an integer of a type: sign- or zero-extended to its register width (R99). -/
def intBits (t : Ty) (x : Int) : Nat := wrap (if tyWide t then 64 else 32) x

/-- `fcvti` (R174). -/
def fToInt (f : Fmt) (t : Ty) (d : Deliver) (a : Nat) : FRes :=
  match f.decode a with
  | .poison | .nan _ => ⟨0, fNV⟩
  | .inf neg => ⟨if d.sat then intBits t (if neg then tyLo t else tyHi t) else 0, fNV⟩
  | .fin neg m e =>
    let (n, inexact) := roundQuantum d.rnd neg m e false 0
    let x : Int := if neg then -(n : Int) else n
    let inv := x < tyLo t || tyHi t < x
    ⟨intBits t (fitInt t d.sat x), if inv then fNV else if inexact then fNX else 0⟩

/-- Stochastic rounding of a value to a narrow format with draw `q` (R128). -/
def fStochastic (f : Fmt) (d : Deliver) (q : Nat) (v : Val) : FRes :=
  match v with
  | .fin neg m e =>
    if m = 0 then ⟨f.signed neg 0, 0⟩
    else
      let u := f.quantum m e
      let (n, inexact) := roundQuantum .rz neg m e false u
      if !inexact then f.outFin { rnd := .rz, sat := d.sat, fzo := d.fzo } neg m e
      else
        let sh := (u - e).toNat
        let t := m % 2 ^ sh * 65536 / 2 ^ sh
        let n' := if q < t then n + 1 else n
        let g := f.gridBits n' u
        if f.maxFin < g then ⟨f.overflow .rz d.sat neg, fOF ||| fNX⟩
        else
          let fl := fNX ||| (if f.tiny m e then fUF else 0)
          if d.fzo && g != 0 && g < 2 ^ f.mb then ⟨f.signed neg 0, fl ||| fUF ||| fFZ⟩
          else ⟨f.signed neg g, fl⟩
  | v => f.out d v

/-- A `.sr` conversion from `.f32` (R171, R176). -/
def fConvertSr (f : Fmt) (d : Deliver) (q a : Nat) : FRes :=
  let x := fF32.input d.fzi a
  let r := fStochastic f d q x.1
  ⟨r.bits, r.fl ||| (if x.1 = .poison then 0 else x.2)⟩

/-- A value scaled by 2^(s − 127) (R124, R177). -/
def Val.scale (v : Val) (s : Nat) : Val :=
  match v with
  | .fin n m e => .fin n m (e + (s : Int) - 127)
  | v => v

/-- One value of `unpack` in an NF type with scale `s` (R177). -/
def fUnpackMx (g : Fmt) (d : Deliver) (s a : Nat) : FRes :=
  let x := g.input d.fzi a
  if s = 255 then ⟨fF32.canon, fNV ||| x.2⟩
  else
    let r := fF32.out { fzo := d.fzo } (x.1.scale s)
    ⟨r.bits, r.fl ||| x.2⟩

/-- EMAX of R178. -/
def emaxOf : Ty → Int
  | .e4m3 => 8
  | .e5m2 => 15
  | .e3m2 => 4
  | _ => 2

/-- `mxscale` (R178). -/
def fMxScale (t : Ty) (a : Nat) (bias : Int) : Nat :=
  match fF32.decode a with
  | .fin _ m e =>
    if m = 0 then 0x7F
    else (clamp ((Nat.log2 m : Int) + e - emaxOf t + 127 + bias) 0 254).toNat
  | _ => 0xFF

/-! ### `.x64` (R134, R135) -/

/-- The largest magnitude of a bucket element. -/
def x64Max : Int := 2 ^ 62 - 1

/-- A sum clamped to the bucket's range, and whether it saturated. -/
def x64Clamp (s : Int) : Int × Bool :=
  if x64Max < s then (x64Max, true) else if s < -x64Max then (-x64Max, true) else (s, false)

/-- A stored element as it reads: saturated, with OVF, when outside the range (R134). -/
def x64Read (v : W64) : Int × Bool := x64Clamp v.toInt

/-- A `.f32` encoded into a bucket of scale E (R134). -/
def x64Encode (a : Nat) (e : Int) : Int × Bool :=
  match fF32.decode a with
  | .poison | .nan _ => (0, true)
  | .inf neg => (if neg then -x64Max else x64Max, true)
  | .fin neg m g =>
    let n := (roundQuantum .rn neg m (g - e) false 0).1
    x64Clamp (if neg then -(n : Int) else n)

/-- The stored sum of R223: a saturated sum, or one with a saturated input, is stored as the sticky
mark ±2^62. -/
def x64Sum (a b : W64) : W64 :=
  let (x, ox) := x64Read a
  let (y, oy) := x64Read b
  let (s, os) := x64Clamp (x + y)
  if ox || oy || os then (if s < 0 then BitVec.ofInt 64 (-(2 ^ 62)) else BitVec.ofNat 64 (2 ^ 62))
  else BitVec.ofInt 64 s

/-- ρ of R135. -/
def residue (v : Int) : Nat := (v % 255).toNat

end Sys2Proof.Machine
end

