-- ==== Sys2Proof/Machine/Crypto.lean ====
section
/-! DEFINITION. The algorithms that R203, R204, R445 and R446 name, as their standards give them (assumption 13): AES-256
(FIPS 197) with XTS (IEEE 1619) and key wrapping (RFC 3394), SHA-512 (FIPS 180-4) with HKDF (RFC 5869), X25519 (RFC 7748),
Ed25519 (RFC 8032), and the encapsulation of ML-KEM-768 (FIPS 203). Bytes are numbers below 256. -/

namespace Sys2Proof.Machine

/-- Bytes of a list as numbers. -/
def octets (bs : List Byte) : List Nat := bs.map (·.toNat)

/-- The low `n` bytes of a number, lowest first, as numbers. -/
def leOctets (v n : Nat) : List Nat := octets (leBytes v n)

/-- The number that bytes hold, the first lowest. -/
def octetsLe : List Nat → Nat
  | [] => 0
  | b :: r => b + 256 * octetsLe r

/-- The number that bytes hold, the first highest. -/
def octetsBe (bs : List Nat) : Nat := octetsLe bs.reverse

/-- The low `n` bytes of a number, highest first. -/
def beOctets (v n : Nat) : List Nat := (leOctets v n).reverse

/-- Bytes added bit by bit. -/
def xorOctets (a b : List Nat) : List Nat := List.zipWith (· ^^^ ·) a b

/-- Byte `k` of a list, 0 past its end. -/
def octet (bs : List Nat) (k : Nat) : Nat := takeAt 0 bs k

/-- A value applied to `n` rounds, numbered from 0. -/
def rounds {α : Type} (n : Nat) (f : α → Nat → α) (a : α) : α := (List.range n).foldl f a

/-! ### AES-256 -/

/-- A byte of AES's field times `x`. -/
def gfDouble (a : Nat) : Nat := if a < 128 then 2 * a else (2 * a) ^^^ 0x11B

/-- A product in AES's field. -/
def gfMul (a b : Nat) : Nat :=
  (rounds 8 (fun (p : Nat × Nat) i => (if b.testBit i then p.1 ^^^ p.2 else p.1, gfDouble p.2)) (0, a)).1

/-- The inverse in AES's field, the 254th power; 0 for 0. -/
def gfInv (a : Nat) : Nat :=
  (rounds 7 (fun (p : Nat × Nat) _ => let q := gfMul p.2 p.2; (gfMul p.1 q, q)) (1, a)).1

/-- A byte turned left by `k` bits. -/
def turn8 (a k : Nat) : Nat := (a <<< k ||| a >>> (8 - k)) % 256

/-- SUBBYTES of a byte. -/
def aesSub (a : Nat) : Nat :=
  let b := gfInv a
  b ^^^ turn8 b 1 ^^^ turn8 b 2 ^^^ turn8 b 3 ^^^ turn8 b 4 ^^^ 0x63

/-- INVSUBBYTES of a byte. -/
def aesUnsub (a : Nat) : Nat := gfInv (turn8 a 1 ^^^ turn8 a 3 ^^^ turn8 a 6 ^^^ 0x05)

/-- A state of 16 bytes by its rows and columns. -/
def aesState (f : (row col : Nat) → Nat) : List Nat := (List.range 16).map (fun i => f (i % 4) (i / 4))

/-- SHIFTROWS by `k` places a row: 1, or 3 for its inverse. -/
def aesShift (k : Nat) (s : List Nat) : List Nat := aesState (fun r c => octet s (r + 4 * ((c + k * r) % 4)))

/-- MIXCOLUMNS with the first row of its matrix. -/
def aesMix (m s : List Nat) : List Nat :=
  aesState (fun r c => rounds 4 (fun x k => x ^^^ gfMul (octet m ((k + 4 - r) % 4)) (octet s (k + 4 * c))) 0)

/-- The 60 words of the key schedule. -/
def aesWords (key : List Nat) : List (List Nat) :=
  rounds 52 (fun ws k =>
    let i := k + 8
    let t := takeAt [] ws (i - 1)
    let t1 :=
      if i % 8 = 0 then xorOctets ((t.drop 1 ++ t.take 1).map aesSub) [2 ^ (i / 8 - 1), 0, 0, 0]
      else if i % 8 = 4 then t.map aesSub else t
    ws ++ [xorOctets (takeAt [] ws (i - 8)) t1]) ((List.range 8).map (fun i => (key.drop (4 * i)).take 4))

/-- The key of round `n`. -/
def aesRound (ws : List (List Nat)) (n : Nat) : List Nat := ((ws.drop (4 * n)).take 4).flatten

/-- A block enciphered under the words of a key. -/
def aesEnc (ws : List (List Nat)) (b : List Nat) : List Nat :=
  rounds 14 (fun s k =>
    let t := aesShift 1 (s.map aesSub)
    xorOctets (if k = 13 then t else aesMix [2, 3, 1, 1] t) (aesRound ws (k + 1))) (xorOctets b (aesRound ws 0))

/-- A block deciphered under the words of a key. -/
def aesDec (ws : List (List Nat)) (b : List Nat) : List Nat :=
  rounds 14 (fun s k =>
    let t := xorOctets ((aesShift 3 s).map aesUnsub) (aesRound ws (13 - k))
    if k = 13 then t else aesMix [14, 11, 13, 9] t) (xorOctets b (aesRound ws 14))

/-! ### AES-XTS-256 over a line (R203) -/

/-- A tweak times `x`. -/
def tweakNext (t : Nat) : Nat := if t < 2 ^ 127 then 2 * t else (2 * t - 2 ^ 128) ^^^ 0x87

/-- The bytes of a data unit of 16-byte blocks under a block function, `t` being the first tweak. -/
def xtsBlocks (f : List Nat → List Nat) : (n t : Nat) → List Nat → List Nat
  | 0, _, _ => []
  | n + 1, t, bs =>
    let w := leOctets t 16
    xorOctets (f (xorOctets (bs.take 16) w)) w ++ xtsBlocks f n (tweakNext t) (bs.drop 16)

/-- A line under a key pair, the data key first: enciphered, or deciphered. The tweak is the line's number, which is its physical
address bits [51:7] (R203, R446). -/
@[irreducible] def xtsLine (enc : Bool) (key : BitVec 512) (line : Nat) (d : BitVec 1024) : BitVec 1024 :=
  let ks := leOctets key.toNat 64
  let ws := aesWords (ks.take 32)
  let t := octetsLe (aesEnc (aesWords (ks.drop 32)) (leOctets (line % 2 ^ 45) 16))
  BitVec.ofNat 1024 (octetsLe (xtsBlocks (if enc then aesEnc ws else aesDec ws) 8 t (leOctets d.toNat 128)))

/-- What a line written under key `j` reads as under key `k`: its ciphertext deciphered (R204). Slot 0 has no key. -/
def recrypt (j k : Option (BitVec 512)) (line : Nat) (d : BitVec 1024) : BitVec 1024 :=
  let c := match j with
    | some key => xtsLine true key line d
    | none => d
  match k with
  | some key => xtsLine false key line c
  | none => c

/-! ### AES key wrapping (R446) -/

/-- Step `t` of the unwrapping: the integrity value and the 8 blocks before it. -/
def unwrapStep (ws : List (List Nat)) (x : Nat × List Nat) (t : Nat) : Nat × List Nat :=
  let i := (t - 1) % 8
  let b := aesDec ws (beOctets (x.1 ^^^ t) 8 ++ beOctets (octet x.2 i) 8)
  (octetsBe (b.take 8), modifyAt x.2 i (fun _ => octetsBe (b.drop 8)))

/-- The key pair that 72 bytes wrap; none when the check fails (R446). -/
@[irreducible] def unwrapKey (session : BitVec 256) (wrapped : List Byte) : Option (BitVec 512) :=
  let ws := aesWords (leOctets session.toNat 32)
  let bs := octets wrapped
  let blocks := (List.range 8).map (fun i => octetsBe ((bs.drop (8 * i + 8)).take 8))
  let x := rounds 48 (fun x k => unwrapStep ws x (48 - k)) (octetsBe (bs.take 8), blocks)
  if x.1 = 0xA6A6A6A6A6A6A6A6 then
    some (BitVec.ofNat 512 (octetsLe (x.2.flatMap (fun b => beOctets b 8))))
  else none

/-! ### SHA-512, HMAC and HKDF -/

/-- The whole part of the `k`-th root of a number, the root below 2^70. -/
def wholeRoot (k n : Nat) : Nat :=
  rounds 70 (fun r i => let q := r + 2 ^ (69 - i); if q ^ k ≤ n then q else r) 0

/-- The first 80 primes. -/
def primes80 : List Nat :=
  (List.range 410).filter (fun p => decide (2 ≤ p) && (List.range p).all (fun d => d < 2 || p % d != 0))

/-- 64 bits of the fractional parts of the roots of the first primes. -/
def shaConsts (k n : Nat) : List Nat := (primes80.take n).map (fun p => wholeRoot k (p * 2 ^ (64 * k)) % 2 ^ 64)

/-- A 64-bit number turned right. -/
def turn64 (a k : Nat) : Nat := (a >>> k ||| a <<< (64 - k)) % 2 ^ 64

/-- The 80 words of a block's schedule. -/
def shaWords (block : List Nat) : List Nat :=
  rounds 64 (fun w k =>
    let a := octet w (k + 1)
    let b := octet w (k + 14)
    let s0 := turn64 a 1 ^^^ turn64 a 8 ^^^ a >>> 7
    let s1 := turn64 b 19 ^^^ turn64 b 61 ^^^ b >>> 6
    w ++ [(octet w k + s0 + octet w (k + 9) + s1) % 2 ^ 64])
    ((List.range 16).map (fun i => octetsBe ((block.drop (8 * i)).take 8)))

/-- One round of the compression: the working variables a to h, the word and the constant. -/
def shaRound (v : List Nat) (w k : Nat) : List Nat :=
  match v with
  | [a, b, c, d, e, f, g, h] =>
    let t1 := h + (turn64 e 14 ^^^ turn64 e 18 ^^^ turn64 e 41) + ((e &&& f) ^^^ ((2 ^ 64 - 1 - e) &&& g)) + k + w
    let t2 := (turn64 a 28 ^^^ turn64 a 34 ^^^ turn64 a 39) + ((a &&& b) ^^^ (a &&& c) ^^^ (b &&& c))
    [(t1 + t2) % 2 ^ 64, a, b, c, (d + t1) % 2 ^ 64, e, f, g]
  | v => v

/-- A block compressed into the hash value. -/
def shaBlock (h block : List Nat) : List Nat :=
  let v := (List.zip (shaWords block) (shaConsts 3 80)).foldl (fun v x => shaRound v x.1 x.2) h
  List.zipWith (fun a b => (a + b) % 2 ^ 64) h v

/-- The SHA-512 digest of bytes. -/
def sha512 (m : List Nat) : List Nat :=
  let pad := (239 - m.length % 128) % 128
  let bs := m ++ [0x80] ++ List.replicate pad 0 ++ beOctets (8 * m.length) 16
  (rounds (bs.length / 128) (fun h i => shaBlock h ((bs.drop (128 * i)).take 128)) (shaConsts 2 8)).flatMap (fun x => beOctets x 8)

/-- HMAC with SHA-512. -/
def hmac512 (key m : List Nat) : List Nat :=
  let k0 := if key.length ≤ 128 then key else sha512 key
  let k := k0 ++ List.replicate (128 - k0.length) 0
  sha512 (k.map (· ^^^ 0x5C) ++ sha512 (k.map (· ^^^ 0x36) ++ m))

/-- The first 32 bytes of HKDF-SHA-512. -/
@[irreducible] def hkdf512 (salt ikm info : List Nat) : List Nat := (hmac512 (hmac512 salt ikm) (info ++ [1])).take 32

/-! ### X25519 and Ed25519 -/

/-- The prime of both. -/
def p25519 : Nat := 2 ^ 255 - 19

/-- A power modulo `p`, the exponent below 2^255. -/
def powMod (p b e : Nat) : Nat :=
  (rounds 255 (fun (x : Nat × Nat) i => (if e.testBit i then x.1 * x.2 % p else x.1, x.2 * x.2 % p)) (1, b % p)).1

/-- A field element from an integer expression over 2p. -/
def subMod (a b : Nat) : Nat := (a + p25519 - b % p25519) % p25519

/-- The inverse in the field. -/
def inv25519 (a : Nat) : Nat := powMod p25519 a (p25519 - 2)

/-- A scalar with the bits fixed that the standards fix. -/
def clamp25519 (k : Nat) : Nat := (k % 2 ^ 254) / 8 * 8 + 2 ^ 254

/-- One step of the Montgomery ladder for the bit `b` of the scalar. -/
def ladderStep (x1 : Nat) (b : Bool) (s : (Nat × Nat) × (Nat × Nat)) : (Nat × Nat) × (Nat × Nat) :=
  let ((x2, z2), (x3, z3)) := if b then (s.2, s.1) else s
  let p := p25519
  let a := (x2 + z2) % p
  let aa := a * a % p
  let d := subMod x2 z2
  let dd := d * d % p
  let e := subMod aa dd
  let da := subMod x3 z3 * a % p
  let cb := (x3 + z3) * d % p
  let u := (da + cb) % p
  let v := subMod da cb
  let r := ((aa * dd % p, e * (aa + 121665 * e) % p), (u * u % p, x1 * (v * v % p) % p))
  if b then (r.2, r.1) else r

/-- X25519 of a scalar and a coordinate, each as its 32 bytes' number. -/
@[irreducible] def x25519 (k u : Nat) : Nat :=
  let x1 := u % 2 ^ 255 % p25519
  let n := clamp25519 k
  let r := rounds 255 (fun s i => ladderStep x1 (n.testBit (254 - i)) s) ((1, 0), (x1, 1))
  r.1.1 * inv25519 r.1.2 % p25519

/-- The constant of the twisted Edwards curve. -/
def edD : Nat := (p25519 - 121665) * inv25519 121666 % p25519

/-- The sum of two points of the curve in extended coordinates X, Y, Z, T. -/
def edAdd (a b : Nat × Nat × Nat × Nat) : Nat × Nat × Nat × Nat :=
  let p := p25519
  let (x1, y1, z1, t1) := a
  let (x2, y2, z2, t2) := b
  let e := subMod ((x1 + y1) * (x2 + y2)) (x1 * x2 + y1 * y2)
  let c := t1 * edD % p * t2 % p
  let d := z1 * z2 % p
  let f := subMod d c
  let g := (d + c) % p
  let h := (y1 * y2 + x1 * x2) % p
  (e * f % p, g * h % p, f * g % p, e * h % p)

/-- The base point. -/
def edBase : Nat × Nat × Nat × Nat :=
  let x := 15112221349535400772501151409588531511454012693041857206046113283949847762202
  let y := 4 * inv25519 5 % p25519
  (x, y, 1, x * y % p25519)

/-- A multiple of a point. -/
def edTimes (k : Nat) (b : Nat × Nat × Nat × Nat) : Nat × Nat × Nat × Nat :=
  (rounds 256 (fun (s : (Nat × Nat × Nat × Nat) × (Nat × Nat × Nat × Nat)) i =>
    (if k.testBit i then edAdd s.1 s.2 else s.1, edAdd s.2 s.2)) ((0, 1, 1, 0), b)).1

/-- A point encoded in 32 bytes. -/
def edEncode : Nat × Nat × Nat × Nat → List Nat
  | (x, y, z, _) =>
    let i := inv25519 z
    leOctets (y * i % p25519 + x * i % p25519 % 2 * 2 ^ 255) 32

/-- A multiple of the base point, encoded. -/
def edMul (k : Nat) : List Nat := edEncode (edTimes k edBase)

/-- The order of the base point. -/
def edOrder : Nat := 2 ^ 252 + 27742317777372353535851937790883648493

/-- The public key of a seed. -/
@[irreducible] def edPublic (seed : List Nat) : List Nat := edMul (clamp25519 (octetsLe ((sha512 seed).take 32)))

/-- The Ed25519 signature of bytes under a seed. -/
@[irreducible] def edSign (seed m : List Nat) : List Nat :=
  let h := sha512 seed
  let a := clamp25519 (octetsLe (h.take 32))
  let r := octetsLe (sha512 (h.drop 32 ++ m)) % edOrder
  let pr := edMul r
  let k := octetsLe (sha512 (pr ++ edMul a ++ m)) % edOrder
  pr ++ leOctets ((r + k * a) % edOrder) 32

/-! ### Keccak -/

/-- The rotation of lane (x, y): the triangular numbers along the walk that starts at (1, 0). -/
def keccakTurns : List Nat :=
  (rounds 24 (fun (s : List Nat × Nat × Nat) t =>
    let (l, x, y) := s
    (modifyAt l (x + 5 * y) (fun _ => (t + 1) * (t + 2) / 2 % 64), y, (2 * x + 3 * y) % 5)) (List.replicate 25 0, 1, 0)).1

/-- The round constants: bit 2^j - 1 of round i is bit 7i + j of the sequence of x^8 + x^6 + x^5 + x^4 + 1. -/
def keccakConsts : List Nat :=
  (rounds 168 (fun (s : List Nat × Nat) t =>
    let r := s.2
    let next := if r < 128 then 2 * r else (2 * r - 256) ^^^ 0x71
    (if r % 2 = 1 then modifyAt s.1 (t / 7) (fun c => c ||| 2 ^ (2 ^ (t % 7) - 1)) else s.1, next)) (List.replicate 24 0, 1)).1

/-- A 64-bit number turned left. -/
def turnLeft64 (a k : Nat) : Nat := (a <<< k ||| a >>> (64 - k)) % 2 ^ 64

/-- One round of the permutation; lane (x, y) stands at x + 5y. -/
def keccakRound (a : List Nat) (rc : Nat) : List Nat :=
  let c := (List.range 5).map (fun x => octet a x ^^^ octet a (x + 5) ^^^ octet a (x + 10) ^^^ octet a (x + 15) ^^^ octet a (x + 20))
  let d := (List.range 5).map (fun x => octet c ((x + 4) % 5) ^^^ turnLeft64 (octet c ((x + 1) % 5)) 1)
  let e := (List.range 25).map (fun i => turnLeft64 (octet a i ^^^ octet d (i % 5)) (octet keccakTurns i))
  let b := (List.range 25).map (fun i => let x := i % 5; let y := i / 5; octet e ((x + 3 * y) % 5 + 5 * x))
  let f := (List.range 25).map (fun i =>
    let y := i / 5
    octet b i ^^^ ((2 ^ 64 - 1 - octet b ((i + 1) % 5 + 5 * y)) &&& octet b ((i + 2) % 5 + 5 * y)))
  modifyAt f 0 (· ^^^ rc)

/-- The permutation. -/
def keccakF (a : List Nat) : List Nat := keccakConsts.foldl keccakRound a

/-- A block of the rate added to the state. -/
def keccakAbsorb (a block : List Nat) : List Nat :=
  keccakF ((List.range 25).map (fun i => octet a i ^^^ octetsLe ((block.drop (8 * i)).take 8)))

/-- `n` blocks of output from a state. -/
def keccakSqueeze (rate : Nat) : Nat → List Nat → List Nat
  | 0, _ => []
  | n + 1, a => (a.flatMap (fun x => leOctets x 8)).take rate ++ keccakSqueeze rate n (keccakF a)

/-- The sponge: `out` bytes for a message, with a rate and the suffix of its function. -/
def keccak (rate suffix out : Nat) (m : List Nat) : List Nat :=
  let q := rate - m.length % rate
  let bs := m ++ (if q = 1 then [suffix ^^^ 0x80] else suffix :: List.replicate (q - 2) 0 ++ [0x80])
  let a := rounds (bs.length / rate) (fun a i => keccakAbsorb a ((bs.drop (rate * i)).take rate)) (List.replicate 25 0)
  (keccakSqueeze rate (ceilDiv out rate) a).take out

/-! ### ML-KEM-768 encapsulation (R445) -/

/-- The modulus. -/
def kemQ : Nat := 3329

/-- The low 7 bits of a number in reverse. -/
def rev7 (n : Nat) : Nat := rounds 7 (fun r i => 2 * r + n / 2 ^ i % 2) 0

/-- A power of 17 modulo q. -/
def zeta (e : Nat) : Nat := rounds e (fun r _ => 17 * r % kemQ) 1

/-- The pairs of a layer of the transform over blocks of `2 * len`, with `f` of the lower, the upper and the block's number. -/
def nttLayer (len : Nat) (f : Nat → Nat → Nat → Nat × Nat) (p : List Nat) : List Nat :=
  (List.range 256).map (fun i =>
    let b := i / (2 * len)
    if i % (2 * len) < len then (f (octet p i) (octet p (i + len)) b).1 else (f (octet p (i - len)) (octet p i) b).2)

/-- The transform of a polynomial. -/
def ntt (p : List Nat) : List Nat :=
  rounds 7 (fun p l => nttLayer (128 / 2 ^ l) (fun a b k =>
    let t := zeta (rev7 (2 ^ l + k)) * b % kemQ
    ((a + t) % kemQ, (a + kemQ - t) % kemQ)) p) p

/-- The inverse transform. -/
def nttInv (p : List Nat) : List Nat :=
  (rounds 7 (fun p l => nttLayer (2 * 2 ^ l) (fun a b k =>
    ((a + b) % kemQ, zeta (rev7 (2 ^ (7 - l) - 1 - k)) * (b + kemQ - a) % kemQ)) p) p).map (fun x => 3303 * x % kemQ)

/-- The product of two transforms. -/
def nttMul (f g : List Nat) : List Nat :=
  (List.range 128).flatMap (fun i =>
    let (a0, a1) := (octet f (2 * i), octet f (2 * i + 1))
    let (b0, b1) := (octet g (2 * i), octet g (2 * i + 1))
    [(a0 * b0 + a1 * b1 % kemQ * zeta (2 * rev7 i + 1)) % kemQ, (a0 * b1 + a1 * b0) % kemQ])

/-- The sum of two polynomials. -/
def polyAdd (f g : List Nat) : List Nat := List.zipWith (fun a b => (a + b) % kemQ) f g

/-- The values of `d` bits that bytes hold, lowest bits first. -/
def bitsDecode (d n : Nat) (bs : List Nat) : List Nat :=
  let v := octetsLe bs
  (List.range n).map (fun i => v / 2 ^ (d * i) % 2 ^ d)

/-- Values of `d` bits as bytes. -/
def bitsEncode (d : Nat) (vs : List Nat) : List Nat :=
  leOctets (vs.foldr (fun x r => x + 2 ^ d * r) 0) (d * vs.length / 8)

/-- Coefficients below q from a stream of bytes, three bytes giving two (SampleNTT). -/
def sampleNtt (stream : List Nat) : List Nat := ((bitsDecode 12 (stream.length * 2 / 3) stream).filter (· < kemQ)).take 256

/-- A small polynomial of 128 bytes of noise (SamplePolyCBD with 2 bits a sum). -/
def sampleCbd (bs : List Nat) : List Nat :=
  (bitsDecode 4 256 bs).map (fun x => (x % 2 + x / 2 % 2 + kemQ - x / 4 % 2 - x / 8 % 2) % kemQ)

/-- Coefficients rounded to `d` bits. -/
def compress (d : Nat) (p : List Nat) : List Nat := p.map (fun x => (2 ^ (d + 1) * x + kemQ) / (2 * kemQ) % 2 ^ d)

/-- A sum of products of transforms. -/
def nttDot (f g : List (List Nat)) : List Nat := (List.zipWith nttMul f g).foldl polyAdd (List.replicate 256 0)

/-- The shared secret and the ciphertext of an encapsulation key and a 32-byte message. -/
@[irreducible] def kemEncaps (ek m : List Nat) : List Nat × List Nat :=
  let kr := keccak 72 0x06 64 (m ++ keccak 136 0x06 32 ek)
  let r := kr.drop 32
  let t := (List.range 3).map (fun i => (bitsDecode 12 256 ((ek.drop (384 * i)).take 384)).map (· % kemQ))
  let rho := (ek.drop 1152).take 32
  let a (i j : Nat) : List Nat := sampleNtt (keccak 168 0x1F 840 (rho ++ [j, i]))
  let noise (n : Nat) : List Nat := sampleCbd (keccak 136 0x1F 128 (r ++ [n]))
  let y := (List.range 3).map (fun i => ntt (noise i))
  let u := (List.range 3).map (fun i =>
    polyAdd (nttInv (nttDot ((List.range 3).map (fun j => a j i)) y)) (noise (3 + i)))
  let mu := (bitsDecode 1 256 m).map (fun b => 1665 * b)
  let v := polyAdd (polyAdd (nttInv (nttDot t y)) (noise 6)) mu
  (kr.take 32, u.flatMap (fun p => bitsEncode 10 (compress 10 p)) ++ bitsEncode 4 (compress 4 v))

end Sys2Proof.Machine
end

