-- ==== Sys2Proof/Machine/Access.lean ====
section
/-! DEFINITION. How the parts of the state are reached: units, blocks, groups, supervisor slots and
launches; the run of a group (R85); counters and events (R449, R450). -/

namespace Sys2Proof.Machine

/-! ### Units, blocks, launches -/

/-- A unit (R13): a core by its number, a root core by 0x8000 + its index. -/
def State.proc (s : State) (u : Nat) : Proc := Cells.get {} s.units u

/-- The state with a unit replaced. -/
def State.setProc (s : State) (u : Nat) (p : Proc) : State := { s with units := Cells.set s.units u p }

/-- The state with a unit changed. -/
def State.onProc (s : State) (u : Nat) (f : Proc → Proc) : State := s.setProc u (f (s.proc u))

/-- The number marks a root core (R73). -/
def isRoot (u : Nat) : Bool := 0x8000 ≤ u

/-- The crown die of a unit (R13); a root core's die is its stack's. -/
def dieOf (u : Nat) : Nat := if isRoot u then (u - 0x8000) / 128 else u / 80

/-- The core cluster of a core (R13). -/
def clusterOf (u : Nat) : Nat := u / 8

/-- The stack of a root core (R13). -/
def stackOf (u : Nat) : Nat := (u - 0x8000) / 32

/-- A block by its identifier. -/
def State.block? (s : State) (bid : Nat) : Option Block := s.blocks.find? (fun b => b.bid = bid)

/-- The state with one block changed. -/
def State.onBlock (s : State) (bid : Nat) (f : Block → Block) : State :=
  { s with blocks := s.blocks.map (fun b => if b.bid = bid then f b else b) }

/-- A live launch by its id. -/
def State.launch? (s : State) (lid : Nat) : Option Launch := s.launches.find? (fun l => l.lid = lid)

/-- The state with one launch changed. -/
def State.onLaunch (s : State) (lid : Nat) (f : Launch → Launch) : State :=
  { s with launches := s.launches.map (fun l => if l.lid = lid then f l else l) }

/-- The supervisor slot of a scheduler (R397). -/
def State.sup (s : State) (u sched : Nat) : SupSlot := Cells.get {} (s.proc u).sups sched

/-- The state with a supervisor slot changed. -/
def State.onSup (s : State) (u sched : Nat) (f : SupSlot → SupSlot) : State :=
  s.onProc u (fun p => { p with sups := Cells.set p.sups sched (f (Cells.get {} p.sups sched)) })

/-! ### Contexts -/

/-- The group of a context; a supervisor slot's bank is one (R397). -/
def State.group? (s : State) : Ctx → Option Group
  | .grp bid g => (s.block? bid).bind (fun b => b.groups[g]?)
  | .sup u sc => some (s.sup u sc).g

/-- The state with a context's group changed. -/
def State.onGroup (s : State) (c : Ctx) (f : Group → Group) : State :=
  match c with
  | .grp bid g => s.onBlock bid (fun b => { b with groups := modifyAt b.groups g f })
  | .sup u sc => s.onSup u sc (fun p => { p with g := f p.g })

/-- The block of a context; a supervisor slot has none. -/
def State.ctxBlock? (s : State) : Ctx → Option Block
  | .grp bid _ => s.block? bid
  | .sup _ _ => none

/-- The unit a context issues on. -/
def State.ctxUnit (s : State) : Ctx → Nat
  | .grp bid _ => ((s.block? bid).map (·.unit)).getD 0
  | .sup u _ => u

/-- The launch of a context. -/
def State.ctxLaunch? (s : State) (c : Ctx) : Option Launch :=
  (s.ctxBlock? c).bind (fun b => s.launch? b.lid)

/-- The context is a supervisor slot. -/
def isSupCtx : Ctx → Bool
  | .sup _ _ => true
  | .grp _ _ => false

/-- The group a supervisor slot's SVGRP names (Table 19-3): slot [4:0], scheduler [6:5]. -/
def State.svTarget (s : State) (u sched : Nat) : Option Ctx :=
  let v := (s.sup u sched).svgrp.toNat
  (s.blocks.filter (fun b => b.unit = u)).findSome? (fun b =>
    (b.groups.findIdx? (fun g => g.slot = v % 32 && g.sched = v / 32 % 4)).map (fun i => Ctx.grp b.bid i))

/-! ### Runs -/

/-- The head key of a group's live lanes: greatest depth, then lowest PC (R85). -/
def headKey : List Lane → Option (Nat × W64)
  | [] => none
  | l :: ls =>
    if l.live then
      match headKey ls with
      | none => some (l.depth, l.pc)
      | some (d, p) =>
        if d < l.depth || (d = l.depth && l.pc.toNat ≤ p.toNat) then some (l.depth, l.pc) else some (d, p)
    else headKey ls

/-- The lanes, from number `i` up, that are live at a key. -/
def lanesAt (d : Nat) (p : W64) : Nat → List Lane → List Nat
  | _, [] => []
  | i, l :: ls =>
    if l.live && l.depth = d && l.pc = p then i :: lanesAt d p (i + 1) ls else lanesAt d p (i + 1) ls

/-- The run of a group: the live lanes whose key is the head key (R85). -/
def Group.run (g : Group) : List Nat :=
  match headKey g.lanes with
  | none => []
  | some (d, p) => lanesAt d p 0 g.lanes

/-- The PC of the run. -/
def Group.pc (g : Group) : W64 := ((headKey g.lanes).map (·.2)).getD 0

/-- The depth of the run. -/
def Group.depth (g : Group) : Nat := ((headKey g.lanes).map (·.1)).getD 0

/-- Predicate `p` of a lane; p7 is true (R72). -/
def Lane.pred (l : Lane) (p : BitVec 3) : Bool := if p = 7 then true else l.preds.getLsbD p.toNat

/-- The lane with a predicate written; a write to p7 is discarded (R72). -/
def Lane.setPred (l : Lane) (p : BitVec 3) (b : Bool) : Lane :=
  if p = 7 then l
  else { l with preds := if b then l.preds ||| ((1 : BitVec 7) <<< p.toNat)
      else l.preds &&& ~~~((1 : BitVec 7) <<< p.toNat) }

/-- A lane of a group by number. -/
def Group.lane (g : Group) (l : Nat) : Lane := g.lanes.getD l {}

/-- The guard of a lane for an instruction (R100). -/
def Group.guard (g : Group) (h : Head) (l : Nat) : Bool :=
  (g.lane l).pred h.guard.pred != h.guard.neg

/-- The lanes of the run whose guard is true (R100). -/
def Group.active (g : Group) (h : Head) : List Nat := g.run.filter (g.guard h)

/-- The group with some lanes changed. -/
def Group.onLanes (g : Group) (ls : List Nat) (f : Lane → Lane) : Group :=
  { g with lanes := g.lanes.mapIdx (fun i l => if ls.contains i then f l else l) }

/-- The lanes moved on by one word (R86). -/
def Group.advance (g : Group) (ls : List Nat) : Group := g.onLanes ls (fun l => { l with pc := l.pc + 12 })

/-- Some lane of the group is live (R85). -/
def Group.alive (g : Group) : Bool := g.lanes.any (·.live)

/-- The group is in its handler (R398). -/
def Group.inHandler (g : Group) : Bool :=
  match g.hb with
  | none => false
  | some b => g.lanes.any (fun l => l.live && b ≤ l.depth)

/-! ### Register stack (R67) -/

/-- CAP of R67. -/
def Group.cap (g : Group) : Nat := 48 * g.win + 16

/-- The slot that holds register vn of a lane at depth `d` (R67). -/
def Group.slotOf (g : Group) (d n : Nat) : Nat := (48 * d + n) % g.cap

/-- The element in a slot of a lane's column. -/
def Group.elemAt (g : Group) (slot lane : Nat) : Elem := Cells.get {} g.regs (32 * slot + lane)

/-- The group with the element in a slot of a lane's column written. -/
def Group.setElemAt (g : Group) (slot lane : Nat) (e : Elem) : Group :=
  { g with regs := Cells.put {} g.regs (32 * slot + lane) e }

/-- Register vn of lane `l` at its own depth. -/
def Group.vreg (g : Group) (n l : Nat) : Elem := g.elemAt (g.slotOf (g.lane l).depth n) l

/-- The group with register vn of lane `l` written. -/
def Group.setVreg (g : Group) (n l : Nat) (e : Elem) : Group :=
  g.setElemAt (g.slotOf (g.lane l).depth n) l e

/-- Scalar sn (R71). -/
def Group.sreg (g : Group) (n : Nat) : Scal := Cells.get {} g.scal n

/-- The group with a scalar written. -/
def Group.setSreg (g : Group) (n : Nat) (v : Scal) : Group := { g with scal := Cells.put {} g.scal n v }

/-- LDCNT (R93). -/
def Group.ldcnt (g : Group) : Nat := (g.pend.filter (·.load)).length

/-- STCNT (R93). -/
def Group.stcnt (g : Group) : Nat := (g.pend.filter (fun p => !p.load)).length

/-- The group with a destination element of an outstanding load written (R94). -/
def Group.deliver (g : Group) (e : PendElem) : Group :=
  match e.dst with
  | .vreg slot lane => g.setElemAt slot lane ⟨e.v.setWidth 32, e.tag⟩
  | .vpair slot lane =>
    (g.setElemAt slot lane ⟨e.v.setWidth 32, e.tag⟩).setElemAt (slot + 1) lane ⟨(e.v >>> 32).setWidth 32, e.tag⟩
  | .sreg n => g.setSreg n ⟨e.v, e.tag⟩
  | .nowhere => g

/-- A load whose elements are read in a way that can be performed again (R411). -/
def Pending.reissues (p : Pending) : Bool := p.elems.any (fun e => e.src.any (fun x => x.way != .own))

/-- An access or a synchronisation of the group is performed: the loads issued before it keep what they have read when a save makes
the group issue them again (R250, R411). -/
def Group.orders (g : Group) : Group := { g with ordered := g.nextId }

/-- What marks the operations of a `rep` that the group, or its handler, has in progress (R102, R104). -/
def Group.iterMark (g : Group) : Nat := if g.inHandler then 2 else 1

/-- The group at the first iteration of a `rep`: no operation is one of an earlier iteration (R102). -/
def Group.firstIteration (g : Group) : Group :=
  { g with pend := g.pend.map (fun p => if p.iter = g.iterMark then { p with iter := 0 } else p) }

/-- The group with an outstanding operation added, with requests outstanding for some sectors; its number is the group's
next (R93, R197). -/
def Group.addPending (g : Group) (load : Bool) (elems : List PendElem) (blocked : Nat) (sectors : List Nat := []) : Group :=
  let p : Pending := { id := g.nextId, load, elems, blocked, sectors, iter := if g.rep.isSome then g.iterMark else 0 }
  { g with pend := g.pend ++ [p], nextId := g.nextId + 1, ordered := if p.reissues then g.ordered else g.nextId + 1 }

/-- The group with one of the steps an operation waits for done, its elements so far known. -/
def Group.unblock (g : Group) (id : Nat) (elems : List PendElem) : Group :=
  { g with pend := g.pend.map (fun p =>
      if p.id = id then { p with blocked := p.blocked - 1, elems := p.elems ++ elems } else p) }

/-- The group with an operation completed: its elements written and its count subtracted (R93). -/
def Group.complete (g : Group) (id : Nat) : Group :=
  match g.pend.find? (fun p => p.id = id) with
  | none => g
  | some p =>
    { (p.elems.filter (fun e => !e.given)).foldl Group.deliver g with
      pend := g.pend.filter (fun p => p.id != id), ordered := max g.ordered id }

/-! ### Origins of failed loads (R403) -/

/-- Origin entries taken for the failing lanes, in order, round robin (R403): each lane with its cause
and address, and the tagged value bits it gets (R402). -/
def Group.takeOrigins (g : Group) : List (Nat × Nat × W64) → Group × List (Nat × W64)
  | [] => (g, [])
  | (l, cause, va) :: r =>
    let n := g.originNext
    let g1 := { g with origins := Cells.put 0 g.origins n va, originNext := (n + 1) % 64 }
    let (g2, out) := g1.takeOrigins r
    (g2, (l, w64 (cause + 256 * n)) :: out)

/-- The lane whose origin entry an element of an outstanding load takes when it fails; none where nothing is written (R403). -/
def Dest.lane : Dest → Option Nat
  | .vreg _ l | .vpair _ l => some l
  | .sreg _ => some 0
  | .nowhere => none

/-- The load and the lane, with its address, that an element belongs to. -/
def PendElem.owner (id : Nat) (e : PendElem) : Option (Nat × Nat × W64) :=
  e.src.bind (fun x => e.dst.lane.map (fun l => (id, l, x.ea)))

/-- The elements that `bad` picks of outstanding loads, and that have not been given, fail with a cause (R436, R441). -/
def Group.failLoads (g : Group) (cause : Nat) (bad : Pending → LoadSrc → Bool) : Group :=
  let fails (p : Pending) (e : PendElem) : Bool := !e.given && e.src.any (bad p)
  let lanes := (g.pend.flatMap (fun p => (p.elems.filter (fails p)).filterMap (PendElem.owner p.id))).eraseDups
  let (g1, vals) := g.takeOrigins (lanes.zipIdx.map (fun x => (x.2, cause, x.1.2.2)))
  let bits (id : Nat) (e : PendElem) : W64 :=
    (((e.owner id).bind (fun o => vals.find? (fun v => lanes[v.1]? = some o))).map (·.2)).getD (w64 cause)
  { g1 with pend := g1.pend.map (fun p =>
      { p with elems := p.elems.map (fun e => if fails p e then { e with v := bits p.id e, tag := true } else e) }) }

/-- The context is a group of a block's. -/
def ctxOfBlock (bid : Nat) : Ctx → Bool
  | .grp b _ => b = bid
  | .sup _ _ => false

/-- A unit whose schedulers have forgotten a block that leaves: the group placed next in a slot takes no turn of another (R89). -/
def Proc.forget (p : Proc) (bid : Nat) : Proc := { p with lastSlot := p.lastSlot.filter (fun e => !ctxOfBlock bid e.2.1) }

/-! ### Time, counters and events -/

/-- The number of TIME. -/
def State.now (s : State) : Nat := s.time.toNat

/-- A free value, and the state with the counter read (assumption 20). -/
def State.free (s : State) : W64 × State := (Config.freeBits s.fresh, { s with fresh := s.fresh + 1 })

/-- A counter after an event of its source with `n` counts (Table 21-5). -/
def Counter.count (c : Counter) (n : Nat) : Counter :=
  if c.ctl.getLsbD 10 then
    let v := c.val.toNat + n
    { ctl := if 2 ^ 48 ≤ v then c.ctl ||| (1 <<< 11) else c.ctl, val := BitVec.ofNat 48 v }
  else c

/-- A unit's event, counted on the unit's own counters (R449). -/
def State.unitEvent (s : State) (u src n : Nat) : State :=
  s.onProc u (fun p => { p with counters := p.counters.map (fun c =>
    if field c.2.ctl.toNat 0 10 = src then (c.1, c.2.count n) else c) })

/-- A package event of launch `lid` on die `d`, counted on the package counters (R450). -/
def State.pkgEvent (s : State) (src lid d : Nat) : State :=
  { s with plat := { s.plat with pctr := s.plat.pctr.map (fun c =>
      let w := c.2.ctl.toNat
      let okLid := field w 12 32 = 0 || field w 12 32 = lid
      let okDie := field w 44 4 = 0 || field w 44 4 = d + 1
      if field w 0 10 = src && okLid && okDie then (c.1, c.2.count 1) else c) } }

/-- The die of an event whose scope is the package alone (Table 21-6): no DIE filter names it (assumption 76). -/
def noDie : Nat := 15

/-- An event of the task system (Table 21-6, 0x040 to 0x049): its scope is the package. -/
def State.taskEvent (s : State) (src lid : Nat) : State := s.pkgEvent src lid noDie

/-- A capped engine's bytes allowed in 10,000 ns: RATE1 is in MB/s, the others in GB/s (Table 21-7). -/
def State.allowance (s : State) (engine : Nat) : Nat := takeAt 0 s.plat.rates engine * (if engine = 1 then 10 else 10000)

/-- Bytes that unit `i` of capped engine `e` may still move in this 10,000 ns (R454). -/
def State.paceRoom (s : State) (e i : Nat) : Nat :=
  s.allowance e - (((Cells.get [] s.plat.moved (256 * e + i)).filter (fun m => s.now < m.1 + 10000)).map (·.2)).sum

/-- `n` bytes moved by unit `i` of capped engine `e`, when its average over 10,000 ns, or over as many of them as `n` bytes take,
stays within its cap; none when the work waits (R454). -/
def State.paced (s : State) (e i n : Nat) : Option State :=
  let cap := s.allowance e
  if cap = 0 then none
  else
    let spans := max 1 (ceilDiv n cap)
    let was := (Cells.get [] s.plat.moved (256 * e + i)).filter (fun m => s.now < m.1 + 10000 * spans)
    if cap * spans < (was.map (·.2)).sum + n then none
    else some { s with plat := { s.plat with moved := Cells.set s.plat.moved (256 * e + i) (was ++ [(s.now, n)]) } }

/-- FEATPKG (Table 7-3). -/
def PkgCfg.feat (c : PkgCfg) : W64 := c.featpkg &&& 0x3FF

/-- FEAT of a unit (R84, R306): FEATPKG less what run-time fencing removed; a root core lacks MTX,
SPARSE, WALK and TASK. -/
def State.feat (s : State) (u : Nat) : W64 :=
  let f := s.cfg.feat &&& ~~~(s.proc u).featLost
  if isRoot u then f &&& ~~~(0x63 : W64) else f

/-- A unit that an agent's death takes with it (R441). -/
def agentHolds (a : Agent) (u : Nat) : Bool :=
  match a with
  | .core n => u = n
  | .rootDie st => isRoot u && stackOf u = st
  | .crownDie d => dieOf u = d
  | _ => false

/-- A unit lies on a dead agent: nothing on it runs (R441, R448). -/
def State.unitDead (s : State) (u : Nat) : Bool := s.dead.any (fun a => agentHolds a u)

/-- A core is enabled (R18): not fenced, not dead. -/
def State.coreEnabled (s : State) (c : Nat) : Bool :=
  c < Config.cores && !s.cfg.fcores.contains c && !s.dead.contains (.core c)
    && !s.dead.contains (.crownDie (c / 80))

/-- A root core is enabled (R18). -/
def State.rootEnabled (s : State) (r : Nat) : Bool :=
  r < Config.rootCores && !s.cfg.froots.contains r && !s.dead.contains (.rootDie (r / 32))
    && !s.dead.contains (.core (0x8000 + r))
    && !s.dead.contains (.crownDie (r / 128))

/-- A gated core ungated by a wake, or by an access addressed to it (R358, R447). -/
def State.wakeCore (s : State) (u : Nat) : State :=
  if (s.proc u).power = .c0 then s else s.onProc u (fun p => { p with power := .c0, idleSince := s.now, still := [] })

/-! ### Supervisor slots (R397, Table 19-3) -/

/-- A supervisor slot at the supervisor's entry, its registers as it left them (R397). -/
def SupSlot.begin (p : SupSlot) (width : Nat) : SupSlot :=
  { p with
    active := true
    g := { p.g with
      width := width, win := 4, nscal := 64
      lanes := (List.range width).map (fun i =>
        { pc := Config.supervisorEntry, preds := (takeAt ({} : Lane) p.g.lanes i).preds })
      hold := .none, ended := false, rep := .none, stall := 0, ahead := [] } }

/-- A free supervisor slot takes its oldest waiting event (Table 19-3). -/
def State.startEvent (s : State) (u sc : Nat) : State :=
  let p := s.sup u sc
  match p.events with
  | [] => s
  | e :: r =>
    if p.active then s
    else s.onSup u sc (fun p => { p.begin (if isRoot u then 16 else 32) with events := r, svevt := e, svdisp := 0 })

/-- An event for the supervisor of a unit, in the slot of scheduler `sc` (Table 19-3). -/
def State.notifySup (s : State) (u sc : Nat) (e : BitVec 32) : State :=
  (s.onSup u sc (fun p => { p with events := p.events ++ [e] })).startEvent u sc

/-- The first enabled core of a die, which serves the die's events (R401). -/
def State.dieSupervisor (s : State) (d : Nat) : Nat :=
  ((List.range 80).find? (fun i => s.coreEnabled (80 * d + i))).getD 0 + 80 * d

end Sys2Proof.Machine
end

