-- ==== Sys2Proof/Machine/Map.lean ====
section
/-! DEFINITION. The physical map: the pseudo-channels and where an HBM address lies (R18, R23, R24, R52), and what stands at
every other physical address (R190, R192, R432, R435). -/

namespace Sys2Proof.Machine

/-! ### Pseudo-channels (R18, R23, R24, R52) -/

/-- The numbers of the fenced pseudo-channels: those fenced alone and those of fenced root cores. -/
def fencedPchans (c : PkgCfg) : List Nat :=
  (c.fpchans ++ c.froots.flatMap (fun r => [2 * r, 2 * r + 1])).eraseDups

/-- Pseudo-channel `e` is enabled. -/
def State.pchanEnabled (s : State) (e : Nat) : Bool :=
  e < 1024 && !s.cfg.fpchans.contains e && !s.cfg.froots.contains (e / 2)

/-- Enabled pseudo-channels of a stack. -/
def State.stackPchans (s : State) (st : Nat) : Nat :=
  64 - ((fencedPchans s.cfg).filter (fun e => e / 64 = st)).length

/-- Enabled pseudo-channels of a die's HBM slices: the GiB that back its range. -/
def State.dieGib (s : State) (d : Nat) : Nat :=
  s.stackPchans (4 * d) + s.stackPchans (4 * d + 1) + s.stackPchans (4 * d + 2) + s.stackPchans (4 * d + 3)

/-- A stack named in the PHBM of a VALID partition (R52). -/
def State.perStack (s : State) (st : Nat) : Bool :=
  s.parts.any (fun p => p.2.valid && p.2.phbm.getLsbD st)

/-- The enabled pseudo-channels of some HBM slices in ascending (h, c, s) (R24). -/
def State.pchanList (s : State) (dieStacks : List Nat) : List Nat :=
  (List.range 2).flatMap (fun h => (List.range 32).flatMap (fun c =>
    (dieStacks.map (fun st => 64 * st + 2 * c + h)).filter s.pchanEnabled))

/-- Pseudo-channel and offset of offset `o` in a range spread over `l` (R24). -/
def spreadOver (l : List Nat) (o : Nat) : Nat × Nat :=
  (takeAt 0 l (o / 4096 % l.length), o / 4096 / l.length * 4096 + o % 4096)

/-- Pseudo-channel and offset of offset `o` in the per-stack ranges of `dieStacks` (R52). -/
def State.perStackPlace (s : State) (o : Nat) : List Nat → Option (Nat × Nat)
  | [] => none
  | st :: r =>
    let n := s.stackPchans st * 2 ^ 30
    if o < n then some (spreadOver (s.pchanList [st]) o) else s.perStackPlace (o - n) r

/-- Pseudo-channel and offset of an HBM address; none in a hole (R23, R24, R52). -/
def State.hbmPlace (s : State) (pa : Nat) : Option (Nat × Nat) :=
  let d := pa / 2 ^ 38
  let o := pa % 2 ^ 38
  let dieStacks := [4 * d, 4 * d + 1, 4 * d + 2, 4 * d + 3]
  let inter := dieStacks.filter (fun st => !s.perStack st)
  let n := (inter.map s.stackPchans).sum * 2 ^ 30
  if o < n then some (spreadOver (s.pchanList inter) o)
  else s.perStackPlace (o - n) (dieStacks.filter s.perStack)

/-- The stack whose per-stack range holds an HBM address, if any (R52). -/
def State.perStackOf (s : State) (pa : Nat) : Option Nat :=
  match (s.hbmPlace pa).map (fun e => e.1 / 64) with
  | some st => if s.perStack st then some st else none
  | none => none

/-- The row home and `rcall` owner of an HBM address: a root core index (R24). -/
def State.ownerOf (s : State) (pa : Nat) : Option Nat := (s.hbmPlace pa).map (fun e => e.1 / 2)

/-! ### The map -/

/-- What a physical address names (Tables 11-5 and 11-6). -/
inductive Spot where
  | memory (die : Nat)
  | host
  | peer (a : Nat)
  /-- scratchpad of a core, or local SRAM of a root core (unit 0x8000 + r) -/
  | spad (u off : Nat)
  | accum (u off : Nat)
  | control (u off : Nat)
  | config (off : Nat)
  | queueRegs (off : Nat)
  | partRegs (off : Nat)
  | unbacked
  deriving DecidableEq, Repr

/-- Die `d` serves addresses (R441). -/
def State.dieAlive (s : State) (d : Nat) : Bool := !s.dead.contains (.crownDie d)

/-- An HBM address is backed (R23, R441). -/
def State.hbmBacked (s : State) (pa : Nat) : Bool :=
  pa % 2 ^ 38 < s.dieGib (pa / 2 ^ 38) * 2 ^ 30 && s.dieAlive (pa / 2 ^ 38)
    && (s.dead.isEmpty || (match s.hbmPlace pa with
        | some e => !s.dead.contains (.rootDie (e.1 / 64))
        | none => false))

/-- A port is up: it lies on a live die and has an enabled lane (R435). -/
def State.portUp (s : State) (p : Nat) : Bool :=
  p < 18 && !s.ulDown.contains p && (List.range 4).any (fun i => !s.cfg.flanes.contains (4 * p + i))
    && s.dieAlive (if p < 5 then 0 else if p < 10 then 1 else if p < 14 then 2 else 3)

/-- The enabled route ports toward accelerator `a`, ascending (R435). -/
def State.routePorts (s : State) (a : Nat) : List Nat :=
  let e := Cells.get 0 s.host.ulroute a
  if e.getLsbD 63 then (List.range 18).filter (fun p => e.getLsbD p && s.portUp p) else []

/-- The window of an enabled core: its stores and its control registers (Table 11-6). -/
def State.coreWindow (s : State) (o : Nat) : Spot :=
  let c := o / 2 ^ 26
  let w := o % 2 ^ 26
  if s.coreEnabled c then
    if w < 0x200000 then .spad c w
    else if 0x1000000 ≤ w && w < 0x1800000 then .accum c (w - 0x1000000)
    else if 0x2000000 ≤ w && w < 0x2010000 then .control c (w - 0x2000000)
    else .unbacked
  else .unbacked

/-- The window of an enabled root core (Table 11-6). -/
def State.rootWindow (s : State) (o : Nat) : Spot :=
  let r := o / 2 ^ 24
  let w := o % 2 ^ 24
  if s.rootEnabled r then
    if w < 0x80000 then .spad (0x8000 + r) w
    else if 0x800000 ≤ w && w < 0x810000 then .control (0x8000 + r) (w - 0x800000)
    else .unbacked
  else .unbacked

/-- What a physical address names (R23, R190, R192, R432, R435, R441). Once CXLG is written, each CXL port backs the GiB attached
to it (R21, Table 11-5, assumption 96). -/
def State.spot (s : State) (pa : Nat) : Spot :=
  if pa < 2 ^ 40 then (if s.hbmBacked pa then .memory (pa / 2 ^ 38) else .unbacked)
  else if pa < 2 ^ 42 then .unbacked
  else if pa < 2 ^ 42 + 2 ^ 41 then
    let o := pa - 2 ^ 42
    if o < s.cfg.lpg * 2 ^ 30 && s.dieAlive (pa / 4096 % 4) then .memory (pa / 4096 % 4) else .unbacked
  else if pa < 2 ^ 43 then .unbacked
  else if pa < 2 ^ 43 + 2 ^ 42 then
    let p := (pa - 2 ^ 43) / 2 ^ 40
    if s.cxlgWritten && pa % 2 ^ 40 < Cells.get 0 s.cxlGib p * 2 ^ 30 && s.dieAlive p
        && !s.dead.contains (.expander p) then .memory p else .unbacked
  else if pa < 2 ^ 50 then .unbacked
  else if pa < 2 ^ 51 then
    if s.dead.contains .host || !s.dieAlive 0 then .unbacked else .host
  else if pa < 2 ^ 51 + 2 ^ 50 then
    let a := (pa - 2 ^ 51) / 2 ^ 40
    if a = s.host.ulid.toNat || s.dead.contains (.peer a) || (s.routePorts a).isEmpty then .unbacked else .peer a
  else if pa < 0xFF00000000000 then .unbacked
  else if pa < 0xFF80000000000 then s.coreWindow (pa - 0xFF00000000000)
  else if pa < 0xFFF0000000000 then s.rootWindow (pa - 0xFF80000000000)
  else if pa < 0xFFF0000001000 then .config (pa - 0xFFF0000000000)
  else if 0xFFF0000010000 ≤ pa && pa < 0xFFF0000011000 then .queueRegs (pa - 0xFFF0000010000)
  else if 0xFFF0000020000 ≤ pa && pa < 0xFFF0000021000 then .partRegs (pa - 0xFFF0000020000)
  else .unbacked

/-- HBM. -/
def isHbm (pa : Nat) : Bool := pa < 2 ^ 40
/-- LPDDR6 and CXL memory: the second tier (R200). -/
def isSecondTier (pa : Nat) : Bool :=
  (2 ^ 42 ≤ pa && pa < 2 ^ 42 + 2 ^ 41) || (2 ^ 43 ≤ pa && pa < 2 ^ 43 + 2 ^ 42)
/-- The host window. -/
def isHostWin (pa : Nat) : Bool := 2 ^ 50 ≤ pa && pa < 2 ^ 51
/-- The UALink peer windows. -/
def isPeerWin (pa : Nat) : Bool := 2 ^ 51 ≤ pa && pa < 2 ^ 51 + 2 ^ 50
/-- The on-chip map. -/
def isOnChip (pa : Nat) : Bool := 0xFF00000000000 ≤ pa
/-- Lines that an L1 or L2 may hold: HBM, the second tier, and the host window in CXL mode (R432,
R436). -/
def State.cacheable (s : State) (pa : Nat) : Bool :=
  isHbm pa || isSecondTier pa || (isHostWin pa && s.port = .cxl)

/-- The home die of a memory, host-window or peer address (Table 11-5, R436). -/
def State.homeDie (s : State) (pa : Nat) : Nat :=
  match s.spot pa with
  | .memory d => d
  | .peer a =>
    let ps := s.routePorts a
    let p := takeAt 0 ps (pa / 128 % ps.length)
    if p < 5 then 0 else if p < 10 then 1 else if p < 14 then 2 else 3
  | _ => 0

end Sys2Proof.Machine
end

