-- ==== Sys2Proof/Machine/TaskOps.lean ====
section
/-! DEFINITION. The task system's own operations (R366 to R382): keys and ids, the frontier, and
aborting a task with its descendants and its cascade. -/

namespace Sys2Proof.Machine

/-- Keys are ordered by TSTAMP and then by spawn sequence (R366). -/
def keyLt (a b : Nat × Nat) : Bool := a.1 < b.1 || (a.1 = b.1 && a.2 < b.2)

/-- The key of a record (R366). -/
def TaskRec.key (t : TaskRec) : Nat × Nat := (t.ts, t.n)

/-- The task id of a spawn sequence (R366). -/
def taskIdOf (n : Nat) : Nat := n % (2 ^ 32 - 1) + 1

/-- The record of a launch with a spawn sequence. -/
def Launch.task? (l : Launch) (n : Nat) : Option TaskRec := l.tasks.find? (fun t => t.n = n)

/-- The launch with one record changed. -/
def Launch.onTask (l : Launch) (n : Nat) (f : TaskRec → TaskRec) : Launch :=
  { l with tasks := l.tasks.map (fun t => if t.n = n then f t else t) }

/-- A record that has finished waits only for its commit (R385). -/
def TaskRec.isFinished (t : TaskRec) : Bool :=
  match t.st with
  | .finished _ => true
  | _ => false

/-- Entries left in a die's dependence table, which holds no finished record (R372). -/
def State.tableRoom (s : State) (d : Nat) : Nat :=
  8192 - (s.launches.map (fun l => (l.tasks.filter (fun t => t.table = some d && !t.isFinished)).length)).sum

/-- Records entered in a die's dependence table with `n` entries left; one past them enters as though its sets
were empty (R372). -/
def fileTable (d : Nat) : Nat → List TaskRec → List TaskRec
  | _, [] => []
  | 0, t :: r => { t with table := none } :: fileTable d 0 r
  | n + 1, t :: r => { t with table := some d } :: fileTable d n r

/-- The crown die of a core cluster. -/
def dieOfCluster (k : Nat) : Nat := k / 10

/-- The lowest key of a list of records (R367). -/
def lowestKey : List TaskRec → Option (Nat × Nat)
  | [] => none
  | t :: ts =>
    match lowestKey ts with
    | none => some t.key
    | some k => if keyLt t.key k then some t.key else some k

/-- The lowest key that a launch's records report: a ring that is rescanned still reports its old minimum (R367, R369). -/
def Launch.lowest (l : Launch) : Option (Nat × Nat) :=
  match lowestKey (l.tasks ++ l.initial), l.ringOld with
  | some a, some b => if keyLt b a then some b else some a
  | none, b => b
  | a, none => a

/-- FRONT: the TSTAMP of the published key; all ones when the launch holds no uncommitted record;
0 outside a task launch (R367, Table 4-2). -/
def Launch.frontReg (l : Launch) : W64 :=
  if l.r.lflags % 2 = 0 then 0
  else match l.front with
    | some k => BitVec.ofNat 64 k.1
    | none => if l.tasks.isEmpty && l.initial.isEmpty then BitVec.allOnes 64 else 0

/-- The sequences, in ascending order, of the records descended from sequence `n` (R381 step 1). -/
def descendants (ts : List TaskRec) (n : Nat) : List Nat :=
  (ts.foldl (fun acc t => if acc.contains (t.parent - 1) && t.parent != 0 then acc ++ [t.n] else acc) [n]).drop 1

/-- The group whose task is aborted or discarded stops: its loads are dropped, and it is free once
its counts are 0 (R381). -/
def Group.stopTask (g : Group) (now : Nat) : Group :=
  { g with
    lanes := g.lanes.map (fun l => { l with live := false })
    task := none, ts := 0, taskid := 0, stopping := true, spawnWait := false, hold := .none, rep := none, repi := 0
    pend := g.pend.filter (fun p => !p.load), freeSince := now, hb := none, asyncs := [] }

/-- A group leaves the granule waits `gs` it had (R381): each store count loses the steps that waited. -/
def Group.leaveGrans (g : Group) (gs : List GranAccess) : Group :=
  gs.foldl (fun g a => g.unblock a.pend []) g

/-- A tensor record slot whose load is dropped with the tasks of some groups: no record arrives, and the slot is empty (R296, R381,
assumption 108). -/
def TrecSlot.dropped (gs : List Nat) : TrecSlot → TrecSlot
  | .loading g p va r cause => if gs.contains g then .empty else .loading g p va r cause
  | x => x

/-- The group runs one of the records `ns`. -/
def Group.runs (g : Group) (ns : List Nat) : Bool := g.task.any ns.contains

/-- A block in which the groups that run the records `ns` are stopped; `gs` are the granule accesses that wait. -/
def Block.stopTasks (b : Block) (now : Nat) (ns : List Nat) (gs : List GranAccess) : Block :=
  let mine := ((b.groups.zipIdx).filter (fun g => g.1.runs ns)).map (·.2)
  { b with
    groups := b.groups.mapIdx (fun i g =>
      if g.runs ns then (g.stopTask now).leaveGrans (gs.filter (fun a => a.ctx = .grp b.bid i)) else g)
    trecs := b.trecs.map (fun x => (x.1, x.2.dropped mine)) }

/-- The contexts of a block whose groups run one of the records `ns`. -/
def Block.runners (b : Block) (ns : List Nat) : List Ctx :=
  (b.groups.zipIdx.filter (fun g => g.1.runs ns)).map (fun g => Ctx.grp b.bid g.2)

/-- The state with the groups that run the records `ns` of a launch stopped: their held waits, those at granules among
them, are left (R381). -/
def stopRunners (s : State) (lid : Nat) (ns : List Nat) : State :=
  let grans := s.units.flatMap (fun u => u.2.grans)
  let gone := (s.blocks.filter (fun b => b.lid = lid)).flatMap (fun b => b.runners ns)
  { s with
    blocks := s.blocks.map (fun b => if b.lid = lid then b.stopTasks s.now ns grans else b)
    units := s.units.map (fun u => (u.1, { u.2 with grans := u.2.grans.filter (fun a => !gone.contains a.ctx) }))
    images := s.images.map (fun im =>
      if im.block.lid = lid then
        { im with
          block := im.block.stopTasks s.now ns im.grans
          grans := im.grans.filter (fun a => !(im.block.runners ns).contains a.ctx) }
      else im) }

/-- Entries of a die's version store in use (R383). -/
def State.versionsOn (s : State) (d : Nat) : Nat := (s.versions.filter (fun v => s.homeDie (128 * v.line) = d)).length

/-- A record no longer stalls once an entry of the die it waits for is free (R383). -/
def TaskRec.unstall (s : State) (t : TaskRec) : TaskRec :=
  { t with stalled := t.stalled.filter (fun x => 65536 ≤ s.versionsOn x.2) }

/-- The stalls of the dies that have entries free again end (R383). -/
def State.unstall (s : State) : State :=
  { s with launches := s.launches.map (fun l => { l with tasks := l.tasks.map (TaskRec.unstall s) }) }

/-- One abort (R381 steps 1, 2 and 4) counted under event `ev`: the state, and the lines on which the
task or a discarded record held a version. -/
def abortOne (s : State) (lid n ev : Nat) : State × List Nat :=
  match s.launch? lid with
  | none => (s, [])
  | some l =>
    match l.task? n with
    | none => (s, [])
    | some t =>
      let ds := descendants l.tasks n
      let gone := n :: ds
      let lines := (s.versions.filter (fun v => v.lid = lid && gone.contains v.n && v.ver.isSome)).map (·.line)
      let s1 := stopRunners s lid gone
      let s2 := { s1 with versions := s1.versions.filter (fun v => !(v.lid = lid && gone.contains v.n)) }
      let d := dieOfCluster t.home
      let kept : Bool := t.table = some d && !t.isFinished
      let table := if kept || 0 < s2.tableRoom d then some d else none
      let s3 := s2.onLaunch lid (fun l =>
        { l with tasks := (l.tasks.filter (fun t => !ds.contains t.n)).map (fun u =>
            if u.n = n then { u with st := .queued t.home, ns := false, stalled := none, table }
            else { u with unready := false }) })
      let s4 := (if s1.versions.length = s3.versions.length then s3 else s3.unstall).taskEvent ev lid
      (ds.foldl (fun s _ => s.taskEvent 0x046 lid) s4, lines)

/-- A record that an abort may take: it runs or has finished, and is speculative (R374); a record that an earlier abort
of the same step re-queued is past it (Table 18-3). -/
def TaskRec.abortable (t : TaskRec) : Bool :=
  !t.ns && (match t.st with | .running _ _ | .finished _ => true | _ => false)

/-- Aborts of a work list, each with its event, with the cascade of R381 step 3. -/
def abortAll (fuel : Nat) (s : State) (lid : Nat) (work : List (Nat × Nat)) : State :=
  match fuel, work with
  | 0, _ => s
  | _, [] => s
  | fuel + 1, (n, ev) :: rest =>
    match (s.launch? lid).bind (·.task? n) with
    | none => abortAll fuel s lid rest
    | some t =>
      if !t.abortable then abortAll fuel s lid rest
      else
        let (s1, lines) := abortOne s lid n ev
        let later : List TaskRec := match s1.launch? lid with
          | none => []
          | some l => l.tasks.filter (fun (u : TaskRec) => keyLt t.key u.key && u.abortable
              && s1.versions.any (fun v => v.lid = lid && v.n = u.n && lines.contains v.line && v.ver.isNone))
        abortAll fuel s1 lid (rest ++ (later.map (fun (u : TaskRec) => (u.n, 0x043))))

/-- Abort of the records `ns` of a launch under event `ev`: 0x041 line, 0x042 external, 0x044
capacity, 0x045 software (R381, Table 21-6). -/
def abortTasks (s : State) (lid : Nat) (ns : List Nat) (ev : Nat) : State :=
  match s.launch? lid with
  | none => s
  | some l => abortAll (l.tasks.length * l.tasks.length + l.tasks.length + 1) s lid (ns.map (fun n => (n, ev)))

/-- Who performs a write at a home, for R378 and R379: a non-speculative task, a speculative task whose
write is held as a version, the device writing a task's versions into their lines (R380), or anything
else. -/
inductive Writer where
  | task (lid n : Nat)
  | version (lid n : Nat)
  | publish (lid : Nat)
  | other
  deriving DecidableEq, Repr

/-- The abort that a write causes of the task of one tracking mark: of a later task of the writer's
launch (R378), or of a task of another launch (R379). -/
def conflictMark (s : State) (w : Writer) (v : Version) : State :=
  let later (lid n : Nat) : State :=
    match (s.launch? lid).bind (·.task? n), (s.launch? lid).bind (·.task? v.n) with
    | some t, some u => if keyLt t.key u.key then abortTasks s lid [u.n] 0x041 else s
    | _, _ => s
  match w with
  | .task lid n => if v.lid = lid then later lid n else abortTasks s v.lid [v.n] 0x042
  | .version lid n => if v.lid = lid then later lid n else s
  | .publish lid => if v.lid = lid then s else abortTasks s v.lid [v.n] 0x042
  | .other => abortTasks s v.lid [v.n] 0x042

/-- The aborts a write to a line causes (R378, R379). -/
def conflict (s : State) (w : Writer) (line : Nat) : State :=
  (s.versions.filter (fun v => v.line = line && v.ver.isNone)).foldl (fun s v => conflictMark s w v) s

/-- The speculative task a context runs, if any: launch and sequence (R374). -/
def State.specTask (s : State) (c : Ctx) : Option (Nat × Nat) :=
  match c with
  | .sup _ _ => none
  | .grp bid g =>
    (s.block? bid).bind (fun b => (b.groups[g]?).bind (fun gr => gr.task.bind (fun n =>
      match (s.launch? b.lid).bind (·.task? n) with
      | some t => if t.ns then none else some (b.lid, n)
      | none => none)))

/-- Who a context writes as (R378, R379). -/
def State.writerOf (s : State) (c : Ctx) : Writer :=
  match c with
  | .sup _ _ => .other
  | .grp bid g =>
    match s.block? bid with
    | none => .other
    | some b => match (b.groups[g]?).bind (·.task) with
      | some n => .task b.lid n
      | none => .other

/-- The group's task finishes (R385, R391): its record waits to commit in the bank of the group's
cluster, and the group holds no task. -/
def State.finishTask (s : State) (bid g : Nat) : State :=
  match s.block? bid, (s.group? (.grp bid g)).bind (·.task) with
  | some b, some n =>
    let s1 := s.onLaunch b.lid (fun l => l.onTask n (fun t => { t with st := .finished (clusterOf b.unit), home := clusterOf b.unit }))
    s1.onGroup (.grp bid g) (fun x =>
      { x with
        lanes := x.lanes.map (fun l => { l with live := false })
        task := none, ts := 0, taskid := 0, spawnWait := false, freeSince := s.now, rep := none, repi := 0, hb := none })
  | _, _ => s

end Sys2Proof.Machine
end

