-- ==== Sys2Proof/Machine/Phys.lean ====
section
/-! DEFINITION. Memory as its home sees it and as DRAM holds it beneath a cached line, encryption (R203, R204), poison (R407,
R408), and the effects of a write performed at a home: watches (R352) and task conflicts (R378, R379). -/

namespace Sys2Proof.Machine

/-! ### Memory at its home -/

/-- The key of a slot; slot 0 has none (R203). -/
def State.key (s : State) (k : Nat) : Option (BitVec 512) := if k = 0 then none else Cells.find s.plat.keys k

/-- Slots `j` and `k` read alike: one slot, or one key (R204). -/
def State.sameKey (s : State) (j k : Nat) : Bool := j = k || s.key j = s.key k

/-- The stored plaintext of a line under the slot it was last written under. -/
def State.rawLine (s : State) (line : Nat) : BitVec 1024 := lineOf (Memory.readN s.mem (128 * line) 128)

/-- A line at its home as read under slot `k` (R204). -/
def State.lineUnder (s : State) (k line : Nat) : BitVec 1024 :=
  let j := Cells.get 0 s.keyOf line
  if s.sameKey j k then s.rawLine line else recrypt (s.key j) (s.key k) line (s.rawLine line)

/-- One byte at its home as read under slot `k` (R204). -/
def State.byteUnder (s : State) (k pa : Nat) : Byte :=
  if s.sameKey (Cells.get 0 s.keyOf (pa / 128)) k then Memory.read s.mem pa
  else lineByte (s.lineUnder k (pa / 128)) (pa % 128)

/-- `n` bytes at their homes as read under slot `k`. -/
def State.bytesUnder (s : State) (k pa : Nat) : Nat → List Byte
  | 0 => []
  | n + 1 => s.byteUnder k pa :: s.bytesUnder k (pa + 1) n

/-- The byte cells of a line: offsets 0 to 127 with its bytes. -/
def lineCells (d : BitVec 1024) : List (Nat × Byte) := (List.range 128).map (fun i => (i, lineByte d i))

/-- Bytes written into a line's stored plaintext. -/
def putCells (m : List Host.Cell) (line : Nat) (cs : List (Nat × Byte)) : List Host.Cell :=
  cs.foldl (fun m c => Memory.write m (128 * line + c.1) c.2) m

/-- A line's ciphertext under key `j` kept as what it reads as under key `k` (R204). -/
def State.turnLine (s : State) (j k : Option (BitVec 512)) (line : Nat) : State :=
  { s with mem := putCells s.mem line (lineCells (recrypt j k line (s.rawLine line))) }

/-- A line kept as its ciphertext, which slot 0 reads (R204). -/
def State.bareLine (s : State) (line : Nat) : State :=
  let t := s.turnLine (s.key (Cells.get 0 s.keyOf line)) none line
  { t with keyOf := Cells.put 0 t.keyOf line 0 }

/-- The cells cover all 128 bytes of a line (R408). -/
def coversLine (cs : List (Nat × Byte)) : Bool :=
  128 ≤ cs.length && (List.range 128).all (fun i => cs.any (fun c => c.1 = i))

/-- Bytes stored into a line under slot `k`: a line under another slot is converted first (R204); a
write of all 128 bytes clears its poison (R408). -/
def State.store (s : State) (k line : Nat) (cs : List (Nat × Byte)) : State :=
  let full := coversLine cs
  let s1 :=
    if s.sameKey (Cells.get 0 s.keyOf line) k || full then s
    else { s with mem := putCells s.mem line (lineCells (s.lineUnder k line)) }
  { s1 with
    mem := putCells s1.mem line cs
    keyOf := Cells.put 0 s1.keyOf line k
    poison := if full then s1.poison.filter (· != line) else s1.poison }

/-! ### Uncorrectable data (R407, R452) -/

/-- A record added to a die's error log, or counted lost (R452). -/
def State.logError (s : State) (die pa code cls : Nat) : State :=
  let e := Cells.get {} s.plat.elogs die
  let e' : ErrLog :=
    if (Cells.get (0, 0) e.recs e.idx).1 != 0 || (Cells.get (0, 0) e.recs e.idx).2 != 0 then
      { e with lost := min (e.lost + 1) (2 ^ 32 - 1) }
    else
      { e with
        recs := Cells.put (0, 0) e.recs e.idx (BitVec.ofNat 64 pa, BitVec.ofNat 64 (code + 256 * cls))
        idx := (e.idx + 1) % 63 }
  { s with plat := { s.plat with elogs := Cells.set s.plat.elogs die e' } }

/-- A 32-byte column of a line that DRAM cannot correct (R309). -/
def State.badColumn (s : State) (line : Nat) : Bool :=
  s.colErr.any (fun c => c / 4 = line)

/-- A line reads as uncorrectable at its home: poisoned, or not cached with a bad column beneath. -/
def State.homeBad (s : State) (line : Nat) : Bool :=
  s.poison.contains line || ((Cells.find s.l2 line).isNone && s.badColumn line)

/-- CLASS of a line's error: that of its lowest failing column, 01 where none is listed (R452, Table 16-6). -/
def State.lineClass (s : State) (line : Nat) : Nat :=
  match s.colErr.find? (fun c => c / 4 = line) with
  | some c => (Cells.get 1 s.colClass c).toNat
  | none => 1

/-- An uncorrectable line met at its home for launch `lid`: it is poisoned from then on, and the first agent to meet it,
`code`, makes one record and counts UCERR (R407). -/
def State.noteBad (s : State) (line code lid : Nat) : State :=
  let s1 := { s with poison := NatSet.insert s.poison line }
  if s.reported.contains line then s1
  else
    let d := s.homeDie (128 * line)
    { (s1.logError d (128 * line) code (s1.lineClass line)).pkgEvent 0x022 lid d with reported := NatSet.insert s.reported line }

/-! ### L2 and host-window line states (R261, R262, R433) -/

/-- What DRAM holds beneath a line, when the home caches it. -/
def State.beneath (s : State) (line : Nat) : L2Line :=
  match Cells.find s.l2 line with
  | some l => l
  | none =>
    { st := .cl, dram := s.rawLine line, dramKey := Cells.get 0 s.keyOf line
      dramPoison := s.poison.contains line }

/-- A line leaves its home L2: a line in DT is written to memory, any other dropped (R262). -/
def State.evictL2 (s : State) (line : Nat) : State :=
  match Cells.find s.l2 line with
  | none => s
  | some l =>
    let s1 := { s with l2 := Cells.erase s.l2 line }
    match l.st with
    | .dt => { s1 with colErr := s1.colErr.filter (fun c => c / 4 != line) }
    | _ =>
      { s1 with
        mem := putCells s1.mem line (lineCells l.dram)
        keyOf := Cells.put 0 s1.keyOf line l.dramKey
        poison := if l.dramPoison then NatSet.insert s1.poison line else s1.poison.filter (· != line) }

/-- A host-window line dropped by the bridge: halves in M reach host memory, poisoned when the line is, and a line that was
clean is the host's own again (R433). -/
def State.evictHost (s : State) (line : Nat) : State :=
  match Cells.find s.hostLines line with
  | none => s
  | some hl =>
    let dirty := (if hl.s0 = .m then [2 * line] else []) ++ (if hl.s1 = .m then [2 * line + 1] else [])
    { s with
      hostLines := Cells.erase s.hostLines line
      hostBad := if s.poison.contains line then NatSet.insertAll s.hostBad dirty else NatSet.removeAll s.hostBad dirty
      poison := s.poison.filter (· != line)
      reported := s.reported.filter (· != line) }

/-- A line takes room in the L2 of die `d`: it is homed there, or die `d` holds a clean copy (R191, R196). -/
def State.inL2 (s : State) (d line : Nat) (sharers : BitVec 4) : Bool := s.homeDie (128 * line) = d || sharers.getLsbD d

/-- The clean copy of a line that die `d` holds dropped. -/
def State.dropCopy (s : State) (d line : Nat) : State :=
  let out (b : BitVec 4) : BitVec 4 := b &&& ~~~((1 : BitVec 4) <<< d)
  { s with
    l2 := match Cells.find s.l2 line with | some l => Cells.set s.l2 line { l with sharers := out l.sharers } | none => s.l2
    hostLines := match Cells.find s.hostLines line with
      | some l => Cells.set s.hostLines line { l with sharers := out l.sharers }
      | none => s.hostLines }

/-- Room for one more line in the L2 of die `d`, whose lines the watch, version and migration tables leave (R14, R196): a
full L2 gives up its unlocked line of lowest address, then a host-window line that no watch needs (assumption 77). -/
def State.l2Room (s : State) (d : Nat) : State :=
  if s.l2.length + s.hostLines.length < Config.l2Lines then s
  else
    let mine := s.l2.filter (fun e => s.inL2 d e.1 e.2.sharers)
    let hosts := s.hostLines.filter (fun e => s.inL2 d e.1 e.2.sharers)
    if mine.length + hosts.length < Config.l2Lines then s
    else match mine.find? (fun e => e.2.st != .lk || s.homeDie (128 * e.1) != d) with
      | some e => if s.homeDie (128 * e.1) = d then s.evictL2 e.1 else s.dropCopy d e.1
      | none => match hosts.find? (fun e => d != 0 || !s.watches.any (fun w => w.w.pa / 128 = e.1)) with
        | some e => if d = 0 then s.evictHost e.1 else s.dropCopy d e.1
        | none => s

/-- Room for a clean copy of a line in the L2 of die `d`, unless it is the line's home or holds one. -/
def State.copyRoom (s : State) (d line : Nat) (sharers : BitVec 4) : State := if s.inL2 d line sharers then s else s.l2Room d

/-- A line held newer than memory under another key slot is written back under that slot before an access under slot `k`
(R204). -/
def State.settleKey (s : State) (k line : Nat) : State :=
  match Cells.find s.l2 line with
  | none => s
  | some l =>
    if l.st = .dt && !s.sameKey (Cells.get 0 s.keyOf line) k then
      { s with
        l2 := Cells.set s.l2 line { l with
          st := .cl, dram := s.rawLine line, dramKey := Cells.get 0 s.keyOf line, dramPoison := s.poison.contains line }
        colErr := s.colErr.filter (fun c => c / 4 != line) }
    else s

/-- A line of HBM or the second tier brought into its home L2 by a read from die `d`, which holds a clean copy from then on unless
it is the home (R261). -/
def State.touchL2 (s : State) (line d : Nat) : State :=
  let home := s.homeDie (128 * line)
  let s0 := if (Cells.find s.l2 line).isSome then s else s.l2Room home
  let s1 := s0.copyRoom d line ((Cells.find s0.l2 line).getD (s0.beneath line)).sharers
  let l := s1.beneath line
  let l' := { l with sharers := if d = home then l.sharers else l.sharers ||| ((1 : BitVec 4) <<< d) }
  { s1 with l2 := Cells.set s1.l2 line l' }

/-- A line of HBM or the second tier made newer than memory at its home, its remote copies gone. -/
def State.dirtyL2 (s : State) (line : Nat) : State :=
  let s1 := if (Cells.find s.l2 line).isSome then s else s.l2Room (s.homeDie (128 * line))
  let l := s1.beneath line
  { s1 with l2 := Cells.set s1.l2 line { l with st := (if l.st = .lk then .lk else .dt), sharers := 0 } }

/-- The host gives up the written halves of a line (R434). -/
def State.hostLoses (s : State) (line : Nat) (cs : List (Nat × Byte)) : State :=
  match Cells.find s.l2 line with
  | none => s
  | some l =>
    if l.hostHalves = 0 then s
    else
      let lost : BitVec 2 := (if cs.any (fun c => c.1 < 64) then 1 else 0) ||| (if cs.any (fun c => 64 ≤ c.1) then 2 else 0)
      { s with l2 := Cells.set s.l2 line { l with hostHalves := l.hostHalves &&& ~~~lost } }

/-- Half `h` of a line. -/
def halfOf (d : BitVec 1024) (h : Nat) : BitVec 512 := d.extractLsb' (512 * h) 512

/-- Who a read at a home serves: its launch (0 when it is the device's own), the die it comes from, its key slot, whether it
fills an L1, and whether it is an atomic's. -/
structure Reader where
  lid : Nat := 0
  die : Nat := 0
  key : Nat := 0
  fill : Bool := false
  atomic : Bool := false
  deriving DecidableEq, Repr

/-- Half `h` of a line as the bridge holds it. -/
def HostLine.half (l : HostLine) (h : Nat) : HalfSt := if h = 0 then l.s0 else l.s1

/-- Half `h` of a line in a state, above what the host has. -/
def HostLine.setHalf (l : HostLine) (h : Nat) (st : HalfSt) (d : BitVec 512) : HostLine :=
  if h = 0 then { l with s0 := st, h0 := d } else { l with s1 := st, h1 := d }

/-- What host memory holds beneath half `h` of a line. -/
def HostLine.beneath (l : HostLine) (h : Nat) : BitVec 512 := if h = 0 then l.h0 else l.h1

/-- A host-window line that the bridge holds, with room made for it (R196). -/
def State.hostLine (s : State) (line : Nat) : State × HostLine :=
  match Cells.find s.hostLines line with
  | some l => (s, l)
  | none => (s.l2Room 0, {})

/-- Half `h` of a host-window line brought to the device in a state by a request to the host, which serves a half in I, or in S
when it is to be owned; a half that the host returns poisoned poisons the line (R433, Table 20-4). -/
def State.askHalf (s : State) (line h : Nat) (st : HalfSt) : State :=
  let (s1, hl) := s.hostLine line
  let d := if hl.half h = .i then halfOf (s1.rawLine line) h else hl.beneath h
  { s1 with
    hostLines := Cells.set s1.hostLines line (hl.setHalf h st d)
    poison := if s1.hostBad.contains (2 * line + h) then NatSet.insert s1.poison line else s1.poison }

/-- Half `h` of a host-window line fetched in S when the device does not hold it (R433). -/
def State.fetchHalf (s : State) (line h : Nat) : State :=
  if (Cells.get {} s.hostLines line).half h = .i then s.askHalf line h .s else s

/-- Half `h` of a host-window line owned and modified: RdOwn when it is in I or S (R433). -/
def State.ownHalf (s : State) (line h : Nat) : State :=
  let hl := Cells.get {} s.hostLines line
  match hl.half h with
  | .i | .s => s.askHalf line h .m
  | _ => { s with hostLines := Cells.set s.hostLines line (hl.setHalf h .m (hl.beneath h)) }

/-- The clean copies that other dies hold of a host-window line go (R261, R433). -/
def State.soleHost (s : State) (line : Nat) : State :=
  match Cells.find s.hostLines line with
  | none => s
  | some l => { s with hostLines := Cells.set s.hostLines line { l with sharers := 0 } }

/-- A read of byte `pa` of a host-window line at the bridge (Table 20-4): both halves in I are fetched; with one valid, a
fill of an L1 or of a remote L2 fetches the other, and so does a read of a byte of the other. An atomic owns its own half. -/
def State.shareHost (s : State) (r : Reader) (pa : Nat) : State :=
  let line := pa / 128
  if r.atomic then (s.ownHalf line (pa / 64 % 2)).soleHost line
  else
    let hl := Cells.get {} s.hostLines line
    let both : Bool := (hl.s0 = .i && hl.s1 = .i) || r.fill || r.die != 0
    let s1 := if both then (s.fetchHalf line 0).fetchHalf line 1 else s.fetchHalf line (pa / 64 % 2)
    if r.die = 0 then s1
    else
      let s2 := s1.copyRoom r.die line (Cells.get {} s1.hostLines line).sharers
      let hl1 := Cells.get {} s2.hostLines line
      { s2 with hostLines := Cells.set s2.hostLines line { hl1 with sharers := hl1.sharers ||| ((1 : BitVec 4) <<< r.die) } }

/-- The written halves of a host-window line owned and modified (R433). -/
def State.ownHost (s : State) (line : Nat) (cs : List (Nat × Byte)) : State :=
  let s1 := if cs.any (fun c => c.1 < 64) then s.ownHalf line 0 else s
  let s2 := if cs.any (fun c => 64 ≤ c.1) then s1.ownHalf line 1 else s1
  s2.soleHost line

/-! ### Watches (R352, R354) -/

/-- A comparison of R113 on the low `w` bits of an element and an operand (Table 17-3, R156). -/
def cmpHolds (cc : Cmp) (w e v : Nat) : Bool :=
  let e := e % 2 ^ w
  let v := v % 2 ^ w
  match cc with
  | .eq => e = v
  | .ne => e != v
  | .lt => signedOf w e < signedOf w v
  | .le => signedOf w e ≤ signedOf w v
  | .gt => signedOf w v < signedOf w e
  | .ge => signedOf w v ≤ signedOf w e
  | .ltn => e < v
  | .len => e ≤ v
  | .gtn => v < e
  | .gen => v ≤ e
  | .any => e &&& v != 0
  | .all => e &&& v = v

/-- The condition of a watch on the element its home holds. -/
def State.watchMet (s : State) (w : WatchReq) : Bool :=
  let n := if w.wide then 8 else 4
  cmpHolds w.cc (8 * n) (leNat (s.bytesUnder w.key w.pa n)) w.v.toNat

/-- The context that a command belongs to: a group of a block, or, for block 0, a supervisor slot. -/
def ownerCtx (bid g : Nat) : Ctx := if bid = 0 then .sup (g / 4) (g % 4) else .grp bid g

/-- The block and group numbers by which a context's commands are kept. -/
def cmdOwner : Ctx → Nat × Nat
  | .grp bid g => (bid, g)
  | .sup u sc => (0, 4 * u + sc)

/-- The state with a group changed, resident or in a suspended image (R357). -/
def State.onGroupAny (s : State) (bid g : Nat) (f : Group → Group) : State :=
  let s1 := s.onGroup (ownerCtx bid g) f
  { s1 with images := s1.images.map (fun im =>
      if im.block.bid = bid then { im with block := { im.block with groups := modifyAt im.block.groups g f } }
      else im) }

/-- HSTAT (Table 17-4). -/
def hstatOf (st : Nat) (spill : Bool) (cause : Nat) : BitVec 32 :=
  BitVec.ofNat 32 (st + (if spill then 256 else 0) + cause * 2 ^ 24)

/-- A `hold` completes: HSTAT is written, the run moves on, and the acquire at its scope comes before
the next issue (R258). -/
def Group.endHold (g : Group) (sys : Bool) (h : BitVec 32) : Group :=
  { g.advance g.run with hstat := h, hold := .acquire (if sys then .sys else .dev) }

/-- The bucket of a line in a watch table (R356). -/
def watchBucket (pa : Nat) : Nat := (pa / 128 % 4096) ^^^ (pa / 2 ^ 19 % 4096)

/-- Entries on chip in a bucket of a die's table. -/
def onChipIn (ws : List Watch) (d b : Nat) : Nat :=
  (ws.filter (fun x => x.die = d && !x.spilled && watchBucket x.w.pa = b)).length

/-- The oldest spilled entries of each bucket return on chip while it has room, as far as the overflow list's traffic may go
(R356, R454). -/
def State.refillWatches (s : State) : State :=
  (s.watches.filter (·.spilled)).foldl (fun s x =>
    if onChipIn s.watches x.die (watchBucket x.w.pa) < 8 then
      match s.paced 3 x.die 64 with
      | some s1 => { s1 with watches := s1.watches.map (fun y => if y.seq = x.seq then { y with spilled := false } else y) }
      | none => s
    else s) s

/-- The watch entries that satisfy `p` removed, with no end reported (R357, R381, R400). -/
def dropWatchesOf (s : State) (p : Nat → Nat → Bool) : State :=
  if s.watches.any (fun w => p w.bid w.g) then { s with watches := s.watches.filter (fun w => !p w.bid w.g) }.refillWatches
  else s

/-- Two blocks of one cluster (R46). -/
def Block.mates (a b : Block) : Bool := a.lid = b.lid && a.stage = b.stage && a.cidx = b.cidx && isRoot a.unit = isRoot b.unit

/-- An end reaches a saved context: its cluster is ready to be restored, which is the scheduler's event (R357). -/
def State.readyImage (s : State) (bid : Nat) : State :=
  match s.images.find? (fun im => im.block.bid = bid) with
  | none => s
  | some i => { s with images := s.images.map (fun im => if im.block.mates i.block then { im with ready := true } else im) }

/-- An entry ends: it is removed, the oldest spilled entry of its bucket returns on chip, and its
group completes its `hold` (R354, R356, R357). -/
def State.endWatch (s : State) (w : Watch) (st cause : Nat) : State :=
  match s.watches.find? (fun x => x.seq = w.seq) with
  | none => s
  | some w =>
    let s1 := { s with watches := s.watches.filter (fun x => x.seq != w.seq) }.refillWatches
    (s1.onGroupAny w.bid w.g (fun g => g.endHold w.w.sys (hstatOf st w.everSpilled cause))).readyImage w.bid

/-- The entries of some watches evaluated after a write to their line (R352). -/
def State.evalWatches (s : State) : List Watch → State
  | [] => s
  | w :: r =>
    let s1 :=
      if s.poison.contains (w.w.pa / 128) then s.endWatch w 5 0x0B
      else if s.watchMet w.w then s.endWatch w 2 0
      else s
    s1.evalWatches r

/-- Every entry of a line evaluated (R352). -/
def State.evalLine (s : State) (line : Nat) : State := s.evalWatches (s.watches.filter (fun x => x.w.pa / 128 = line))

/-! ### Operations performed at a home -/

/-- The launch a writer writes for, 0 for the device's own. -/
def Writer.lid : Writer → Nat
  | .task lid _ | .version lid _ | .publish lid => lid
  | .other => 0

/-- The line's place in its home's caches for a write of some cells (R204, R261, R433, R434). -/
def State.writeState (s : State) (k line : Nat) (cs : List (Nat × Byte)) : State :=
  let pa := 128 * line
  if isHostWin pa then (if s.port = .cxl then s.ownHost line cs else s)
  else if isPeerWin pa then s
  else ((s.settleKey k line).dirtyL2 line).hostLoses line cs

/-- A write of part of a line that the home finds uncorrectable, which it merges: the error is recorded, and the line stays
poisoned (R407, R408). -/
def State.mergeBad (s : State) (w : Writer) (line : Nat) (cs : List (Nat × Byte)) : State :=
  if s.homeBad line && !coversLine cs then s.noteBad line 3 w.lid else s

/-- A write to a line at its home (R261): the bytes, the line states, an error it meets and the conflicts. -/
def State.homePut (s : State) (w : Writer) (k line : Nat) (cs : List (Nat × Byte)) : State :=
  let s0 := s.mergeBad w line cs
  let s1 := (s0.writeState k line cs).mergeBad w line cs
  let s2 := s1.store k line cs
  let s3 := if coversLine cs then { s2 with reported := s2.reported.filter (· != line) } else s2
  conflict s3 w line

/-- A line made poisoned by a write that carries poison (R286, R407). -/
def State.poisonLine (s : State) (line : Nat) : State :=
  { s with poison := NatSet.insert s.poison line, reported := NatSet.insert s.reported line }.evalLine line

/-- A read of an address at its home: the line's place in the L2 or the bridge, and the record of an error; an atomic's leaves no
copy on another die (R261, R262, R407, R433). -/
def State.homeSee (s : State) (r : Reader) (pa : Nat) : State :=
  let line := pa / 128
  if isHostWin pa then
    let s1 := if s.port = .cxl then s.shareHost r pa else s
    if s1.poison.contains line then s1.noteBad line 3 r.lid else s1
  else if isHbm pa || isSecondTier pa then
    let s1 := s.settleKey r.key line
    let s2 := s1.touchL2 line (if r.atomic then s.homeDie pa else r.die)
    if s1.homeBad line then s2.noteBad line 3 r.lid else s2
  else s

/-- The cells of bytes from address `pa`, split by line. -/
def cellsByLine (pa : Nat) (bs : List Byte) : List (Nat × List (Nat × Byte)) :=
  let n := bs.length
  let first := pa / 128
  let count := if n = 0 then 0 else (pa + n - 1) / 128 - first + 1
  (List.range count).map (fun i =>
    (first + i, ((bs.zipIdx).filter (fun b => (pa + b.2) / 128 = first + i)).map (fun b => ((pa + b.2) % 128, b.1))))

/-! ### Migration on first touch (R201, R202) -/

/-- The migration-table entry whose new frame holds an address. -/
def State.migOf (s : State) (pa : Nat) : Option Migration :=
  s.migs.find? (fun m => m.newPa ≤ pa && pa < m.newPa + m.size)

/-- A line of a new frame marked filled. -/
def State.markFilled (s : State) (newPa line : Nat) : State :=
  { s with migs := s.migs.map (fun m =>
      if m.newPa = newPa then { m with filled := NatSet.insert m.filled (line - newPa / 128) } else m) }

/-- The leaves that map a page of a size from the leaf at `pa` up: sixteen for a 64 KiB group (R186, R201). -/
def migLeaves (m : Migration) : List Nat := (List.range (if m.size = 0x10000 then 16 else 1)).map (fun i => m.leafPa + 8 * i)

/-- The key slot a page in migration is mapped under. -/
def State.migKey (s : State) (m : Migration) : Nat := field (leNat (s.bytesUnder 0 m.leafPa 8)) 52 10

/-- A line of a new frame written from its old frame, a bad old line poisoned (R202). -/
def State.copyLine (s : State) (m : Migration) (line old : Nat) : State :=
  let k := s.migKey m
  let s1 := s.homeSee { die := m.die, key := k } (128 * old)
  let s2 := s1.homePut .other k line (lineCells (s1.lineUnder k old))
  (if s1.homeBad old then s2.poisonLine line else s2.evalLine line).markFilled m.newPa line

/-- MIG cleared in a leaf (R202). -/
def State.clearMig (s : State) (pa : Nat) : State :=
  (s.homePut .other 0 ((pa + 7) / 128) [((pa + 7) % 128, s.byteUnder 0 (pa + 7) &&& 0x7F)]).evalLine (pa / 128)

/-- First touch of a line, of a page in migration or not, before any access is performed on it at its new home (R202): it is
filled from its old frame, or by a write of the whole line without a fetch; when every line of its page is filled, MIG is cleared
at its leaves, its entry goes, and the supervisor is signalled. What this reads and writes is touched first in its turn, at most
once for each entry of the tables. -/
def State.touchUpTo : Nat → Nat → Bool → State → State
  | 0, _, _, s => s
  | n + 1, line, whole, s =>
    match s.migOf (128 * line) with
    | none => s
    | some m =>
      if m.filled.contains (line - m.newPa / 128) then s
      else
        let old := m.oldPa / 128 + (line - m.newPa / 128)
        let s1 := if whole then s.markFilled m.newPa line
          else (State.touchUpTo n old false (State.touchUpTo n (m.leafPa / 128) false s)).copyLine m line old
        match s1.migs.find? (fun x => x.newPa = m.newPa) with
        | none => s1
        | some x =>
          if x.filled.length * 128 < x.size then s1
          else
            let s2 := { s1 with migs := s1.migs.filter (fun y => y.newPa != m.newPa) }
            let s3 := (migLeaves m).foldl (fun s pa => (State.touchUpTo n (pa / 128) false s).clearMig pa) s2
            s3.notifySup (s3.dieSupervisor m.die) 0 3

/-- First touch of a line (R202). -/
def State.firstTouch (s : State) (line : Nat) (whole : Bool) : State := State.touchUpTo s.migs.length line whole s

/-- First touch of every line of `n` bytes from `pa`, whole lines when they are written whole (R202). -/
def State.firstTouchAll (s : State) (pa n : Nat) (whole : Bool) : State :=
  if s.migs.isEmpty || n = 0 then s
  else (List.range ((pa + n - 1) / 128 - pa / 128 + 1)).foldl (fun s i => s.firstTouch (pa / 128 + i) whole) s

/-! ### Reads and writes at a home -/

/-- A write performed at a line's home (R261): first touch, the bytes, and the watches of the line (R352). -/
def State.homeWrite (s : State) (w : Writer) (k line : Nat) (cs : List (Nat × Byte)) : State :=
  if cs.isEmpty then s else ((s.firstTouch line (coversLine cs)).homePut w k line cs).evalLine line

/-- A write performed at a line's home that leaves the line poisoned (R286, R407). -/
def State.homeWriteBad (s : State) (w : Writer) (k line : Nat) (cs : List (Nat × Byte)) : State :=
  if cs.isEmpty then s else ((s.firstTouch line (coversLine cs)).homePut w k line cs).poisonLine line

/-- Bytes written at their homes from address `pa`, line by line. -/
def State.homeWriteBytes (s : State) (w : Writer) (k pa : Nat) (bs : List Byte) : State :=
  (cellsByLine pa bs).foldl (fun s l => s.homeWrite w k l.1 l.2) s

/-- A read performed at a home, after the first touch of its line (R202, R261). -/
def State.homeTouch (s : State) (r : Reader) (pa : Nat) : State := (s.firstTouch (pa / 128) false).homeSee r pa

/-! ### DRAM beneath the home (R308, R309) -/

/-- First touch of a line by an access at the pseudo-channel: an unfilled line of a frame in migration is filled, and its home gives it
up to the frame (R202, R308). -/
def State.dramTouch (s : State) (line : Nat) (whole : Bool) : State :=
  match s.migOf (128 * line) with
  | some m => if m.filled.contains (line - m.newPa / 128) then s else (s.firstTouch line whole).evictL2 line
  | none => s

/-- First touch of every line of `n` bytes from `pa`, before they are read at the pseudo-channel. -/
def State.dramTouchAll (s : State) (pa n : Nat) : State :=
  if s.migs.isEmpty || n = 0 then s
  else (List.range ((pa + n - 1) / 128 - pa / 128 + 1)).foldl (fun s i => s.dramTouch (pa / 128 + i) false) s

/-- One byte as the pseudo-channel holds it, under slot `k`. -/
def State.dramByte (s : State) (k pa : Nat) : Byte :=
  match Cells.find s.l2 (pa / 128) with
  | none => s.byteUnder k pa
  | some l =>
    if s.sameKey l.dramKey k then lineByte l.dram (pa % 128)
    else lineByte (recrypt (s.key l.dramKey) (s.key k) (pa / 128) l.dram) (pa % 128)

/-- `n` bytes as the pseudo-channel holds them. -/
def State.dramBytes (s : State) (k pa : Nat) : Nat → List Byte
  | 0 => []
  | n + 1 => s.dramByte k pa :: s.dramBytes k (pa + 1) n

/-- A byte the pseudo-channel cannot correct: its 32-byte column, or a poisoned line beneath. -/
def State.dramBad (s : State) (pa : Nat) : Bool :=
  s.colErr.contains (pa / 32) ||
    (match Cells.find s.l2 (pa / 128) with
      | none => s.poison.contains (pa / 128)
      | some l => l.dramPoison)

/-- Cells of a line, touched first, written at the pseudo-channel under slot `k`; a column written whole loses its
error, and a line written whole its poison (R309, R408). -/
def State.dramPut (s0 : State) (k line : Nat) (cs : List (Nat × Byte)) : State :=
  let s := s0.dramTouch line (coversLine cs)
  let colFull (c : Nat) : Bool := (List.range 32).all (fun i => cs.any (fun x => x.1 = 32 * c + i))
  let s1 := { s with colErr := s.colErr.filter (fun c => !(c / 4 = line && colFull (c % 4))) }
  match Cells.find s1.l2 line with
  | none =>
    let s2 := s1.store k line cs
    if coversLine cs then { s2 with reported := s2.reported.filter (· != line) } else s2
  | some l =>
    let base := if s1.sameKey l.dramKey k then l.dram else recrypt (s1.key l.dramKey) (s1.key k) line l.dram
    let l' : L2Line :=
      { l with
        dram := cs.foldl (fun d c => setLineByte d c.1 c.2) base
        dramKey := k
        dramPoison := l.dramPoison && !coversLine cs }
    { s1 with l2 := Cells.set s1.l2 line l' }

/-- Cells of a line written at the pseudo-channel that leave what is there uncorrectable (R286). -/
def State.dramPutBad (s : State) (k line : Nat) (cs : List (Nat × Byte)) : State :=
  let s1 := s.dramPut k line cs
  { s1 with colErr := NatSet.insertAll s1.colErr ((cs.map (fun c => 4 * line + c.1 / 32)).eraseDups) }

/-- Bytes written at the pseudo-channel from address `pa`. -/
def State.dramWriteBytes (s : State) (k pa : Nat) (bs : List Byte) : State :=
  (cellsByLine pa bs).foldl (fun s l => s.dramPut k l.1 l.2) s

/-! ### L1 (R195) -/

/-- The offsets of a line's written bytes, with the bytes. -/
def L1Line.dirtyCells (l : L1Line) : List (Nat × Byte) :=
  ((List.range 128).filter (fun i => l.mask.getLsbD i)).map (fun i => (i, lineByte l.data i))

/-- The dirty bytes of an L1 line written back to its home, poisoned when the copy is; the line stays, clean (R195, R217,
R407). Nothing leaves a core of a dead crown die, which has halted (R448). -/
def State.l1WriteBack (s : State) (core line : Nat) : State :=
  match Cells.find (s.proc core).l1 line with
  | none => s
  | some l =>
    if l.mask = 0 || !s.dieAlive (dieOf core) then s
    else
      let s1 := s.onProc core (fun p => { p with l1 := Cells.set p.l1 line { l with mask := 0 } })
      if l.poison then s1.homeWriteBad .other l.key line l.dirtyCells else s1.homeWrite .other l.key line l.dirtyCells

/-- A line dropped from an L1. -/
def State.l1Drop (s : State) (core line : Nat) : State :=
  s.onProc core (fun p => { p with l1 := Cells.erase p.l1 line })

/-- Every dirty line of a core's L1 written back (Table 12-4). -/
def State.l1Clean (s : State) (core : Nat) : State :=
  ((s.proc core).l1.map (·.1)).foldl (fun s l => s.l1WriteBack core l) s

/-- Every line of a core's L1 written back and invalidated (Table 12-4). -/
def State.l1Flush (s : State) (core : Nat) : State :=
  (s.l1Clean core).onProc core (fun p => { p with l1 := [] })

/-- Lines of an L1 of 512 KiB (R14). -/
def l1Lines : Nat := 4096

/-- The least recently used line of an L1; `.strm` lines come first (R206, assumption 77). -/
def leastUsed : Cells L1Line → Option (Nat × Nat)
  | [] => none
  | (k, l) :: r =>
    match leastUsed r with
    | none => some (k, l.used)
    | some (k', u) => if l.used ≤ u then some (k, l.used) else some (k', u)

/-- Room for one more line in a core's L1: a full L1 writes back and drops its least recently used line (R14, R195). -/
def State.l1Room (s : State) (core : Nat) : State :=
  if (s.proc core).l1.length < l1Lines then s
  else match leastUsed (s.proc core).l1 with
    | some (v, _) => (s.l1WriteBack core v).l1Drop core v
    | none => s

/-- A line placed in a core's L1 as its most recently used, or, under `.strm`, its least (R206). -/
def Proc.l1Put (p : Proc) (line : Nat) (strm : Bool) (l : L1Line) : Proc :=
  { p with l1Seq := p.l1Seq + 1, l1 := Cells.set p.l1 line { l with used := if strm then 0 else p.l1Seq + 1 } }

/-- The core's copy of a line for a reader, filled from its home when it has none; a copy under another slot is written
back first (R195, R204). -/
def State.l1Fill (s : State) (core : Nat) (r : Reader) (line : Nat) (strm : Bool) : State × L1Line :=
  match (Cells.find (s.proc core).l1 line).filter (fun l => l.key = r.key) with
  | some l => (s.onProc core (fun p => p.l1Put line strm l), l)
  | none =>
    let s1 := ((s.l1WriteBack core line).l1Drop core line).l1Room core
    let s2 := s1.homeTouch { r with fill := true } (128 * line)
    let l : L1Line := { data := s2.lineUnder r.key line, key := r.key, poison := s2.homeBad line }
    (s2.onProc core (fun p => p.l1Put line strm l), l)

/-- The least recently written dirty line of a core's L1. -/
def oldestDirty : Cells L1Line → Option (Nat × Nat)
  | [] => none
  | (k, l) :: r =>
    match oldestDirty r with
    | none => if l.mask = 0 then none else some (k, l.seq)
    | some (k', q) => if l.mask != 0 && l.seq ≤ q then some (k, l.seq) else some (k', q)

/-- Bytes written into a core's L1 copy of a line (R195, R211, R408). -/
def State.l1Write (s : State) (core : Nat) (r : Reader) (line : Nat) (strm : Bool) (cs : List (Nat × Byte)) : State :=
  if cs.isEmpty then s
  else
    let (s1, l) := s.l1Fill core r line strm
    let dirty := ((s1.proc core).l1.filter (fun x => x.2.mask != 0)).length
    let s2 :=
      if l.mask = 0 && 1024 ≤ dirty then
        match oldestDirty (s1.proc core).l1 with
        | some (v, _) => s1.l1WriteBack core v
        | none => s1
      else s1
    s2.onProc core (fun p =>
      let mask := cs.foldl (fun m c => m ||| ((1 : BitVec 128) <<< c.1)) l.mask
      p.l1Put line strm
        { data := cs.foldl (fun d c => setLineByte d c.1 c.2) l.data
          mask := mask, key := r.key, poison := l.poison && mask != BitVec.allOnes 128, seq := p.l1Seq + 1 })

/-- An L1's check fails for a line it holds: the core makes the record in its die's log, and the copy is poisoned (R407). -/
def State.spoilL1 (s : State) (core line : Nat) : State :=
  match Cells.find (s.proc core).l1 line with
  | none => s
  | some l =>
    if l.poison then s
    else
      let s1 := s.onProc core (fun p => { p with l1 := Cells.set p.l1 line { l with poison := true } })
      (s1.logError (dieOf core) (128 * line) 1 1).pkgEvent 0x022 0 (dieOf core)

/-! ### On-chip stores (R192 to R194, R286) -/

/-- Bytes of a scratchpad or of local SRAM. -/
def Proc.spRead (p : Proc) (off n : Nat) : List Byte := Memory.readN p.sp off n

/-- The granules of `n` bytes from `off`. -/
def granulesOf (off n : Nat) : List Nat :=
  if n = 0 then [] else (List.range ((off + n - 1) / 16 - off / 16 + 1)).map (fun i => off / 16 + i)

/-- The granules that `n` bytes from `off` cover whole. -/
def wholeGranules (off n : Nat) : List Nat :=
  (granulesOf off n).filter (fun g => off ≤ 16 * g && 16 * g + 16 ≤ off + n)

/-- Bytes written to a scratchpad: a granule written whole loses its poison mark (R286); `full`
sets the granules full (R193). -/
def Proc.spWrite (p : Proc) (off : Nat) (bs : List Byte) (full : Bool) : Proc :=
  { p with
    sp := Memory.writeN p.sp off bs
    spPoison := NatSet.removeAll p.spPoison (wholeGranules off bs.length)
    full := if full then NatSet.insertAll p.full (granulesOf off bs.length) else p.full }

/-- A read of `n` bytes from `off` meets a marked granule (R286). -/
def Proc.spBad (p : Proc) (off n : Nat) : Bool := (granulesOf off n).any p.spPoison.contains

/-- The lowest marked granule of `n` bytes from `off`. -/
def Proc.spBadAt (p : Proc) (off n : Nat) : Option Nat := (granulesOf off n).find? p.spPoison.contains

/-- The granules of a range marked poisoned (R286). -/
def Proc.spMark (p : Proc) (off n : Nat) : Proc := { p with spPoison := NatSet.insertAll p.spPoison (granulesOf off n) }

/-- Bytes of an accumulator store. -/
def Proc.accRead (p : Proc) (off n : Nat) : List Byte := Memory.readN p.acc off n

/-- Bytes written to an accumulator store (R274, R286). -/
def Proc.accWrite (p : Proc) (off : Nat) (bs : List Byte) : Proc :=
  { p with
    acc := Memory.writeN p.acc off bs
    accPoison := NatSet.removeAll p.accPoison (wholeGranules off bs.length) }

/-- The lowest marked granule of `n` accumulator bytes from `off`. -/
def Proc.accBadAt (p : Proc) (off n : Nat) : Option Nat := (granulesOf off n).find? p.accPoison.contains

end Sys2Proof.Machine
end

