-- ==== Sys2Proof/Machine/Xlate.lean ====
section
/-! DEFINITION. Translation (R182 to R189): walks, leaf checks, the TLBs, the configuration page of
R76, and migration on first touch (R201, R202). -/

namespace Sys2Proof.Machine

/-- What an access asks of its translation (Table 11-4): a `hold` is checked as a write, except
check 8 (R350). -/
inductive AccKind where
  | read | write | fetch | watch
  deriving DecidableEq, Repr

/-- The context an access is translated for (R182). -/
structure XCtx where
  lid : Nat
  ptroot : W64
  keyslot : Nat
  sup : Bool
  cfgmap : Bool
  /-- the unit whose TLBs hold the translation; none for the arbiter and the device itself -/
  unit : Option Nat := none
  deriving DecidableEq, Repr

/-- A translation: the physical address and the leaf (Table 11-3). -/
structure Xl where
  pa : Nat
  leaf : W64
  deriving DecidableEq, Repr

/-- KEY of a leaf. -/
def leafKey (l : W64) : Nat := field l.toNat 52 10
/-- MIG of a leaf. -/
def leafMig (l : W64) : Bool := l.getLsbD 63
/-- D of a leaf. -/
def leafDirty (l : W64) : Bool := l.getLsbD 11
/-- A of a leaf. -/
def leafAcc (l : W64) : Bool := l.getLsbD 10
/-- G of a leaf. -/
def leafGlobal (l : W64) : Bool := l.getLsbD 8
/-- NB of a leaf. -/
def leafNb (l : W64) : Bool := l.getLsbD 6
/-- PIN of a leaf. -/
def leafPin (l : W64) : Bool := l.getLsbD 7
/-- SC of a leaf (R198). -/
def leafSc (l : W64) : Bool := l.getLsbD 5
/-- STB of a leaf (R199). -/
def leafStb (l : W64) : Bool := l.getLsbD 4
/-- U of a leaf. -/
def leafUser (l : W64) : Bool := l.getLsbD 3
/-- X of a leaf. -/
def leafExec (l : W64) : Bool := l.getLsbD 2
/-- W of a leaf. -/
def leafWrite (l : W64) : Bool := l.getLsbD 1
/-- The page base of a leaf. -/
def leafBase (l : W64) : Nat := field l.toNat 12 40 * 4096

/-- R182. -/
def canonical (va : W64) : Bool := field va.toNat 57 7 = (if va.getLsbD 56 then 127 else 0)

/-- The bytes of a page at a leaf's level (Table 11-1). -/
def pageBytes (level : Nat) : Nat := 2 ^ (12 + 9 * (level - 1))

/-- A leaf that breaks R185 at its level. -/
def leafMalformed (level : Nat) (l : W64) : Bool :=
  leafBase l % pageBytes level != 0
    || (l.getLsbD 9 && level != 1)
    || (leafNb l && (level != 2 || !isHbm (leafBase l) || !leafPin l || leafKey l != 0))
    || (leafMig l && leafPin l)

/-- A table entry that breaks Table 11-2. -/
def tableMalformed (l : W64) : Bool :=
  l.getLsbD 63 || field l.toNat 52 10 != 0 || field l.toNat 1 11 != 0

/-- How a walk ended: a leaf with its address and level, or a cause (R188). -/
abbrev WalkEnd := Except Nat (W64 × Nat × Nat)

/-- An entry may be read there (check 2 of Table 11-4). -/
def State.walkable (s : State) (pa : Nat) : Bool :=
  match s.spot pa with
  | .memory _ | .host | .peer _ => true
  | _ => false

/-- Sixteen level-1 entries form a well-formed 64 KiB group (R186). -/
def contGroup (es : List W64) : Bool :=
  let e0 := takeAt 0 es 0
  (List.range 16).all (fun i =>
    let e := takeAt 0 es i
    e.getLsbD 9 && field e.toNat 52 12 = field e0.toNat 52 12 && field e.toNat 0 10 = field e0.toNat 0 10
      && leafBase e = leafBase e0 + 4096 * i)

/-- The entry of member `i` of a group as it maps page `j` of the group (R186). -/
def movedLeaf (e : W64) (i j : Nat) : W64 :=
  BitVec.ofNat 64 (field e.toNat 0 12 + 4096 * ((field e.toNat 12 40 + 2 ^ 40 + j - i) % 2 ^ 40) + 2 ^ 52 * field e.toNat 52 12)

/-- The entry that translates a page whose own level-1 entry is `e` at `pa` (R186): `e`, unless a member of its group has CONT = 1
and the group is not well formed; then a free choice of `e` and those members (log entry 15). A well-formed group is taken page
by page (assumption 115). -/
def State.contEntry (s : State) (pa : Nat) (e : W64) : State × W64 × Nat :=
  let base := pa - pa % 128
  let conts := (List.range 16).filter (fun i => (s.byteUnder 0 (base + 8 * i + 1)).getLsbD 1)
  if conts.isEmpty then (s, e, pa)
  else
    let es : List W64 := (List.range 16).map (fun i => BitVec.ofNat 64 (leNat (s.bytesUnder 0 (base + 8 * i) 8)))
    if contGroup es then (s, e, pa)
    else
      let k := (Config.freeBits s.fresh).toNat % (conts.length + 1)
      let s1 := { s with fresh := s.fresh + 1 }
      if k = 0 then (s1, e, pa)
      else
        let i := takeAt 0 conts (k - 1)
        (s1, movedLeaf (takeAt 0 es i) i (pa % 128 / 8), base + 8 * i)

/-- The walk from a node at `level` (R183) for launch `lid`, with checks 2 to 4 of Table 11-4: an entry is read at its home
under slot 0 (R196, R204), and a check of a lower row that a deeper entry breaks comes before a malformed table entry above it (R188). -/
def State.walk (s : State) (lid : Nat) (va : W64) : Nat → Nat → State × WalkEnd
  | 0, _ => (s, .error 0x0A)
  | level + 1, node =>
    let pa := node + 8 * field va.toNat (12 + 9 * level) 9
    if !s.walkable pa then (s, .error 0x0A)
    else
      let s := s.homeTouch { lid, die := s.homeDie pa } pa
      if s.homeBad (pa / 128) then (s, .error 0x0B)
      else
        let own : W64 := BitVec.ofNat 64 (leNat (s.bytesUnder 0 pa 8))
        let (s, e, pa) := if level = 0 then s.contEntry pa own else (s, own, pa)
        if !e.getLsbD 0 then (s, .error 0x09)
        else if e.getLsbD 62 then
          if level = 0 then (s, .error 0x0A)
          else match s.walk lid va level (leafBase e) with
            | (s1, .ok l) => (s1, if tableMalformed e then .error 0x0A else .ok l)
            | x => x
        else if 3 ≤ level || leafMalformed (level + 1) e then (s, .error 0x0A)
        else (s, .ok (e, pa, level + 1))

/-- A page lies in memory that may be encrypted (check 7). -/
def encryptable (pa : Nat) : Bool := isHbm pa || isSecondTier pa

/-- Checks 5 to 8 of Table 11-4 on a leaf. -/
def State.leafCheck (s : State) (x : XCtx) (k : AccKind) (l : W64) : Option Nat :=
  if !leafUser l && !x.sup then some 0x0A
  else if (k = .write || k = .watch) && !leafWrite l then some 0x0A
  else if k = .fetch && !leafExec l then some 0x0A
  else if leafKey l != 0 && (leafKey l != x.keyslot || (s.key (leafKey l)).isNone || !encryptable (leafBase l)) then some 0x0A
  else if k = .write && leafStb l then some 0x0A
  else none

/-- The device's atomic OR of A or D into a leaf (R187). -/
def State.orLeaf (s : State) (pa : Nat) (m : Nat) : State :=
  let b := s.byteUnder 0 (pa + 1)
  let b' := b ||| BitVec.ofNat 8 m
  if b = b' then s else s.homeWriteBytes .other 0 (pa + 1) [b']

/-- Capacity of a TLB (R189, R306). -/
def tlbCap (u which : Nat) : Nat :=
  if which = 0 then 256 else if which = 1 then (if isRoot u then 64 else 3072) else 512

/-- The entries of a TLB: 0 instruction, 1 data, 2 walk-ahead. -/
def Proc.tlb (p : Proc) (which : Nat) : List TlbEntry :=
  if which = 0 then p.itlb else if which = 1 then p.dtlb else p.wtlb

/-- The unit with a TLB replaced. -/
def Proc.setTlb (p : Proc) (which : Nat) (t : List TlbEntry) : Proc :=
  if which = 0 then { p with itlb := t } else if which = 1 then { p with dtlb := t } else { p with wtlb := t }

/-- The virtual page of an address at a level. -/
def vpnAt (va : W64) (level : Nat) : Nat := va.toNat / pageBytes level

/-- A cached translation serves a context: it is its launch's, or global in the same page table (R185). -/
def TlbEntry.serves (e : TlbEntry) (x : XCtx) (va : W64) : Bool :=
  (e.lid = x.lid || (leafGlobal e.leaf && e.root = x.ptroot)) && e.vpn = vpnAt va e.level

/-- The cached translation of an address, if any. -/
def State.tlbFind (s : State) (x : XCtx) (which : Nat) (va : W64) : Option TlbEntry :=
  match x.unit with
  | none => none
  | some u => ((s.proc u).tlb which).find? (fun e => e.serves x va)

/-- A translation cached, newest first, within the TLB's capacity, one for each 4 KiB page of a 64 KiB group (assumption 115). -/
def State.tlbAdd (s : State) (x : XCtx) (which : Nat) (e : TlbEntry) : State :=
  match x.unit with
  | none => s
  | some u => s.onProc u (fun p => p.setTlb which
      ((e :: (p.tlb which).filter (fun o => !(o.lid = e.lid && o.vpn = e.vpn && o.level = e.level))).take (tlbCap u which)))

/-- The leaf that maps the configuration page of R76. -/
def cfgLeaf : W64 := 0x000FFF0000000009

/-- The address of the configuration page of R76. -/
def cfgPage : Nat := 0x00FFFFFFFFFFF000

/-- A physical address from a leaf (R185). -/
def leafPa (l : W64) (level : Nat) (va : W64) : Nat := leafBase l + va.toNat % pageBytes level

/-- A translation (R182 to R189). It fails with the cause of the first check that applies. -/
def State.translate (s : State) (x : XCtx) (which : Nat) (k : AccKind) (va : W64) : State × Except Nat Xl :=
  if !canonical va then (s, .error 0x0A)
  else if x.cfgmap && va.toNat / 4096 = cfgPage / 4096 then
    match s.leafCheck x k cfgLeaf with
    | some c => (s, .error c)
    | none => (s, .ok ⟨leafPa cfgLeaf 1 va, cfgLeaf⟩)
  else
    match (s.tlbFind x which va).filter (fun e => k != .write || leafDirty e.leaf) with
    | some e =>
      match s.leafCheck x k e.leaf with
      | some c => (s, .error c)
      | none => (s, .ok ⟨leafPa e.leaf e.level va, e.leaf⟩)
    | none =>
      match s.walk x.lid va 5 (field x.ptroot.toNat 12 40 * 4096) with
      | (s1, .error c) => (s1, .error c)
      | (s1, .ok (l, at_, level)) =>
        match s1.leafCheck x k l with
        | some c => (s1, .error c)
        | none =>
          let bits := (if x.unit.isSome then 4 else 0) + (if k = .write then 8 else 0)
          let l' := l ||| BitVec.ofNat 64 (bits * 256)
          let s2 := s1.orLeaf at_ bits
          let s3 := s2.tlbAdd x which { lid := x.lid, root := x.ptroot, vpn := vpnAt va level, leaf := l', leafPa := at_, level }
          (s3, .ok ⟨leafPa l level va, l'⟩)

/-- What an address translates to before any check of a leaf: by the configuration page, a cached translation, or a walk that
ends at a leaf. -/
def State.leafFor (s : State) (x : XCtx) (which : Nat) (va : W64) : Option Xl :=
  if !canonical va then none
  else if x.cfgmap && va.toNat / 4096 = cfgPage / 4096 then some ⟨leafPa cfgLeaf 1 va, cfgLeaf⟩
  else match s.tlbFind x which va with
    | some e => some ⟨leafPa e.leaf e.level va, e.leaf⟩
    | none =>
      match (s.walk x.lid va 5 (field x.ptroot.toNat 12 40 * 4096)).2 with
      | .ok (l, _, level) => some ⟨leafPa l level va, l⟩
      | .error _ => none

/-- The level of the leaf that an address has just been translated by (R418). -/
def State.leafLevel (s : State) (x : XCtx) (which : Nat) (va : W64) : Nat := ((s.tlbFind x which va).map (·.level)).getD 1

/-! ### Whose translation -/

/-- The translation context of a launch on a unit. -/
def Launch.xctx (l : Launch) (u : Option Nat) : XCtx :=
  { lid := l.lid, ptroot := l.ptroot, keyslot := l.r.keyslot, sup := false
    cfgmap := l.r.lflags / 2 % 2 = 1, unit := u }

/-- The translation context of a context: its launch's tables; for a supervisor slot, those of the
launch whose group SVGRP names (R401, assumption 6). -/
def State.xctx (s : State) (c : Ctx) : XCtx :=
  match c with
  | .grp _ _ =>
    match s.ctxLaunch? c with
    | some l => l.xctx (some (s.ctxUnit c))
    | none => { lid := 0, ptroot := 0, keyslot := 0, sup := false, cfgmap := false }
  | .sup u sc =>
    match (s.svTarget u sc).bind s.ctxLaunch? with
    | some l => { l.xctx (some u) with sup := true }
    | none => { lid := 0, ptroot := 0, keyslot := 0, sup := true, cfgmap := false }

/-- A context as a reader at the home of a translated address. -/
def State.reader (s : State) (c : Ctx) (x : Xl) : Reader :=
  { lid := (s.xctx c).lid, die := dieOf (s.ctxUnit c), key := leafKey x.leaf }

/-! ### Migration on first touch (R201, R202) -/

/-- First touch of a line by an access through a leaf with MIG = 1 that is not itself performed at the line's home. -/
def State.migTouch (s : State) (x : Xl) : State :=
  if leafMig x.leaf then s.firstTouch (x.pa / 128) false else s

end Sys2Proof.Machine
end

