-- ==== Sys2Proof/Machine/Ops.lean ====
section
/-! DEFINITION. Operations shared by the meanings: scratchpad addresses (R213), transaction barriers
(R302), releases and acquires (Table 12-4), the ends of groups, blocks and launches (R400), taking a
trap and entering and leaving a handler (R397, R398, R417), and declaring an agent dead (R441). -/

namespace Sys2Proof.Machine

/-! ### Scratchpad addresses (R213, R280) -/

/-- The resident blocks of a block's cluster. -/
def State.cluster (s : State) (b : Block) : List Block :=
  s.blocks.filter (fun x => x.lid = b.lid && x.stage = b.stage && x.cidx = b.cidx && isRoot x.unit = isRoot b.unit
    && (!isRoot b.unit || x.bid = b.bid))

/-- The block a scratchpad address of `n` bytes names, and the offset within its run; none where
R213 raises BOUND. -/
def State.spTarget (s : State) (b : Block) (addr n : Nat) : Option (Block × Nat) :=
  let off := field addr 0 21
  let rank := field addr 24 3
  let peer := addr.testBit 27
  if field addr 21 3 != 0 || field addr 28 4 != 0 then none
  else
    let t :=
      if !peer then (if rank = 0 then some b else none)
      else if isRoot b.unit then none
      else (s.cluster b).find? (fun x => x.rank = rank)
    match t with
    | none => none
    | some t => if off + n ≤ t.spLen then some (t, off) else none

/-- A granule's address in the form of R213, as its own block names it. -/
def spAddrOf (off : Nat) : W64 := BitVec.ofNat 64 off

/-- Bytes of a block's scratchpad run. -/
def State.spBytes (s : State) (b : Block) (off n : Nat) : List Byte := (s.proc b.unit).spRead (b.spBase + off) n

/-- Bytes written to a block's scratchpad run. -/
def State.spPut (s : State) (b : Block) (off : Nat) (bs : List Byte) (full : Bool) : State :=
  s.onProc b.unit (fun p => p.spWrite (b.spBase + off) bs full)

/-- Bytes of a block's accumulator run. -/
def State.accBytes (s : State) (b : Block) (off n : Nat) : List Byte := (s.proc b.unit).accRead (b.accBase + off) n

/-- Bytes written to a block's accumulator run. -/
def State.accPut (s : State) (b : Block) (off : Nat) (bs : List Byte) : State :=
  s.onProc b.unit (fun p => p.accWrite (b.accBase + off) bs)

/-! ### Transaction barriers (Table 15-7, R302) -/

/-- A transaction barrier's fields; `r0` and `r1` are bits [15:1] and [55:48]. -/
structure TBar where
  phase : Bool
  r0 : Nat
  count : Nat
  parr : Nat
  r1 : Nat
  err : Nat
  pbytes : Nat
  result : Nat
  deriving DecidableEq, Repr

/-- The barrier that 16 bytes hold. -/
def TBar.ofNat (v : Nat) : TBar :=
  { phase := v.testBit 0, r0 := field v 1 15, count := field v 16 16, parr := field v 32 16
    r1 := field v 48 8, err := field v 56 8, pbytes := field v 64 32, result := field v 96 32 }

/-- The 16 bytes of a barrier. -/
def TBar.toNat (b : TBar) : Nat :=
  (if b.phase then 1 else 0) + 2 * b.r0 + b.count * 2 ^ 16 + b.parr * 2 ^ 32 + b.r1 * 2 ^ 48 + b.err * 2 ^ 56
    + b.pbytes * 2 ^ 64 + b.result * 2 ^ 96

/-- The flip test of R302. -/
def TBar.test (b : TBar) : TBar :=
  if b.parr = 0 && b.pbytes = 0 then { b with phase := !b.phase, parr := b.count } else b

/-- A barrier read at an offset of a unit's scratchpad. -/
def Proc.tbar (p : Proc) (off : Nat) : TBar := TBar.ofNat (leNat (p.spRead off 16))

/-- One update of a barrier: `f`, then the test of R302. No granule state changes (R303). -/
def Proc.tbUpdate (p : Proc) (off : Nat) (f : TBar → TBar) : Proc :=
  { p with sp := Memory.writeN p.sp off (leBytes (f (p.tbar off)).test.toNat 16) }

/-- Bytes reported to a barrier (R303). -/
def TBar.report (n : Nat) (b : TBar) : TBar := { b with pbytes := (b.pbytes + 2 ^ 32 - n % 2 ^ 32) % 2 ^ 32 }

/-- An arrival with bytes (`tbarr`, R301). -/
def TBar.arrive (n : Nat) (b : TBar) : TBar :=
  let b := { b with pbytes := (b.pbytes + n) % 2 ^ 32 }
  if b.parr = 0 then { b with err := if b.err = 0 then 0x12 else b.err } else { b with parr := b.parr - 1 }

/-- ERR set if it was 0. -/
def TBar.setErr (c : Nat) (b : TBar) : TBar := { b with err := if b.err = 0 then c else b.err }

/-- An update of the barrier at an offset of a block's run. A block that is not resident takes
CONTAIN when its image is next examined (R305, R414). -/
def State.tbUpdate (s : State) (bar : Nat × Nat) (f : TBar → TBar) : State :=
  match s.block? bar.1 with
  | some b => (s.wakeCore b.unit).onProc b.unit (fun p => p.tbUpdate (b.spBase + bar.2) f)
  | none =>
    { s with images := s.images.map (fun im =>
        if im.block.bid = bar.1 then
          { im with block := { im.block with cause := some (im.block.cause.getD 0x1A) } }
        else im) }

/-- A barrier in an image, at an offset of its block's run, updated. -/
def Image.tbUpdate (im : Image) (off : Nat) (f : TBar → TBar) : Image :=
  { im with sp := (({ sp := im.sp } : Proc).tbUpdate off f).sp }

/-- An engine's update of its command's barrier, which is no arrival: it is made in the image of a block that is not resident
(R284, R303). -/
def State.barReport (s : State) (bar : Nat × Nat) (f : TBar → TBar) : State :=
  if (s.block? bar.1).isSome then s.tbUpdate bar f
  else { s with images := s.images.map (fun im => if im.block.bid = bar.1 then im.tbUpdate bar.2 f else im) }

/-! ### Releases and acquires (Table 12-4, R308) -/

/-- The group has an `ldfe` or `stfe` that is not performed (R255). -/
def State.unperformed (s : State) (c : Ctx) : Bool :=
  (s.units.any (fun u => u.2.grans.any (fun g => g.ctx = c)))

/-- The scope reaches past the core's L1. -/
def Scope.wide : Scope → Bool
  | .grp | .blk => false
  | _ => true

/-- The group has synchronised: no load it issued before is issued again after a save (R250, R411). -/
def State.orders (s : State) (c : Ctx) : State := s.onGroup c Group.orders

/-- What a release at a scope does to a context's L1. -/
def State.cleanFor (s : State) (c : Ctx) (sc : Scope) : State :=
  let u := s.ctxUnit c
  if Scope.wide sc && !isRoot u then s.l1Clean u else s

/-- What an acquire at a scope does to a context's L1. -/
def State.flushFor (s : State) (c : Ctx) (sc : Scope) : State :=
  let u := s.ctxUnit c
  if Scope.wide sc && !isRoot u then s.l1Flush u else s

/-- The release actions at a scope, once the group's earlier accesses are performed. -/
def State.release (s : State) (c : Ctx) (sc : Scope) : State := (s.cleanFor c sc).orders c

/-- The acquire actions at a scope. -/
def State.acquire (s : State) (c : Ctx) (sc : Scope) : State := (s.flushFor c sc).orders c

/-! ### Granule accesses (R193, R194, R214) -/

/-- A context that issues on a root core. -/
def State.onRoot (s : State) (c : Ctx) : Bool := isRoot (s.ctxUnit c)

/-- A loaded value of a type as its register holds it (R210). -/
def loaded (ty : Ty) (bs : List Byte) : W64 :=
  let v := w64 (leNat bs)
  match ty with
  | .i8 => zext64 32 (sext64 8 v)
  | .i16 => zext64 32 (sext64 16 v)
  | _ => v

/-- The value of a failed element of a root core's load of uncorrectable data (R309). -/
def rootPoison (ty : Ty) : W64 := if tyWide ty then w64 ((fF64.poison).getD 0) else 0x7FD00BAD

/-- A granule access may be performed: its condition holds and its group has none before it on the
granule (R214). -/
def granReady (p : Proc) (before : List GranAccess) (a : GranAccess) : Bool :=
  p.full.contains a.granule = a.load && !before.any (fun b => b.ctx = a.ctx && b.granule = a.granule)

/-- The first access waiting on a granule that may be performed, and the list without it. -/
def nextGran (p : Proc) (gran : Nat) : List GranAccess → List GranAccess → Option (GranAccess × List GranAccess)
  | _, [] => none
  | before, a :: r =>
    if a.granule = gran && granReady p before a then some (a, before.reverse ++ r) else nextGran p gran (a :: before) r

/-- A granule access performed at its scratchpad (R193, R194, R214, R286, R402): an `stfe` releases and an `ldfe` acquires at
`.clu` (R255). -/
def State.performGran (s : State) (u : Nat) (a : GranAccess) : State :=
  let n := tyBytes a.ty
  if a.load then
    let p := s.proc u
    let bad := p.spPoison.contains a.granule
    let root := s.onRoot a.ctx
    let s1 := if a.clr then s.onProc u (fun p => { p with full := p.full.filter (· != a.granule) }) else s
    let fails := if bad && !root then (a.parts.filter (fun e => e.dst != .nowhere)).map (fun e => (e.lane, 0x0B, e.va)) else []
    let (g1, vals) := ((s1.group? a.ctx).getD {}).takeOrigins fails
    let elems := a.parts.map (fun e =>
      if bad then
        ({ dst := e.dst, v := ((vals.find? (fun q => q.1 = e.lane)).map (·.2)).getD (rootPoison a.ty), tag := true } : PendElem)
      else { dst := e.dst, v := loaded a.ty (p.spRead e.off n), tag := false })
    (s1.onGroup a.ctx (fun _ => g1.unblock a.pend elems)).flushFor a.ctx .clu
  else
    let s0 := s.cleanFor a.ctx .clu
    let s1 := a.parts.foldl (fun s e => s.onProc u (fun p => p.spWrite e.off (leBytes e.v.toNat n) false)) s0
    (s1.onProc u (fun p => { p with full := NatSet.insert p.full a.granule })).onGroup a.ctx (fun g => g.unblock a.pend [])

/-- The accesses that wait on a granule performed in their order, while one may be, up to a number of them (R214). -/
def State.settleGranUpTo (u gran : Nat) : Nat → State → State
  | 0, s => s
  | n + 1, s =>
    match nextGran (s.proc u) gran [] (s.proc u).grans with
    | none => s
    | some (a, rest) => State.settleGranUpTo u gran n ((s.onProc u (fun p => { p with grans := rest })).performGran u a)

/-- The accesses that wait on a granule taken in their order, those performed whose condition holds when their turn comes (R214).
-/
def State.settleGran (s : State) (u gran : Nat) : State := State.settleGranUpTo u gran (s.proc u).grans.length s

/-- A write that sets the granules it touches full, and marks some of them: the accesses that wait on them come before every later
one (R193, R214, R286). A gated core wakes for it (R447). -/
def State.spFill (s : State) (u off : Nat) (bs : List Byte) (marks : List Nat := []) : State :=
  (granulesOf off bs.length).foldl (fun s g => s.settleGran u g) ((s.wakeCore u).onProc u (fun p =>
    let p1 := p.spWrite off bs true
    { p1 with spPoison := NatSet.insertAll p1.spPoison marks }))

/-! ### Barriers of blocks and clusters (R335) -/

/-- Groups of a block that have not ended. -/
def Block.expected (b : Block) : Nat := (b.groups.filter (fun g => !g.ended)).length

/-- A group held at a barrier is released: its run moves on (R335, R336). -/
def Group.releaseFrom (g : Group) (h : Hold) (next : Hold) : Group :=
  if g.hold = h then { g.advance g.run with hold := next } else g

/-- Barrier `n` of a block flips when every expected group has arrived (R335). -/
def Block.barTest (b : Block) (n : Nat) : Block :=
  let r := Cells.get {} b.bars n
  if r.mask.isEmpty || r.mask.length < b.expected then b
  else
    { b with
      bars := Cells.set b.bars n { phase := !r.phase, mask := [] }
      groups := b.groups.map (fun g => g.releaseFrom (.bar n) .none) }

/-- Every block barrier of a block tested (R335). -/
def Block.barTestAll (b : Block) : Block := (List.range 16).foldl Block.barTest b

/-- The block that holds a cluster's barriers, at keys 16 and up: its block of lowest rank. -/
def lowestRank : List Block → Option Block
  | [] => none
  | b :: r => match lowestRank r with
    | none => some b
    | some x => if x.rank < b.rank then some x else some b

/-- A cluster barrier's key among the holder's barriers. -/
def cbarKey (n : Nat) : Nat := 16 + n

/-- A group's place in a cluster barrier's mask. -/
def cbarBit (b : Block) (g : Nat) : Nat := 128 * b.rank + g

/-- Cluster barrier `n` of a block's cluster flips when every expected group has arrived (R335, R336). -/
def State.cbarTest (s : State) (b : Block) (n : Nat) : State :=
  let cl := s.cluster b
  match lowestRank cl with
  | none => s
  | some h =>
    let r := Cells.get {} h.bars (cbarKey n)
    if r.mask.isEmpty || r.mask.length < (cl.map Block.expected).sum then s
    else
      let s1 := s.onBlock h.bid (fun x => { x with bars := Cells.set x.bars (cbarKey n) { phase := !r.phase, mask := [] } })
      cl.foldl (fun s x => s.onBlock x.bid (fun y =>
        { y with groups := y.groups.map (fun g => g.releaseFrom (.cbar n) (.acquire .clu)) })) s1

/-- A block that leaves its cluster hands the cluster's barriers to the block of lowest rank that stays. -/
def State.passBars (s : State) (b : Block) : State :=
  let stay (x : Block) : Bool := x.lid = b.lid && x.stage = b.stage && x.cidx = b.cidx && !isRoot x.unit && x.bid != b.bid
  match lowestRank ((s.blocks ++ s.images.map (·.block)).filter stay) with
  | none => s
  | some h =>
    if h.rank < b.rank || isRoot b.unit then s
    else
      let handed := b.bars.filter (fun e => decide (16 ≤ e.1))
      let merge (own : Cells Barrier) : Cells Barrier :=
        handed.foldl (fun m e => Cells.set m e.1 e.2) (own.filter (fun e => decide (e.1 < 16)))
      let take (x : Block) : Block := if x.bid = h.bid then { x with bars := merge x.bars } else x
      { s with blocks := s.blocks.map take, images := s.images.map (fun im => { im with block := take im.block }) }

/-- Every cluster barrier of a block's cluster tested. -/
def State.cbarTestAll (s : State) (b : Block) : State := (List.range 4).foldl (fun s n => s.cbarTest b n) s

/-! ### Atomic buffers (R227, R231) -/

/-- The buffered partials of a group's scheduler slot drain into the held set of their launch. -/
def State.drainGroup (s : State) (u bid g : Nat) : State :=
  let mine (p : Partial) : Bool := p.bid = bid && p.g = g
  let out := (s.proc u).abuf.filter mine
  let s1 := s.onProc u (fun p => { p with abuf := p.abuf.filter (fun x => !mine x) })
  { s1 with held := s1.held ++ out }

/-! ### Queues of a pipelined launch (R343) -/

/-- The stage-queue item a group holds is released. -/
def State.releaseItem (s : State) (bid g : Nat) : State :=
  match s.block? bid, s.group? (.grp bid g) with
  | some b, some gr =>
    if gr.item then
      let s1 := s.onGroup (.grp bid g) (fun x => { x with item := false })
      s1.onLaunch b.lid (fun l => { l with stages := modifyAt l.stages (b.stage - 1) (fun q =>
        { q with counted := q.counted - 1 }) })
    else s
  | _, _ => s

/-! ### Engine commands dropped (R284 step 4) -/

/-- The bytes a command reports in all (R297 to R299). -/
def EngKind.reportTotal : EngKind → Nat
  | .copy _ _ len => len
  | .walk r _ _ | .copyt r _ _ =>
    let rows := takeAt 1 r.box 1 * takeAt 1 r.box 2 * takeAt 1 r.box 3 * takeAt 1 r.box 4
    let bits := match r.fmt with
      | 0 | 1 | 7 => 8
      | 2 | 3 => 6
      | 4 => 4
      | 5 | 6 => 16
      | 8 => 32
      | _ => 64
    rows * (takeAt 1 r.box 0 * bits / 8) + (if r.mxl then 16 * rows else 0)
  | _ => 0

/-- The bytes a command has reported so far (R303). -/
def EngCmd.reported (c : EngCmd) : Nat :=
  match c.kind with
  | .copy _ _ _ => c.done
  | .walk r _ _ | .copyt r _ _ =>
    let rows := takeAt 1 r.box 1 * takeAt 1 r.box 2 * takeAt 1 r.box 3 * takeAt 1 r.box 4
    if c.done = rows then c.kind.reportTotal else c.kind.reportTotal / rows * c.done
  | _ => 0

/-- KIND of MPROG (Table 15-3). -/
def EngKind.code : EngKind → Nat
  | .copy _ _ _ => 2
  | .walk _ _ _ => 3
  | .copyt _ _ _ => 4
  | .send _ _ _ _ _ _ => 5
  | .stMem _ _ _ _ _ _ => 6

/-- MPROG of a command (Table 15-3). -/
def EngCmd.mprog (c : EngCmd) : W64 := BitVec.ofNat 64 (c.kind.code * 2 ^ 60 + c.done % 2 ^ 40)

/-- The trap of a command that a fault drops, which brings its MPROG with it (R284, R285). -/
def EngCmd.fault (c : EngCmd) (cause : Nat) (va : W64) : AsyncTrap :=
  { cause := BitVec.ofNat 8 cause, addr := va, engine := true, mprog := some c.mprog }

/-- MPROG of a matrix instruction: its written sub-tiles (Table 15-3). -/
def MxCmd.mprog (c : MxCmd) : W64 := BitVec.ofNat 64 (2 ^ 60 + c.done.toNat)

/-- A multiplication, as against an `acc` instruction. -/
def MxCmd.isMul (c : MxCmd) : Bool := match c.kind with | .mul _ _ _ _ _ _ _ _ _ => true | _ => false

/-- The entry of the matrix queue that stands for an engine command. -/
def MxCmd.isEngine (id : Nat) (m : MxCmd) : Bool := match m.kind with | .engine x _ => x = id | _ => false

/-- The entry of the matrix queue that stands for an engine command leaves it. -/
def Proc.dropEngineEntry (p : Proc) (id : Nat) : Proc := { p with mx := p.mx.filter (fun m => !MxCmd.isEngine id m) }

/-- A dropped command's unreported bytes and ERR at its barrier (R284 step 4). -/
def State.dropReport (s : State) (c : EngCmd) (cause : Nat) : State :=
  match c.bar with
  | none => s
  | some bar => s.barReport bar (fun b => (b.report (c.kind.reportTotal - c.reported)).setErr cause)

/-- A command dropped for a cause: its barrier, its count, and its place in the queues (R284 step 4). -/
def State.dropCmd (s : State) (u : Nat) (c : EngCmd) (cause : Nat) : State :=
  ((s.dropReport c cause).onProc u (fun p => { p with cmds := p.cmds.filter (fun x => x.id != c.id) }.dropEngineEntry c.id)).onGroupAny
    c.bid c.g (fun g => g.complete c.pend)

/-! ### Triggers of dependent launches (R54, R56, R361) -/

/-- HSTAT at the end of an `lwait` (R361, Table 17-4). -/
def prodStat (ps : List ProdSt) : BitVec 32 :=
  let worse (b : Option (BitVec 8 × Nat)) (p : ProdSt) : Option (BitVec 8 × Nat) :=
    match p, b with
    | .failed c t, some (_, t') => if t < t' then some (c, t) else b
    | .failed c t, none => some (c, t)
    | _, _ => b
  match ps.foldl worse none with
  | some (c, _) => hstatOf 8 false c.toNat
  | none => hstatOf 7 false 0

/-- A group held in `lwait` completes it; the acquire of R56 comes before its next issue. -/
def Group.endLwait (h : BitVec 32) (g : Group) : Group :=
  if g.hold = .lwait then { g.advance g.run with hstat := h, hold := .acquire .dev } else g

/-- The groups of a launch held in `lwait` are released once every producer has triggered (R361). -/
def State.testLwait (s : State) (lid : Nat) : State :=
  match s.launch? lid with
  | none => s
  | some l =>
    if l.prods.any (· = .waiting) then s
    else
      let f (b : Block) : Block :=
        if b.lid = lid then { b with groups := b.groups.map (Group.endLwait (prodStat l.prods)) } else b
      { s with blocks := s.blocks.map f, images := s.images.map (fun im => { im with block := f im.block }) }

/-- A launch triggers: every dependent launch that waits for it takes note (R54). -/
def State.triggerLaunch (s : State) (lid : Nat) (st : ProdSt) : State :=
  let note (l : Launch) : Launch :=
    { l with prods := (([l.r.prod0, l.r.prod1].filter (· != 0)).zip l.prods).map (fun p =>
        if p.1 = lid && p.2 = .waiting then st else p.2) }
  let s1 := { s with launches := s.launches.map (fun (l : Launch) => if l.lid = lid then { l with triggered := true } else note l) }
  (s1.launches.map (fun (l : Launch) => l.lid)).foldl State.testLwait s1

/-- Blocks of a launch, in all its stages (R26, R27). -/
def Launch.blockCount (l : Launch) : Nat :=
  let e := takeAt 1 l.r.ext 0 * takeAt 1 l.r.ext 1 * takeAt 1 l.r.ext 2
  let sh := takeAt 1 l.r.shape 0 * takeAt 1 l.r.shape 1 * takeAt 1 l.r.shape 2
  e * sh * (if l.r.stagecnt < 2 then 1 else l.r.stagecnt)

/-- A block has executed `ltrig` or exited; its launch triggers when every block has (R54). -/
def State.blockTriggered (s : State) (b : Block) : State :=
  let s1 := s.onLaunch b.lid (fun l => { l with trigBlocks := NatSet.insert l.trigBlocks (8 * b.index + b.stage) })
  match s1.launch? b.lid with
  | none => s1
  | some l => if !l.triggered && l.trigBlocks.length = l.blockCount then s1.triggerLaunch l.lid .triggered else s1

/-- Every group of a block that runs has executed `ltrig` or ended (R360). -/
def State.testTrig (s : State) (bid : Nat) : State :=
  match s.block? bid with
  | none => s
  | some b =>
    if !isRoot b.unit && b.cause.isNone && b.groups.all (·.ltrig) && !b.groups.all (·.ended) then
      (s.l1Clean b.unit).blockTriggered b
    else s

/-! ### The end of a group, a block, a launch -/

/-- A group of a terminated block: it ends at once, its loads dropped (R400). -/
def Group.kill (g : Group) : Group :=
  { g with
    lanes := g.lanes.map (fun l => { l with live := false }), ended := true, hold := .none, rep := .none
    pend := g.pend.filter (fun p => !p.load), asyncs := [], item := false, ltrig := true, task := .none
    ahead := [], svcCmd := .none, asked := false }

/-- The cause of a launch: that of the first event that terminated a block of it (R60). -/
def Launch.setCause (l : Launch) (c : Nat) : Launch := { l with cause := some (l.cause.getD (BitVec.ofNat 8 c)) }

/-- A supervisor slot that serves a block's group ends its service. -/
def State.dropService (s : State) (b : Block) : State :=
  s.onProc b.unit (fun p => { p with sups := p.sups.map (fun x =>
    if x.2.active && b.groups.any (fun g => g.hold = .trapped && g.sched = x.1
        && x.2.svgrp.toNat = g.slot + 32 * g.sched) then (x.1, { x.2 with active := false }) else x) })

/-- A resident block terminated (R400): its groups end at once, its loads and the commands held
for a PFAULT are dropped, and the cause is recorded in the block and its launch. -/
def State.killBlock (s : State) (bid cause : Nat) : State :=
  match s.block? bid with
  | none => s
  | some b =>
    let s0 := s.dropService b
    let s1 := (List.range b.groups.length).foldl (fun s g => (s.drainGroup b.unit bid g).releaseItem bid g) s0
    let s2 := ((s1.proc b.unit).cmds.filter (fun c => c.bid = bid && c.held)).foldl
      (fun s c => s.dropCmd b.unit c 0x09) s1
    let mine (a : GranAccess) : Bool := match a.ctx with | .grp x _ => x = bid | _ => false
    let s2a := { s2 with units := s2.units.map (fun u => (u.1, { u.2 with
      grans := u.2.grans.filter (fun a => !(mine a && a.load)) })) }
    -- an `stfe` has issued: it is performed at once when its granule is empty, and may be later while the granule's block stays
    let left (s : State) : List (Nat × Nat) :=
      (s.units.flatMap (fun u => (u.2.grans.filter mine).map (fun a => (u.1, a.granule)))).eraseDups
    let s3 := (left s2a).foldl (fun s x => s.settleGran x.1 x.2) s2a
    let rest := (s3.units.flatMap (fun u => u.2.grans.filter mine)) ++ (s2.units.flatMap (fun u => u.2.grans.filter (fun a => mine a && a.load)))
    let s4 := rest.foldl (fun s a => s.onGroup a.ctx (fun g => { g with pend := g.pend.filter (fun p => p.id != a.pend) })) s3
    let s5 := dropWatchesOf s4 (fun x _ => x = bid)
    let s6 := s5.onBlock bid (fun b =>
      { b with groups := b.groups.map Group.kill, cause := some (b.cause.getD (BitVec.ofNat 8 cause)) })
    let s7 := if isRoot b.unit then s6 else s6.onLaunch b.lid (fun l => l.setCause cause)
    let s8 := { s7 with host := { s7.host with asked := s7.host.asked.filter (fun a =>
      match a.2 with | .grp x _ => x != bid | _ => true) } }
    s8.cbarTestAll b

/-- What a block held is freed after the starvation moment of every stage that starves (R47). -/
def State.haunt (s : State) (b : Block) : State :=
  { s with ghosts := s.ghosts ++ s.launches.flatMap (fun l => l.starved.map (fun st => { lid := l.lid, stage := st, block := b })) }

/-- A block leaves its unit, and what it held becomes free. -/
def State.blockGone (s : State) (b : Block) : State :=
  { s with blocks := s.blocks.filter (fun x => x.bid != b.bid) }.haunt b

/-- All that a core has, as the holding of one block. -/
def wholeCore (lid c : Nat) : Block :=
  { bid := 0, lid, unit := c, segLen := 256, spLen := Config.scratchBytes, accLen := Config.accBytes }

/-! ### The end of a root block, and the arrival of a call's return (R319 to R321) -/

/-- A block's runs, slots and shared state become free; what still waits on a granule of its run is gone. -/
def State.freeBlock (s : State) (b : Block) : State :=
  let inRun (k : Nat) : Bool := b.spBase / 16 ≤ k && k < (b.spBase + b.spLen) / 16
  ((s.passBars b).onProc b.unit (fun p =>
    { p.forget b.bid with grans := p.grans.filter (fun a => !inRun a.granule), idleSince := s.now })).blockGone b

/-- A call's caller or its barrier's block is suspended: its return is held at its owner (R320). -/
def State.returnHeld (s : State) (k : RCall) : Bool :=
  s.images.any (fun im => im.block.bid = k.barBid || im.block.bid = k.caller)

/-- One returned call: its arrival is made at a resident barrier, and its root block's runs and slots are free after it; a
suspended caller's is held, and one for a block that is gone or terminated is discarded (R319, R320, R414). -/
def State.makeReturn (s : State) (k : RCall) : State :=
  if k.st != .returned || s.returnHeld k then s
  else
    let arrive (b : TBar) : TBar := (({ b with result := k.result.toNat }).setErr k.err.toNat).arrive 0
    let live : Bool := ((s.block? k.caller).map (fun b => b.cause.isNone)).getD false && (s.block? k.barBid).isSome
    let s1 := if live then s.tbUpdate (k.barBid, k.barOff) arrive else s
    let s2 := ({ s1 with calls := s1.calls.filter (fun c => c.id != k.id) }).onGroupAny k.caller k.g (fun g => g.complete k.pend)
    match s2.blocks.find? (fun b => b.call = some k.id) with
    | some b => s2.freeBlock b
    | none => s2

/-- Every return that can be made is made, oldest first. -/
def State.makeReturns (s : State) : State := s.calls.foldl State.makeReturn s

/-- A suspended block discarded with a cause (R414, R421, R426): its image and pool range go, the commands in it are dropped, a held
one for its PFAULT (R284), and the returns held for it are discarded (R320). -/
def State.discardImage (s : State) (bid cause : Nat) : State :=
  match s.images.find? (fun im => im.block.bid = bid) with
  | none => s
  | some im =>
    let b := im.block
    let s0 := im.cmds.foldl (fun s c => s.dropReport c (if c.held then 0x09 else cause)) (s.passBars b)
    let s1 := { s0 with images := s0.images.filter (fun x => x.block.bid != bid) }
    let s2 := dropWatchesOf s1 (fun x _ => x = bid)
    (s2.onLaunch b.lid (fun l =>
      { l.setCause cause with
        exited := modifyAt l.exited b.stage (· + 1)
        stages := if b.groups.any (·.item) then modifyAt l.stages (b.stage - 1) (fun q =>
          { q with counted := q.counted - (b.groups.filter (·.item)).length }) else l.stages })).makeReturns

/-- A launch terminated whole (R387, R426, R441): no further cluster is placed, its records and
versions are discarded, and its blocks end. -/
def State.killLaunch (s : State) (lid cause : Nat) : State :=
  let s1 := s.onLaunch lid (fun l => { l.setCause cause with cancelled := true, tasks := [], initial := [] })
  let s2 := { s1 with versions := s1.versions.filter (fun v => v.lid != lid) }.unstall
  let s3 := ((s2.blocks.filter (fun b => b.lid = lid && !isRoot b.unit)).map (·.bid)).foldl
    (fun s b => s.killBlock b cause) s2
  ((s3.images.filter (fun im => im.block.lid = lid)).map (·.block.bid)).foldl (fun s b => s.discardImage b cause) s3

/-- A block terminated with a cause, with its whole launch for a task launch (R387, R400). -/
def State.terminateBlock (s : State) (bid cause : Nat) : State :=
  match s.block? bid with
  | none => s
  | some b =>
    let task : Bool := ((s.launch? b.lid).map (fun l => decide (l.r.lflags % 2 = 1))).getD false
    if task && !isRoot b.unit then s.killLaunch b.lid cause else s.killBlock bid cause

/-- A suspended block terminated with a cause, with its whole launch for a task launch (R387, R414). -/
def State.terminateImage (s : State) (bid cause : Nat) : State :=
  match s.images.find? (fun im => im.block.bid = bid) with
  | none => s
  | some im =>
    let task : Bool := ((s.launch? im.block.lid).map (fun l => decide (l.r.lflags % 2 = 1))).getD false
    if task then s.killLaunch im.block.lid cause else s.discardImage bid cause

/-- What follows when a group has no live lane left (R143, R231, R284, R335, R343); a trap that was pending for it, or that a
dropped command raises, terminates its block (R286, R410). -/
def State.groupEnded (s : State) (bid g : Nat) : State :=
  match s.block? bid with
  | none => s
  | some b =>
    let s1 := s.onGroup (.grp bid g) (fun x => { x with ended := true, hold := .none, rep := .none, ltrig := true })
    let s2 := (s1.drainGroup b.unit bid g).releaseItem bid g
    let held := (s2.proc b.unit).cmds.filter (fun c => c.bid = bid && c.g = g && c.held)
    let s3 := held.foldl (fun s c => s.dropCmd b.unit c 0x09) s2
    let s4 := s3.onBlock bid Block.barTestAll
    let s5 := (s4.cbarTestAll b).testTrig bid
    let due := ((b.groups[g]?).map (fun x => x.asyncs.map (fun a => a.cause.toNat))).getD []
    match (due ++ (held.filter (fun (c : EngCmd) => c.poison.isSome)).map (fun _ => 0x0B)).head? with
    | some cause => s5.terminateBlock bid cause
    | none => s5

/-! ### Fault records and interrupts (R428, R429) -/

/-- An MSI-X message. -/
def State.msi (s : State) (v : Nat) : State := { s with host := { s.host with msix := v :: s.host.msix } }

/-- A fault record queued for writing; dropped while the ring is disabled (R428). -/
def State.report (s : State) (r : FaultRec) : State :=
  if s.host.fcen then { s with host := { s.host with waiting := s.host.waiting ++ [r] } } else s

/-! ### Containment (R440, R441) -/

/-- Agent code and index of Table 20-6. -/
def agentCode : Agent → Nat × Nat
  | .core n => (1, n)
  | .rootDie st => (2, st)
  | .crownDie d => (3, d)
  | .host => (4, 0)
  | .peer a => (5, a)
  | .expander p => (6, p)

/-- The launch of a block, resident or suspended. -/
def State.lidOf (s : State) (bid : Nat) : Option Nat :=
  ((s.block? bid).map (·.lid)).orElse (fun _ => (s.images.find? (fun im => im.block.bid = bid)).map (·.block.lid))

/-- An engine command by its identifier, at its engine or saved in an image. -/
def State.cmd? (s : State) (id : Nat) : Option EngCmd :=
  (s.units.findSome? (fun u => u.2.cmds.find? (fun c => c.id = id))).orElse (fun _ =>
    s.images.findSome? (fun im => im.cmds.find? (fun c => c.id = id)))

/-- The state with an engine command changed, wherever it is. -/
def State.onCmd (s : State) (id : Nat) (f : EngCmd → EngCmd) : State :=
  let g (l : List EngCmd) : List EngCmd := l.map (fun c => if c.id = id then f c else c)
  { s with
    units := s.units.map (fun u => (u.1, { u.2 with cmds := g u.2.cmds }))
    images := s.images.map (fun im => { im with cmds := g im.cmds }) }

/-- A command dropped for a cause, at its engine or saved with its block (R284 step 4, R285). -/
def State.dropCmdAny (s : State) (c : EngCmd) (cause : Nat) : State :=
  match s.units.find? (fun u => u.2.cmds.any (fun x => x.id = c.id)) with
  | some u => s.dropCmd u.1 c cause
  | none =>
    let s0 := s.dropReport c cause
    let s1 : State := { s0 with images := s0.images.map (fun im =>
      { im with cmds := im.cmds.filter (fun x => x.id != c.id), mx := im.mx.filter (fun m => !MxCmd.isEngine c.id m) }) }
    s1.onGroupAny c.bid c.g (fun g => g.complete c.pend)

/-- Launches with a context on the agent or an unfinished transaction that touches it, given which
addresses it served (R441). -/
def State.touching (s : State) (a : Agent) (served : Nat → Bool) : List Nat :=
  let ctxs := (s.blocks.filter (fun b => agentHolds a b.unit)).map (·.lid)
  let waits (g : Group) : Bool := g.pend.any (fun p => p.sectors.any (fun k => served (32 * k)))
    || (match g.hold with | .arming w _ => served w.pa | _ => false)
  let loads := ((s.blocks ++ s.images.map (·.block)).filter (fun b => b.groups.any waits)).map (·.lid)
  let calls := (s.calls.filter (fun c => c.st != .returned && agentHolds a (0x8000 + c.owner))).map (·.lid)
  let watches := (s.watches.filter (fun w => served w.w.pa)).filterMap (fun w => s.lidOf w.bid)
  let packets := (s.packets.filter (fun p => served p.pa)).filterMap (fun p =>
    p.cmd.bind (fun c => (s.cmd? c).bind (fun x => s.lidOf x.bid)))
  let parts := ((s.held ++ s.units.flatMap (fun u => u.2.abuf)).filter (fun p => served p.pa)).map (·.lid)
  (ctxs ++ loads ++ calls ++ watches ++ packets ++ parts).eraseDups

/-- One packet of a command accepted, applied or gone, which its command waits for no longer (Table 15-2). -/
def State.packetOver (s : State) (p : Packet) : State :=
  match p.cmd with
  | none => s
  | some id => s.onCmd id (fun c => { c with inflight := c.inflight - 1 })

/-- An open landing that awaits an arrival settles with LOST; its incomplete held lines are dropped
(R441). -/
def Landing.lose (l : Landing) : Landing :=
  if l.lines.all (·.settled) then l
  else { l with lost := true, lines := l.lines.map (fun x => { x with settled := true }) }

/-- The packets that the incomplete lines of a landing hold. -/
def Landing.heldPackets (l : Landing) : List Packet :=
  (l.lines.filter (fun x => !x.settled)).flatMap (fun x => x.got.filterMap (·.2))

/-- Every open landing that awaits an arrival lost; a command that waits for a dropped packet to be applied waits no longer
(assumption 78). -/
def State.loseLandings (s : State) : State :=
  let gone := (s.lands.flatMap Landing.heldPackets).filter (·.rel)
  { gone.foldl State.packetOver s with lands := s.lands.map Landing.lose }

/-- The loads outstanding at addresses that an agent served fail (R441, R442). -/
def State.failLoads (s : State) (served : Nat → Bool) : State :=
  let gone (_ : Pending) (x : LoadSrc) : Bool := x.sector.any (fun k => served (32 * k))
  let f (b : Block) : Block := { b with groups := b.groups.map (fun g => g.failLoads 0x1A gone) }
  { s with
    blocks := s.blocks.map f
    images := s.images.map (fun im => { im with block := f im.block })
    units := s.units.map (fun u => (u.1, { u.2 with sups := u.2.sups.map (fun x =>
      (x.1, { x.2 with g := x.2.g.failLoads 0x1A gone })) })) }

/-- What was on its way to addresses that an agent served is gone: packets, for which their commands wait no longer, and partials
not yet applied (R441). -/
def State.dropTo (s : State) (served : Nat → Bool) : State :=
  let s1 := (s.packets.filter (fun p => served p.pa)).foldl State.packetOver s
  { s1 with
    packets := s1.packets.filter (fun p => !served p.pa)
    held := s1.held.filter (fun p => !served p.pa)
    units := s1.units.map (fun u => (u.1, { u.2 with abuf := u.2.abuf.filter (fun p => !served p.pa) })) }

/-- A dead agent's units stop: what they had queued, and the operations that their blocks had outstanding, never complete (R441,
R448). -/
def State.abandon (s : State) (a : Agent) : State :=
  { s with
    units := s.units.map (fun u => if agentHolds a u.1 then (u.1, { u.2 with cmds := [], mx := [], bnk := [] }) else u)
    blocks := s.blocks.map (fun b =>
      if agentHolds a b.unit then { b with groups := b.groups.map (fun g => { g with pend := [] }) } else b) }

/-- An agent declared dead (R441). A call whose return was made before that completes as it is (R442). -/
def State.declareDead (s : State) (a : Agent) : State :=
  if s.dead.contains a then s
  else
    let before (pa : Nat) : Bool := s.spot pa != Spot.unbacked
    let s1 := { s with dead := a :: s.dead }
    let served (pa : Nat) : Bool := before pa && s1.spot pa == Spot.unbacked
    let lids := s.touching a served
    let s2 := (s1.failLoads served).dropTo served
    let s3 := lids.foldl (fun s l => s.killLaunch l 0x1A) s2
    let gone := (s3.blocks.filter (fun b => agentHolds a b.unit)).map (·.bid)
    let s4 := (gone.foldl (fun s b => s.killBlock b 0x1A) s3).abandon a
    let s5 := { s4 with calls := s4.calls.map (fun (c : RCall) =>
      if c.st != CallSt.returned && agentHolds a (0x8000 + c.owner) then { c with st := .returned, err := 0x1A } else c) }
    let s6 := match a with
      | .peer _ | .rootDie _ | .crownDie _ => s5.makeReturns.loseLandings
      | _ => s5.makeReturns
    if a = .host then s6
    else
      let (code, idx) := agentCode a
      (s6.report { kind := 5, cause := 0x1A, write := false, lid := 0, core := 0xFFFFFFFF, addr := 0
                   value := BitVec.ofNat 64 (code + idx * 2 ^ 16) }).msi 65

/-- A core halted as a dead agent (R397, R418, R421). -/
def State.haltCore (s : State) (u : Nat) : State :=
  (s.declareDead (.core u)).onProc u (fun p => { p with halted := true })

/-! ### Taking a trap (R397) -/

/-- What a trap carries: cause, SUB, CONS, TRAPA, and PSNM when it is a consumption. -/
structure TrapInfo where
  cause : Nat
  sub : Nat := 0
  cons : Bool := false
  addr : W64 := 0
  psnm : Option (BitVec 32) := none
  /-- the access that failed was a write (R409) -/
  write : Bool := false
  /-- the trap of a held engine command (R284) -/
  cmd : Bool := false
  deriving DecidableEq, Repr

/-- TRAPC of a trap (Table 19-1). -/
def TrapInfo.trapc (t : TrapInfo) : BitVec 32 :=
  BitVec.ofNat 32 (t.cause + 256 * t.sub + (if t.cons then 2 ^ 16 else 0))

/-- The trap registers of a group written (R397 step 2). -/
def Group.recordTrap (g : Group) (t : TrapInfo) (pc : W64) : Group :=
  { g with
    trapc := t.trapc, trapa := t.addr, trappc := pc
    psnm := t.psnm.getD g.psnm, trapRun := g.run, rep := .none, trapWr := t.write, svcNow := t.cmd }

/-- The supervisor slot of a group's scheduler starts at the supervisor's entry for it (R397 step 3). -/
def State.startService (s : State) (c : Ctx) : State :=
  match s.group? c with
  | none => s
  | some g =>
    let u := s.ctxUnit c
    let s1 := s.onGroup c (fun g => { g with hold := .trapped })
    s1.onSup u g.sched (fun p =>
      { p.begin g.width with
        svgrp := BitVec.ofNat 32 (g.slot + 32 * g.sched)
        svdisp := 0, svpc := g.trappc, svevt := 0 })

/-- A recorded trap delivered, or held until the supervisor slot is free (R397). -/
def State.deliverTrap (s : State) (c : Ctx) : State :=
  match s.group? c with
  | none => s
  | some g =>
    if (s.sup (s.ctxUnit c) g.sched).active then s.onGroup c (fun g => { g with hold := .svWait })
    else s.startService c

/-- A trap raised at the context's run (R386, R397): a supervisor slot's halts the core, a
speculative task's is deferred, and any other is delivered. -/
def State.trap (s : State) (c : Ctx) (t : TrapInfo) : State :=
  match c with
  | .sup u _ => s.haltCore u
  | .grp bid g =>
    let s1 := s.onGroup c (fun x => x.recordTrap t x.pc)
    match s.specTask c with
    | some (lid, _) => (s1.onGroup (.grp bid g) (fun x => { x with hold := .deferred })).taskEvent 0x047 lid
    | none => s1.deliverTrap c

/-- A trap pending without an issuing instruction (R410): it waits for the group's next issue
boundary; a group that has ended has its block terminated, resident or suspended. -/
def State.trapAsync (s : State) (bid g : Nat) (t : AsyncTrap) : State :=
  match s.group? (.grp bid g) with
  | some gr =>
    if gr.ended then s.terminateBlock bid t.cause.toNat
    else s.onGroup (.grp bid g) (fun x => { x with asyncs := x.asyncs ++ [t] })
  | none =>
    let gone := (s.images.find? (fun im => im.block.bid = bid)).any (fun im => (im.block.groups[g]?).any (·.ended))
    if gone then s.terminateImage bid t.cause.toNat else s.onGroupAny bid g (fun x => { x with asyncs := x.asyncs ++ [t] })

/-! ### Tensor record slots (R296) -/

/-- A slot once its record has arrived. -/
def TrecSlot.land : TrecSlot → TrecSlot
  | .loading _ _ _ r cause => match cause, r with
    | some c, _ => .failed c.1 c.2
    | none, some r => .valid r
    | none, none => .invalid
  | x => x

/-- The slot is being loaded by operation `pend` of group `g`. -/
def TrecSlot.loads (g pend : Nat) : TrecSlot → Bool
  | .loading g' p _ _ _ => g' = g && p = pend
  | _ => false

/-- The slots that an operation of a group loads. -/
def Block.landTrecs (b : Block) (p : TrecSlot → Bool) : Block :=
  { b with trecs := b.trecs.map (fun x => if p x.2 then (x.1, x.2.land) else x) }

/-! ### The handler (R398, R417) -/

/-- Every lane of the trapping run can take a window at depth d + 2 (R398). -/
def Group.handlerFits (g : Group) : Bool :=
  g.trapRun.all (fun l => (g.lane l).depth + 2 - g.rb < g.win)

/-- Entry to the handler at `pc` (R398). -/
def Group.enterHandler (g : Group) (svpc pc : W64) : Group :=
  let d := ((g.trapRun.map (fun l => (g.lane l).depth)).head?).getD 0
  let g1 := g.onLanes g.trapRun (fun l => { l with depth := l.depth + 2, pc := pc })
  let g2 := g1.trapRun.foldl (fun g l =>
    ((g.setVreg 0 l ⟨svpc.setWidth 32, false⟩).setVreg 1 l ⟨(svpc >>> 32).setWidth 32, false⟩).setVreg 2 l
      ⟨g.trapc, false⟩) g1
  { g2 with hb := some (d + 2), hr := g.repi, hrPc := svpc, repi := 0, hold := .none, hrSame := true }

/-- The PC a handler window's v0:v1 holds (R398, R417). -/
def Group.handlerPc (g : Group) (l : Nat) : W64 :=
  (g.vreg 0 l).v.setWidth 64 ||| ((g.vreg 1 l).v.setWidth 64 <<< 32)

/-- The return from the handler of lanes `act`, the run's others moving on (R417). -/
def Group.leaveHandler (g : Group) (act rest : List Nat) : Group :=
  let same := g.hrSame && act.all (fun l => g.handlerPc l = g.hrPc)
  let g1 := { g.advance rest with hrSame := same }
  let g2 := { g1 with lanes := g1.lanes.mapIdx (fun i l =>
    if act.contains i then { l with pc := g.handlerPc i, depth := l.depth - 2 } else l) }
  if g2.inHandler then g2
  else { g2 with hb := .none, repi := if same then g.hr else 0 }

end Sys2Proof.Machine
end

