-- ==== Sys2Proof/Machine/Operands.lean ====
section
/-! DEFINITION. Operands (R67, R71 to R73, R98, R99, R401): special registers, every operand form read
and written, the checks of R98 and R103, poison tags and their consumption (R402 to R406). -/

namespace Sys2Proof.Machine

/-! ### Special registers (Tables 4-2 and 19-3) -/

/-- MPROG of a group (R285): its oldest held or saved command's progress, else that of the last dropped. An `acc` instruction
of the matrix queue has no KIND, and is passed over (DESIGN CHOICE, log entry 85). -/
def State.mprogOf (s : State) (c : Ctx) (g : Group) : W64 :=
  match c with
  | .sup _ _ => 0
  | .grp bid i =>
    let p := s.proc (s.ctxUnit c)
    let eng := (p.cmds.filter (fun x => x.bid = bid && x.g = i && (x.held || x.saved))).map (fun x => (x.id, x.mprog))
    let mx := (p.mx.filter (fun x => x.bid = bid && x.g = i && x.saved && x.isMul)).map (fun x => (x.id, x.mprog))
    match sortBy (fun x => x.1) (eng ++ mx) with
    | x :: _ => x.2
    | [] => g.mprog

/-- The partition of a context's launch; a root block's is its caller's (R316). -/
def State.partOf (s : State) (c : Ctx) : Nat :=
  match ((s.ctxBlock? c).bind (·.call)).bind (fun k => s.calls.find? (fun r => r.id = k)) with
  | some r => r.part
  | none => ((s.ctxLaunch? c).map (fun l => l.r.part)).getD 0

/-- The group, block and lane registers of Table 4-2 for a group's context. -/
def State.groupReg (s : State) (c : Ctx) (g : Group) (i lane : Nat) : W64 :=
  let b : Block := (s.ctxBlock? c).getD { bid := 0, lid := 0, unit := 0 }
  match i with
  | 8 => w64 lane
  | 9 => match c with | .grp _ n => w64 n | .sup _ _ => 0
  | 10 => w64 (takeAt 0 b.blk 0)
  | 11 => w64 (takeAt 0 b.blk 1)
  | 12 => w64 (takeAt 0 b.blk 2)
  | 13 => w64 (takeAt 0 b.clu 0)
  | 14 => w64 (takeAt 0 b.clu 1)
  | 15 => w64 (takeAt 0 b.clu 2)
  | 16 => w64 b.stage
  | 20 => w64 g.ldcnt
  | 21 => w64 g.stcnt
  | 22 => ((s.ctxLaunch? c).map Launch.frontReg).getD 0
  | 23 => g.ts
  | 24 => g.taskid.setWidth 64
  | 26 => g.trapc.setWidth 64
  | 27 => g.trapa
  | 28 => g.trappc
  | 29 => g.psnm.setWidth 64
  | 30 => w64 (g.lane lane).depth
  | 31 => g.repi.setWidth 64
  | 32 => g.flags.setWidth 64
  | 33 => w64 (s.partOf c)
  | 35 => g.hstat.setWidth 64
  | 36 => g.qstat.setWidth 64
  | 37 => s.mprogOf c g
  | _ => 0

/-- The context whose group, block and lane registers a context reads: a supervisor slot reads those
of the group SVGRP names (R401). -/
def State.regCtx (s : State) (c : Ctx) : Ctx :=
  match c with
  | .sup u sc => (s.svTarget u sc).getD c
  | c => c

/-- A supervisor register read in a supervisor slot (Table 19-3). -/
def State.supReg (s : State) (u sc i : Nat) : W64 :=
  let p := s.sup u sc
  match i with
  | 38 => (((s.svTarget u sc).bind s.ctxLaunch?).map (fun l => l.ptroot)).getD 0
  | 39 => p.svgrp.setWidth 64
  | 40 => p.svdisp.setWidth 64
  | 41 => p.svpc
  | 42 => p.svevt.setWidth 64
  | 43 => (((s.svTarget u sc).bind s.group?).map (fun g => g.wsarea)).getD 0
  | 44 => Cells.get 0 s.wovlb (dieOf u)
  | 45 => (Cells.get 0 s.wovln (dieOf u)).setWidth 64
  | _ => 0

/-- A special or supervisor register as a lane reads it. -/
def State.specialReg (s : State) (c : Ctx) (i lane : Nat) : W64 :=
  let u := s.ctxUnit c
  match i with
  | 17 => w64 u
  | 18 => w64 (s.phase20 / 20) - (s.proc u).clkMissed
  | 19 => s.time
  | 25 => s.feat u
  | 34 => s.tfront
  | _ =>
    match c with
    | .sup u sc =>
      if 38 ≤ i then s.supReg u sc i
      else
        let t := s.regCtx c
        s.groupReg t ((s.group? t).getD {}) i lane
    | .grp _ _ => s.groupReg c ((s.group? c).getD {}) i lane

/-- FLAGS keeps its defined bits (Table 8-4). -/
def flagsMask : BitVec 32 := 0x001F003F

/-- A supervisor register written from a supervisor slot (Table 19-3, R401). -/
def State.setSupReg (s : State) (u sc i : Nat) (v : W64) : State :=
  let d := dieOf u
  let listed := s.watches.any (fun w => w.die = d && w.spilled)
  match i with
  | 38 =>
    match (s.svTarget u sc).bind s.ctxLaunch? with
    | some l => s.onLaunch l.lid (fun l => { l with ptroot := v &&& 0x000FFFFFFFFFF000 })
    | none => s
  | 39 => s.onSup u sc (fun p => { p with svgrp := v.setWidth 32 &&& 0x7F })
  | 40 => s.onSup u sc (fun p => { p with svdisp := v.setWidth 32 &&& 3 })
  | 41 => s.onSup u sc (fun p => { p with svpc := v })
  | 43 =>
    match s.svTarget u sc with
    | some t => s.onGroup t (fun g => { g with wsarea := v &&& 0xFFFFFFFFFFFFFF00 })
    | none => s
  | 44 => if listed then s else { s with wovlb := Cells.set s.wovlb d (v &&& 0xFFFFFFFFFFFFF000) }
  | 45 => if listed then s else { s with wovln := Cells.set s.wovln d (v.setWidth 32) }
  | _ => s

/-- A class-10 register of index 8 and above written (R73, R401): FLAGS, a supervisor slot's its own (assumption 110), or a
supervisor register. -/
def State.setSpecial (s : State) (c : Ctx) (i : Nat) (v : W64) : State :=
  if i = 32 then s.onGroup c (fun g => { g with flags := v.setWidth 32 &&& flagsMask })
  else match c with
    | .sup u sc => s.setSupReg u sc i v
    | .grp _ _ => s

/-! ### Reading sources (Table 6-2, R99, R163) -/

/-- An immediate as an operand of a floating type holds it exactly (R99). -/
def immFloat (f : Fmt) (k : BitVec 8) : W64 := w64 (f.outFin {} (k.toInt < 0) k.toInt.natAbs 0).bits

/-- Two 32-bit values as one of 64 bits. -/
def wide64 (lo hi : Elem32) : W64 := lo.setWidth 64 ||| (hi.setWidth 64 <<< 32)

/-- The two elements of a 64-bit pair as one value; in a tagged pair the value bits of its tagged element stand in both halves, or
each half has its own (R404, R406). -/
def joined (lo hi : Elem) : Scal :=
  match lo.tag, hi.tag with
  | true, false => ⟨wide64 lo.v lo.v, true⟩
  | false, true => ⟨wide64 hi.v hi.v, true⟩
  | tag, _ => ⟨wide64 lo.v hi.v, tag⟩

/-- A source as lane `l` reads it, with its tag. `wide` is a 64-bit operand; `f` the format of a
floating source, for immediates. -/
def State.src (s : State) (c : Ctx) (g : Group) (op : Operand) (wide : Bool) (f : Option Fmt) (l : Nat) : Scal :=
  match op with
  | .v n =>
    let lo := g.vreg n.toNat l
    if wide then
      joined lo (g.vreg (n.toNat + 1) l)
    else ⟨lo.v.setWidth 64, lo.tag⟩
  | .s n =>
    let r := g.sreg n.toNat
    ⟨if wide then r.v else zext64 32 r.v, r.tag⟩
  | .p n => ⟨if (g.lane l).pred n then 1 else 0, false⟩
  | .special i =>
    let v := s.specialReg c i.toNat l
    ⟨if wide then v else zext64 32 v, false⟩
  | .k v =>
    match f with
    | some f => ⟨immFloat f v, false⟩
    | none => ⟨if wide then v.signExtend 64 else (v.signExtend 32).setWidth 64, false⟩

/-! ### Writing destinations -/

/-- A result of a lane. -/
abbrev LaneRes := Nat × Scal

/-- A vector register, or an even pair when `wide`, written in some lanes. -/
def Group.writeV (g : Group) (n : Nat) (wide : Bool) : List LaneRes → Group
  | [] => g
  | (l, r) :: rest =>
    let g1 := g.setVreg n l ⟨r.v.setWidth 32, r.tag⟩
    let g2 := if wide then g1.setVreg (n + 1) l ⟨(r.v >>> 32).setWidth 32, r.tag⟩ else g1
    g2.writeV n wide rest

/-- The results of the active lanes delivered to a destination (Table 6-2, R71 to R73). -/
def State.dst (s : State) (c : Ctx) (op : Operand) (wide : Bool) (res : List LaneRes) : State :=
  match op with
  | .v n => s.onGroup c (fun g => g.writeV n.toNat wide res)
  | .s n =>
    match res with
    | [] => s
    | (_, r) :: _ => s.onGroup c (fun g => g.setSreg n.toNat ⟨if wide then r.v else zext64 32 r.v, r.tag⟩)
  | .p n =>
    s.onGroup c (fun g => { g with lanes := g.lanes.mapIdx (fun i x =>
      match res.find? (fun r => r.1 = i) with
      | some r => x.setPred n (r.2.v != 0)
      | none => x) })
  | .special i =>
    match res with
    | [] => s
    | (_, r) :: _ => s.setSpecial c i.toNat r.v
  | .k _ => s

/-- A 64-bit result of a lane as its two 32-bit elements. -/
abbrev PairRes := Nat × Elem × Elem

/-- 64-bit results delivered: a vector pair takes each element with its own tag (R404). -/
def State.dstPair (s : State) (c : Ctx) (op : Operand) (res : List PairRes) : State :=
  match op with
  | .v n => s.onGroup c (fun g => res.foldl (fun g r =>
      (g.setVreg n.toNat r.1 r.2.1).setVreg (n.toNat + 1) r.1 r.2.2) g)
  | _ => s.dst c op true (res.map (fun r => (r.1, joined r.2.1 r.2.2)))

/-- Which 32-bit elements of a 64-bit source each element of a 64-bit result depends on (R404): every element; the one of
its own half; for the low element the low one alone; none for the high element; or, for the low element and then for the high one,
the low and the high element as stated. -/
inductive Dep where
  | all | halves | carry | low
  | bits (ll lh hl hh : Bool)
  deriving DecidableEq, Repr

/-- A half of a result depends on a half of a source. -/
def Dep.uses (d : Dep) (hi srcHi : Bool) : Bool :=
  match d with
  | .all => true
  | .halves => hi == srcHi
  | .carry => hi || !srcHi
  | .low => !hi
  | .bits ll lh hl hh => if hi then (if srcHi then hh else hl) else (if srcHi then lh else ll)

/-- The dependence of a result whose bit `i` is bit `f i` of the source, or no bit of it. -/
def Dep.ofBits (f : Nat → Option Nat) : Dep :=
  let from_ (base src : Nat) : Bool := (List.range 32).any (fun i => (f (base + i)).any (fun j => j / 32 = src))
  .bits (from_ 0 0) (from_ 0 1) (from_ 32 0) (from_ 32 1)

/-- A half of a result depends on a source that is one element. -/
def Dep.usesOne (d : Dep) (hi : Bool) : Bool :=
  match d with
  | .low => !hi
  | _ => true

/-- The value bits that half `hi` of a result takes from a source of lane `l`, when an element it depends on is tagged. -/
def Group.halfTag (g : Group) (d : Dep) (hi : Bool) (op : Operand) (wide : Bool) (l : Nat) : Option Elem32 :=
  match op with
  | .v n =>
    if wide then [hi, !hi].findSome? (fun k =>
      let e := g.vreg (n.toNat + k.toNat) l
      if d.uses hi k && e.tag then some e.v else none)
    else if d.usesOne hi && (g.vreg n.toNat l).tag then some (g.vreg n.toNat l).v else none
  | .s n =>
    let r := g.sreg n.toNat
    if d.usesOne hi && r.tag then some (if hi && wide then (r.v >>> 32).setWidth 32 else r.v.setWidth 32) else none
  | _ => none

/-- The value of a source, whatever its tags. -/
def State.raw (s : State) (c : Ctx) (g : Group) (op : Operand) (wide : Bool) (f : Option Fmt) (l : Nat) : W64 :=
  match op with
  | .v n =>
    if wide then wide64 (g.vreg n.toNat l).v (g.vreg (n.toNat + 1) l).v
    else (g.vreg n.toNat l).v.setWidth 64
  | op => (s.src c g op wide f l).v

/-! ### What an instruction asks of its operands (check 5 of Table 5-1) -/

/-- The operand fields. -/
inductive Pos where
  | d | a | b | c
  deriving DecidableEq, Repr

/-- One operand position of an instruction: which classes it takes, how wide, how many registers its
vector run has, whether it is a destination, and whether its tag is consumed (R405). -/
structure Slot where
  pos : Pos
  op : Operand
  wide : Bool := false
  run : Nat := 1
  okV : Bool := true
  okS : Bool := true
  okP : Bool := true
  okSp : Bool := true
  okK : Bool := true
  dst : Bool := false
  consumed : Bool := false
  /-- lanes that read a consumed operand; none for every active lane -/
  low : Bool := false
  /-- lanes at or above it do not read the operand -/
  upto : Nat := 64
  deriving DecidableEq, Repr

/-- The registers a vector operand of the slot spans. -/
def Slot.span (x : Slot) : Nat := x.run * (if x.wide then 2 else 1)

/-- A vector number is allowed at a slot (R99). -/
def Slot.vecOk (x : Slot) (n : Nat) : Bool := n + x.span ≤ 64 && (!x.wide || n % 2 = 0)

/-- An operand is allowed at its slot (R71, R73, R98, R99, R401); `nscal` is SCALARS. -/
def Slot.allowed (x : Slot) (sup : Bool) (nscal : Nat) : Bool :=
  match x.op with
  | .v n => x.okV && x.vecOk n.toNat
  | .s n => x.okS && n.toNat < nscal
  | .p _ => x.okP
  | .special i =>
    x.okSp && i.toNat < 64 && (!x.dst || i.toNat = 32 || (sup && 38 ≤ i.toNat)) && (i.toNat < 46 || !sup)
  | .k _ => x.okK

/-- The operand is a supervisor register (check 4). -/
def Slot.privileged (x : Slot) : Bool :=
  match x.op with
  | .special i => 38 ≤ i.toNat && i.toNat < 64
  | _ => false

/-! ### The steps of `rep` (R102, R103) -/

/-- A 4-bit step. -/
def stepOf (b : BitVec 4) : Int := b.toInt

/-- The step of a position. -/
def RepMod.step (r : RepMod) : Pos → Int
  | .d => stepOf r.dstep
  | .a => stepOf r.astep
  | .b => stepOf r.bstep
  | .c => stepOf r.cstep

/-- The count of a `rep`. -/
def repCount (r : RepMod) : Nat := r.cntm.toNat + 1

/-- The number an operand has in iteration `i`. -/
def stepped (n : Nat) (i : Nat) (st : Int) : Int := (n : Int) + i * st

/-- An operand of iteration `i` (R102). -/
def stepOperand (r : RepMod) (p : Pos) (i : Nat) : Operand → Operand
  | .v n => .v (BitVec.ofInt 6 (stepped n.toNat i (RepMod.step r p)))
  | .s n => .s (BitVec.ofInt 6 (stepped n.toNat i (RepMod.step r p)))
  | op => op

/-- A slot is legal in every iteration of a `rep` (R103). -/
def Slot.repOk (x : Slot) (r : RepMod) (nscal : Nat) : Bool :=
  let st := RepMod.step r x.pos
  match x.op with
  | .v n => (List.range (repCount r)).all (fun i =>
      let k := stepped n.toNat i st
      0 ≤ k && x.vecOk k.toNat)
  | .s n => (List.range (repCount r)).all (fun i =>
      let k := stepped n.toNat i st
      0 ≤ k && k < nscal)
  | _ => st = 0

/-- Every step of a `rep` falls on a used field and every number stays in range (R103). -/
def repLegal (r : RepMod) (slots : List Slot) (nscal : Nat) : Bool :=
  [Pos.d, Pos.a, Pos.b, Pos.c].all (fun p => RepMod.step r p = 0 || slots.any (fun x => x.pos = p))
    && slots.all (fun x => x.repOk r nscal)

/-! ### Tags (R402 to R406) -/

/-- The codes of Table 19-2. -/
def isCause (c : Nat) : Bool :=
  (1 ≤ c && c ≤ 6) || (8 ≤ c && c ≤ 0x0E) || [0x10, 0x12, 0x14, 0x15, 0x18, 0x19, 0x1A].contains c

/-- The first tagged source, in the order given. -/
def firstTag : List Scal → Option Scal
  | [] => none
  | x :: r => if x.tag then some x else firstTag r

/-- A result with the tag rule of R404: the value bits of the first tagged source, else `v`. -/
def tagged (srcs : List Scal) (v : W64) : Scal :=
  match firstTag srcs with
  | some t => ⟨t.v, true⟩
  | none => ⟨v, false⟩

/-- The 32-bit element of an operand that a lane consumes: the first tagged half (R406). -/
def Group.consumedElem (g : Group) (op : Operand) (wide : Bool) (l : Nat) : Option W64 :=
  match op with
  | .v n =>
    let lo := g.vreg n.toNat l
    let hi := g.vreg (n.toNat + 1) l
    if lo.tag then some (lo.v.setWidth 64) else if wide && hi.tag then some (hi.v.setWidth 64) else none
  | .s n => let r := g.sreg n.toNat; if r.tag then some r.v else none
  | _ => none

/-- The first tagged register of a slot's vector run in a lane. -/
def Group.slotTagged (g : Group) (x : Slot) (op : Operand) (l : Nat) : Option W64 :=
  match op with
  | .v n => (List.range x.run).findSome? (fun k =>
      g.consumedElem (.v (n + BitVec.ofNat 6 (k * (if x.wide then 2 else 1)))) x.wide l)
  | op => g.consumedElem op x.wide l

/-- The consumption trap of R406: the lanes that consume a tagged element, each with the element's
value bits, lowest lane first. -/
def Group.consumeTrap (g : Group) : List (Nat × W64) → Option TrapInfo
  | [] => none
  | (l, w) :: r =>
    let psnm := some (BitVec.ofNat 32 (laneMask (l :: r.map (·.1))))
    let c := w.toNat % 256
    if isCause c then some { cause := c, cons := true, addr := Cells.get 0 g.origins (field w.toNat 8 6), psnm }
    else some { cause := 0x0B, cons := true, addr := 0, psnm }

/-- The lanes that consume a tagged element of the consumed slots (R405). -/
def Group.consumption (g : Group) (slots : List (Slot × Operand)) (act : List Nat) : Option TrapInfo :=
  let used := slots.filter (fun x => x.1.consumed && !x.1.dst)
  let reads (x : Slot) (l : Nat) : Bool := decide (l < x.upto) && (!x.low || act.head? = some l)
  g.consumeTrap (act.filterMap (fun l =>
    (used.findSome? (fun x => if reads x.1 l then g.slotTagged x.1 x.2 l else none)).map (fun w => (l, w))))

end Sys2Proof.Machine
end

