-- ==== Sys2Proof/Machine/Flags.lean ====
section
/-! DEFINITION. FLAGS and the FPX trap (R132, R133, R164). -/

namespace Sys2Proof.Machine

/-- The exceptions whose EN bit is set among those raised (Table 8-4). -/
def enabledOf (flags : BitVec 32) (raised : Nat) : Nat := field flags.toNat 16 5 &&& raised

/-- The lanes that raised an enabled exception. -/
def fpxLanes (flags : BitVec 32) (raised : List (Nat × Nat)) : List Nat :=
  (raised.filter (fun r => enabledOf flags r.2 != 0)).map (·.1)

/-- The OR of the exceptions of some lanes. -/
def orFlags (raised : List (Nat × Nat)) : Nat := raised.foldl (fun m r => m ||| r.2) 0

/-- The FPX trap of a run, given each lane's exceptions (R133). -/
def fpxOf (flags : BitVec 32) (raised : List (Nat × Nat)) : Option TrapInfo :=
  match fpxLanes flags raised with
  | [] => none
  | ls => some { cause := 0x10, addr := w64 (laneMask ls + enabledOf flags (orFlags raised) * 2 ^ 32) }

/-- FLAGS with the exceptions of a run ORed in (R132). -/
def Group.accrue (g : Group) (raised : List (Nat × Nat)) : Group :=
  { g with flags := g.flags ||| BitVec.ofNat 32 (orFlags raised % 64) }

end Sys2Proof.Machine
end

