-- ==== Sys2Proof/Machine/Issue.lean ====
section
/-! DEFINITION. Issue (R83, R88, R89, R92, R100 to R104, R376): what keeps a context from issuing, the
checks of Table 5-1 in order, and how a run moves on. -/

namespace Sys2Proof.Machine

/-- The flags and features of an instruction's row in the opcode map (R117). -/
structure RowInfo where
  rpt : Bool := false
  coll : Bool := false
  sup : Bool := false
  hdl : Bool := false
  noRoot : Bool := false
  rootOnly : Bool := false
  feat : Nat := 0
  /-- parks a speculative task in every case (Table 18-2) -/
  parks : Bool := false
  /-- counts in LDCNT, or in STCNT, at issue (R93) -/
  ld : Bool := false
  st : Bool := false
  deriving DecidableEq, Repr

/-- Feature bits a type needs (R112). -/
def tyFeat : Ty → Nat
  | .f64 => 0x200
  | .e3m2 | .e2m3 => 0x8
  | .e2m1 => 0x4
  | .x64 => 0x10
  | _ => 0

/-- What an instruction does once its issue checks have passed. -/
inductive Effect where
  /-- it completes and the run moves on -/
  | done (s : State)
  /-- it completes and has set the lanes' PCs itself -/
  | goto (s : State)
  /-- it is performed and holds the group; the run moves on when the hold ends -/
  | held (s : State)
  /-- it cannot issue yet (R88) -/
  | wait
  /-- it cannot issue yet, and its attempt leaves this state -/
  | waitIn (s : State)
  /-- it raises a trap of check 7 -/
  | trap (s : State) (t : TrapInfo)

/-- What a meaning sees: the context, its group, the lanes of the run with a true guard, and the
operands of this issue. -/
structure View where
  c : Ctx
  g : Group
  act : List Nat
  op : Pos → Operand

/-- The lowest-numbered active lane. -/
def View.low (v : View) : Nat := v.act.headD 0

/-- The context is a supervisor slot. -/
def View.sup (v : View) : Bool := isSupCtx v.c

/-- The WAITC condition holds (R92). -/
def Group.waitcOk (g : Group) (h : Head) : Bool :=
  (!h.hints.waitc.getLsbD 0 || g.ldcnt = 0) && (!h.hints.waitc.getLsbD 1 || g.stcnt = 0)

/-- The context's task stalls for version space, until an entry is free (R383). -/
def State.stalledTask (s : State) (c : Ctx) : Bool :=
  match s.specTask c with
  | some (lid, n) => (((s.launch? lid).bind (·.task? n)).bind (·.stalled)).isSome
  | none => false

/-- The word waits before its checks: for WAITC (R92), for room in a counter (R93), parked (R376), or stalled
(R383). -/
def State.waitsFirst (s : State) (c : Ctx) (g : Group) (h : Head) (row : RowInfo) : Bool :=
  !g.waitcOk h || (row.ld && 255 ≤ g.ldcnt) || (row.st && 255 ≤ g.stcnt) || (row.parks && (s.specTask c).isSome)
    || s.stalledTask c

/-- The operand of a position in this issue: stepped under `rep` (R102). -/
def opOf (g : Group) (slots : List Slot) (p : Pos) : Operand :=
  match slots.find? (fun x => x.pos = p) with
  | none => .k 0
  | some x => match g.rep with
    | none => x.op
    | some r => stepOperand r p g.repi.toNat x.op

/-- The registers that a destination of a load takes. -/
def Dest.parts : Dest → List Dest
  | .vpair n l => [.vreg n l, .vreg (n + 1) l]
  | .nowhere => []
  | d => [d]

/-- The registers that some lanes read through the source slots of a word. -/
def Group.readsOf (g : Group) (slots : List Slot) (act : List Nat) : List Dest :=
  (slots.filter (fun x => !x.dst)).flatMap (fun x => match opOf g slots x.pos with
    | .v n => act.flatMap (fun l => (List.range x.span).map (fun k => Dest.vreg (g.slotOf (g.lane l).depth (n.toNat + k)) l))
    | .s n => if act.isEmpty then [] else [.sreg n.toNat]
    | _ => [])

/-- Every earlier iteration of the group's `rep` has written its destinations (R102). -/
def Group.iterationsDone (g : Group) : Bool :=
  g.rep.isNone || g.repi = 0 || !g.pend.any (fun p => p.load && p.iter = g.iterMark)

/-- An iteration of a `rep` waits until an earlier one has written the registers that it reads (R102). -/
def State.awaitsIteration (s : State) (c : Ctx) (g : Group) (h : Head) (slots : List Slot) : Bool :=
  if g.iterationsDone then false
  else
    let mine := g.pend.filter (fun p => p.load && p.iter = g.iterMark)
    let reads := g.readsOf slots (g.active h)
    let into (d : Dest) : Bool := d.parts.any reads.contains
    mine.any (fun p => p.elems.any (fun e => !e.given && into e.dst))
      || s.units.any (fun u => u.2.grans.any (fun a => a.ctx = c && mine.any (fun p => p.id = a.pend) && a.parts.any (fun x => into x.dst)))

/-- The context may be chosen to issue: its unit runs, it has a live lane, no STALL and no hold
(R88, R89). -/
def State.canIssue (s : State) (c : Ctx) (g : Group) : Bool :=
  let p := s.proc (s.ctxUnit c)
  !p.halted && !s.unitDead (s.ctxUnit c) && p.power = .c0 && g.alive && !g.ended && g.stall = 0
    && (match g.hold with | .none | .acquire _ | .wcnt _ _ _ _ => true | _ => false)
    && (match c with | .sup u sc => (s.sup u sc).active | .grp _ _ => true)

/-- The pending asynchronous trap that an issue boundary delivers, oldest first: an engine fault waits while the
trap of a held command has not returned (R284, R410). -/
def Group.dueAsync (g : Group) : Option AsyncTrap := g.asyncs.find? (fun a => !(a.engine && g.svcCmd.isSome))

/-- An asynchronous trap taken at the group's issue boundary (R284, R285, R410). -/
def State.takeAsync (s : State) (c : Ctx) (a : AsyncTrap) : State :=
  let s1 := s.onGroup c (fun g =>
    { g with
      asyncs := g.asyncs.erase a, svcCmd := if a.cmd.isSome then a.cmd else g.svcCmd, mprog := a.mprog.getD g.mprog })
  s1.trap c { cause := a.cause.toNat, addr := a.addr, write := a.write, cmd := a.cmd.isSome }

/-- SCALARS of a context. -/
def nscalOf (c : Ctx) (g : Group) : Nat := if isSupCtx c then 64 else g.nscal

/-- NEEDFEAT of a context's image; the supervisor runs under FEAT alone (R83). -/
def State.needfeat (s : State) (c : Ctx) : W64 :=
  if isSupCtx c then BitVec.allOnes 64 else ((s.ctxLaunch? c).map (fun (l : Launch) => l.img.needfeat)).getD 0

/-- Checks 2 to 6 of Table 5-1, with consumption after check 5 (R405). -/
def State.issueCheck (s : State) (c : Ctx) (g : Group) (h : Head) (row : RowInfo) (slots : List Slot) : Option TrapInfo :=
  let u := s.ctxUnit c
  let nscal := nscalOf c g
  let now := slots.map (fun x => (x, opOf g slots x.pos))
  let act := g.active h
  if g.rep.isSome && !row.rpt then some { cause := 0x01 }
  else if row.noRoot && isRoot u then some { cause := 0x01, sub := 1 }
  else if row.rootOnly && !isRoot u then some { cause := 0x01 }
  else if row.feat &&& (s.feat u &&& s.needfeat c).toNat != row.feat then some { cause := 0x0D }
  else if row.sup && !isSupCtx c then some { cause := 0x06 }
  else if row.hdl && !isSupCtx c && !g.inHandler then some { cause := 0x06 }
  else if !isSupCtx c && slots.any Slot.privileged then some { cause := 0x06 }
  else if !(slots.all (fun x => x.allowed (isSupCtx c) nscal)) then some { cause := 0x02 }
  else if (match g.rep with | some r => !repLegal r slots nscal | none => false) then some { cause := 0x02 }
  else match g.consumption now act with
    | some t => some t
    | none =>
      if row.coll && act.length != g.width then some { cause := 0x03, addr := w64 (laneMask g.run) } else none

/-- A unit's books after an issue by a group: one that has issued 64 runs in a row starts again (R89). -/
def Proc.noteIssue (p : Proc) (sched : Nat) (c : Ctx) (yld : Bool) : Proc :=
  let n := match Cells.find p.lastSlot sched with
    | some (k, n, _) => if k = c && n < 64 then n + 1 else 1
    | none => 1
  { p with issues := p.issues + 1, lastSlot := Cells.set p.lastSlot sched (c, n, yld), still := Cells.erase p.still sched }

/-- The scheduler's books after an issue (R89, R449). -/
def State.issued (s : State) (c : Ctx) (yld : Bool) : State :=
  let u := s.ctxUnit c
  let s1 := s.unitEvent u 0x002 1
  match c, s1.group? c with
  | .grp _ _, some g =>
    (s1.onGroup c (fun x => { x with lastIssue := s1.phase20, issueNo := (s1.proc u).issues + 1 })).onProc u
      (fun p => p.noteIssue g.sched c yld)
  | _, _ => s1

/-- The run of a completed instruction moves on: to PC + 12, or to the next iteration of its `rep`,
or past the repeated word (R86, R102). -/
def Group.moveOn (g : Group) (run : List Nat) : Group :=
  match g.rep with
  | none => g.advance run
  | some r =>
    if g.repi.toNat + 1 < repCount r then { g with repi := g.repi + 1 }
    else { g.onLanes run (fun l => { l with pc := l.pc + 24 }) with repi := 0, rep := .none }

/-- STALL of an issued word (R91). -/
def Group.stalled (g : Group) (h : Head) : Group := { g with stall := h.hints.stall.toNat }

/-- The condition of a `wcnt` holds (R145). -/
def Group.counted (g : Group) (ldmax stmax : Nat) : Bool := g.ldcnt ≤ ldmax && g.stcnt ≤ stmax

/-- A `wcnt` holds its group no longer: it completes where its condition holds, and otherwise issues again after the trap that comes
first (R145, R410), which is the model's choice (assumption 117). -/
def State.endWcnt (s : State) (c : Ctx) (ldmax stmax stall : Nat) (yld : Bool) : State :=
  if ((s.group? c).getD {}).counted ldmax stmax then
    (s.onGroup c (fun g => { g.advance g.run with hold := .none, stall })).issued c yld
  else s.onGroup c (fun g => { g with hold := .none })

/-- What held the group until its next issue boundary is over: the acquire that a `hold`, a `cbar` or an `lwait` left is performed
(R56, R258, R336), and a `wcnt` holds it no longer. -/
def State.settleHold (s : State) (c : Ctx) (g : Group) : State :=
  match g.hold with
  | .acquire sc => (s.acquire c sc).onGroup c (fun g => { g with hold := .none })
  | .wcnt ldmax stmax stall yld => s.endWcnt c ldmax stmax stall yld
  | _ => s

/-- The chosen context at its issue boundary: a blocked context stays as it is; an acquire left to it is performed (R258), and a
`wcnt` whose condition holds completes (R145); a pending asynchronous trap comes next (R410); the group of a `wcnt` issues nothing
more; and the word waits for its own condition before `k` (R92). -/
def State.atIssue (s : State) (waits : State → Ctx → Group → Bool)
    (k : State → Ctx → Group → Host.Outcome State Fault Refusal) : Host.Outcome State Fault Refusal :=
  match s.sel with
  | none => .fault .noIssuer
  | some c =>
    match s.group? c with
    | none => .fault .noIssuer
    | some g0 =>
      if !s.canIssue c g0 then .next s
      else
        let s1 := s.settleHold c g0
        match g0.dueAsync with
        | some a => .next (s1.takeAsync c a)
        | none =>
          match g0.hold with
          | .wcnt ldmax stmax _ _ => .next (if g0.counted ldmax stmax then s1 else s)
          | _ =>
            let g := (s1.group? c).getD g0
            if waits s1 c g then .next s1 else k s1 c g

/-- What follows from an instruction's own effect. -/
def State.finish (s1 : State) (c : Ctx) (h : Head) (run : List Nat) : Effect → Host.Outcome State Fault Refusal
  | .done s2 => .next ((s2.onGroup c (fun x => (x.moveOn run).stalled h)).issued c h.hints.yld)
  | .goto s2 => .next ((s2.onGroup c (fun x => x.stalled h)).issued c h.hints.yld)
  | .held s2 => .next (s2.issued c h.hints.yld)
  | .wait => .next s1
  | .waitIn s2 => .next s2
  | .trap s2 t => .next (s2.trap c t)

/-- An instruction issued by the chosen context: the checks, and its own effect in the lanes whose
guard is true (R83, R100). -/
def State.issue (s : State) (h : Head) (row : RowInfo) (slots : List Slot)
    (body : State → View → Effect) : Host.Outcome State Fault Refusal :=
  s.atIssue (fun s c g => s.waitsFirst c g h row || s.awaitsIteration c g h slots) (fun s1 c g =>
    match s1.issueCheck c g h row slots with
    | some t => .next (s1.trap c t)
    | none =>
      let act := g.active h
      s1.finish c h g.run (if act.isEmpty then .done s1 else body s1 { c, g, act, op := opOf g slots }))

/-- A trap of check 1 or 2 of Table 5-1 raised by the chosen context for a word with these WAITC bits
(R92). -/
def State.raiseAtIssue (s : State) (waitc : BitVec 2) (t : TrapInfo) : Host.Outcome State Fault Refusal :=
  s.atIssue (fun _ _ g => (waitc.getLsbD 0 && g.ldcnt != 0) || (waitc.getLsbD 1 && g.stcnt != 0))
    (fun s1 c _ => .next (s1.trap c t))

/-! ### Shapes that families share -/

/-- A destination slot. -/
def slotD (op : Operand) (wide : Bool) : Slot := { pos := .d, op, wide, dst := true }

/-- A source slot; the sources of an instruction that writes a predicate are consumed (R405). -/
def slotS (pos : Pos) (op : Operand) (wide : Bool) (d : Operand) : Slot :=
  { pos, op, wide, consumed := match d with | .p _ => true | _ => false }

/-- A source and its reading: position, width, and format for immediates. -/
abbrev Reading := Pos × Bool × Option Fmt

/-- The sources of a lane. -/
def State.readings (s : State) (v : View) (srcs : List Reading) (l : Nat) : List (Pos × Scal) :=
  srcs.map (fun x => (x.1, s.src v.c v.g (v.op x.1) x.2.1 x.2.2 l))

/-- The value of a position among a lane's sources. -/
def valueAt (xs : List (Pos × Scal)) (p : Pos) : W64 := ((xs.find? (fun x => x.1 = p)).map (·.2.v)).getD 0

/-- The dependence of a 64-bit result on each source, given the sources' values (R404). -/
abbrev Deps := (Pos → W64) → Pos → Dep

/-- One dependence on every source, whatever the values. -/
def deps (d : Dep) : Deps := fun _ _ => d

/-- A lane's 64-bit result as two elements, each with the tag of those it depends on (R404). -/
def State.pairOf (s : State) (v : View) (srcs : List Reading) (dep : Deps) (f : (Pos → W64) → W64) (l : Nat) : PairRes :=
  let at_ (p : Pos) : W64 := match srcs.find? (fun x => x.1 = p) with
    | some x => s.raw v.c v.g (v.op p) x.2.1 x.2.2 l
    | none => 0
  let half (hi : Bool) : Elem :=
    match srcs.findSome? (fun x => v.g.halfTag (dep at_ x.1) hi (v.op x.1) x.2.1 l) with
    | some b => ⟨b, true⟩
    | none => ⟨(if hi then f at_ >>> 32 else f at_).setWidth 32, false⟩
  (l, half false, half true)

/-- Every active lane's result is a value of its own sources (R140), with the tags of R404. -/
def State.laneResults (s : State) (v : View) (srcs : List Reading) (f : (Pos → W64) → W64) : List LaneRes :=
  v.act.map (fun l =>
    let xs := s.readings v srcs l
    (l, tagged (xs.map (·.2)) (f (valueAt xs))))

/-- The active lanes' values of their sources delivered to D, the halves of a 64-bit one each with its own tag. -/
def State.laned (s : State) (v : View) (wd : Bool) (srcs : List Reading) (dep : Deps) (f : (Pos → W64) → W64) : State :=
  if wd then s.dstPair v.c (v.op .d) (v.act.map (s.pairOf v srcs dep f))
  else s.dst v.c (v.op .d) false (s.laneResults v srcs (fun x => zext64 32 (f x)))

/-- An instruction that only writes a value of its sources to its destination. -/
def State.perLane (s : State) (h : Head) (row : RowInfo) (slots : List Slot) (wd : Bool) (srcs : List Reading)
    (f : (Pos → W64) → W64) (dep : Deps := deps .all) : Host.Outcome State Fault Refusal :=
  s.issue h row slots (fun s v => .done (s.laned v wd srcs dep f))

/-- Register `j` of a vector run. -/
def runOperand (op : Operand) (j : Nat) : Operand :=
  match op with
  | .v n => .v (n + BitVec.ofNat 6 j)
  | op => op

/-- A predicate-only operand, and a destination that is a predicate. -/
def slotP (pos : Pos) (op : Operand) (dst : Bool) : Slot :=
  { pos, op, okV := false, okS := false, okSp := false, okK := false, dst }

/-- A scalar operand of 64 bits. -/
def scalarSlot (pos : Pos) (op : Operand) : Slot :=
  { pos, op, wide := true, okV := false, okP := false, okSp := false, okK := false, consumed := true }

end Sys2Proof.Machine
end

