-- ==== Sys2Proof/Machine/Fetch.lean ====
section
/-! DEFINITION. Instruction fetch (R78 to R82, R307): the code range, translation, the instruction
caches, and the words fetched ahead. -/

namespace Sys2Proof.Machine

/-- How a fetch ends: a word, or the trap of check 1 of Table 5-1. -/
abbrev FetchEnd := Except TrapInfo Word96

/-- Every byte of a range lies in the code range of the context's image (R29, R78); the supervisor's
own code has no image. -/
def State.inCode (s : State) (c : Ctx) (pc : W64) (n : Nat) : Bool :=
  match c with
  | .sup _ _ => true
  | .grp _ _ =>
    match s.ctxLaunch? c with
    | none => false
    | some l =>
      let off := (pc - l.r.imageva).toNat
      l.img.codeoff ≤ off && off + n ≤ l.img.codeoff + l.img.codelen

/-- Lines of an instruction cache: 64 KiB on a core, 32 KiB on a root core, in 4 ways (R306). -/
def icacheSets (u : Nat) : Nat := if isRoot u then 64 else 128

/-- The key of a line read under a key slot. -/
def icacheKey (line k : Nat) : Nat := line * 1024 + k

/-- A line placed in an instruction cache; a full set gives up the line lowest in key order. -/
def Proc.icacheAdd (p : Proc) (u line k : Nat) (d : BitVec 1024) : Proc :=
  let n := icacheSets u
  let mates := p.icache.filter (fun e => e.1 / 1024 % n = line % n && e.1 != icacheKey line k)
  let c := match mates with
    | a :: _ => if 4 ≤ mates.length then Cells.erase p.icache a.1 else p.icache
    | [] => p.icache
  { p with icache := Cells.set c (icacheKey line k) d }

/-- The words of a line that differ from its home's, each the kept one or the home's by a choice of the part (R82,
assumption 79). -/
def mixedLine (pick : W64) (kept home : BitVec 1024) : BitVec 1024 :=
  (List.range 32).foldl (fun d w =>
    if pick.getLsbD w then
      (List.range 4).foldl (fun d i => setLineByte d (4 * w + i) (lineByte home (4 * w + i))) d
    else d) kept

/-- A line as a unit fetches it: from its instruction cache, each word of it as it was or as its home now holds it, else from
the line's home (R78, R82). -/
def State.icacheLine (s : State) (u : Nat) (r : Reader) (line : Nat) : State × Option (BitVec 1024) :=
  match Cells.find (s.proc u).icache (icacheKey line r.key) with
  | some d =>
    let now := s.lineUnder r.key line
    if d = now then (s, some d)
    else
      let (pick, s1) := s.free
      (s1, some (mixedLine pick d now))
  | none =>
    let s1 := s.homeTouch r (128 * line)
    if s1.homeBad line then (s1, none)
    else
      let d := s1.lineUnder r.key line
      (s1.onProc u (fun p => p.icacheAdd u line r.key d), some d)

/-- The bytes of a fetch that lie in one line: `n` from `va`. -/
def State.fetchPart (s : State) (c : Ctx) (va : W64) (n : Nat) : State × Except TrapInfo (List Byte) :=
  let u := s.ctxUnit c
  match s.translate (s.xctx c) 0 .fetch va with
  | (s1, .error cause) => (s1, .error { cause := cause, addr := va })
  | (s1, .ok x) =>
    if !s1.walkable x.pa then (s1, .error { cause := 0x0A, addr := va })
    else
      match s1.icacheLine u (s1.reader c x) (x.pa / 128) with
      | (s3, none) => (s3, .error { cause := 0x0B, addr := va })
      | (s3, some d) => (s3, .ok ((List.range n).map (fun i => lineByte d (x.pa % 128 + i))))

/-- The fetch of the word at `pc` (R78). A word with a byte outside the code range raises PROT with TRAPA `pc`, before the
translation of any of its bytes is tried (assumption 97). -/
def State.fetchNow (s : State) (c : Ctx) (pc : W64) : State × FetchEnd :=
  if pc.toNat % 4 != 0 then (s, .error { cause := 0x08, addr := pc })
  else if !s.inCode c pc 12 then (s, .error { cause := 0x0A, addr := pc })
  else
    let n := min 12 (128 - pc.toNat % 128)
    match s.fetchPart c pc n with
    | (s1, .error t) => (s1, .error t)
    | (s1, .ok bs) =>
      if n = 12 then (s1, .ok (wordOfBytes bs))
      else
        match s1.fetchPart c (pc + w64 n) (12 - n) with
        | (s2, .error t) => (s2, .error t)
        | (s2, .ok bs2) => (s2, .ok (wordOfBytes (bs ++ bs2)))

/-- The word a context issues at `pc`: one fetched ahead when it holds one (R79). -/
def State.fetchAt (s : State) (c : Ctx) (pc : W64) : State × FetchEnd :=
  match ((s.group? c).getD {}).ahead.find? (fun a => a.1 = pc) with
  | some a => (s, .ok a.2)
  | none => s.fetchNow c pc

/-- A fetch made ahead of issue; one that fails raises nothing (R79). -/
def State.fetchAhead (s : State) (c : Ctx) (pc : W64) : State :=
  match s.fetchNow c pc with
  | (s1, .error _) => s1
  | (s1, .ok w) => s1.onGroup c (fun g => { g with ahead := (pc, w) :: g.ahead.filter (fun a => a.1 != pc) })

/-- The lines of a physical range invalidated in one instruction cache (R419). -/
def Proc.icacheDrop (p : Proc) (lines : List Nat) : Proc :=
  { p with icache := p.icache.filter (fun e => !lines.contains (e.1 / 1024)) }

/-- The lines of a physical range invalidated in every instruction cache (R81, R419). -/
def State.icacheDropAll (s : State) (lines : List Nat) : State :=
  { s with units := s.units.map (fun u => (u.1, u.2.icacheDrop lines)) }

/-- The PC of the word the chosen context issues next: the word after an armed `rep` (R102), else the
run's. -/
def Group.issuePc (g : Group) : W64 := if g.rep.isSome then g.pc + 12 else g.pc

end Sys2Proof.Machine
end

