-- ==== Sys2Proof/Machine/Program.lean ====
section
/-! DEFINITION. A state in which one word runs next (assumption 5): what the launch of an image with
one code word, its acceptance and its placement leave behind, by the shortest route. -/

namespace Sys2Proof.Machine

/-- The launch of the program: its code range is one word (R29). -/
def progLaunch : Launch :=
  { lid := 1
    r := { imageva := 0x10000, window := 4, scalars := 64, keyslot := 0 }
    img := { needfeat := BitVec.allOnes 64, codelen := 12, window := 4, scalars := 64 }
    ptroot := 0x1000, queue := some 0 }

/-- Its one group, on scheduler 0 and slot 0 (R75). -/
def progGroup : Group :=
  { win := 4, nscal := 64, lanes := List.replicate 32 { pc := 0x10100 } }

/-- Its one block, on core 0. -/
def progBlock : Block := { bid := 1, lid := 1, unit := 0, segLen := 208, spLen := 0x1000, accLen := 0x8000, groups := [progGroup] }

/-- Page tables that map virtual 0 to 1 GiB onto HBM from address 0 (Table 11-2). -/
def progTables : List (Nat × Nat) :=
  [(0x1000, 0x4000000000002001), (0x2000, 0x4000000000003001), (0x3000, 0xC0F)]

/-- The lines that hold the page tables and the word. -/
def progLines : List Nat := [0x20, 0x40, 0x60, 0x202]

/-- A core that may issue and holds nothing fetched before. -/
def Proc.cleared (p : Proc) : Proc := { p with halted := false, power := .c0, icache := [], itlb := [], dtlb := [] }

/-- A word that a group of core 0 issues next. -/
def State.withProgram (s : State) (w : Nat) : State :=
  { s with
    turns := [.issue (.grp 1 0)]
    launches := [progLaunch]
    blocks := [progBlock]
    dead := []
    units := Cells.set s.units 0 (s.proc 0).cleared
    keyOf := s.keyOf.filter (fun e => !progLines.contains e.1)
    poison := s.poison.filter (fun l => !progLines.contains l)
    colErr := s.colErr.filter (fun c => !progLines.contains (c / 4))
    mem := Memory.writeN (progTables.foldl (fun m e => Memory.writeN m e.1 (leBytes e.2 8)) s.mem) 0x10100 (leBytes w 12) }

end Sys2Proof.Machine
end

