-- ==== Sys2Proof/Machine/Regs.lean ====
section
/-! DEFINITION. Registers that lie in the on-chip map: the package configuration block (R20 to R22), the
launch queue blocks (R39, R40), the partition blocks (R50 to R53) and the units' control registers
(R327, R449). -/

namespace Sys2Proof.Machine

/-! ### The package configuration block (Tables 1-5 to 1-8) -/

/-- A 64-bit mask whose bit b is `f (lo + b)`. -/
def mask64 (lo : Nat) (f : Nat → Bool) : W64 :=
  w64 ((List.range 64).foldl (fun m b => if f (lo + b) then m + 2 ^ b else m) 0)

/-- A core that the configuration record enables (R22). -/
def PkgCfg.core (c : PkgCfg) (n : Nat) : Bool := n < Config.cores && !c.fcores.contains n

/-- Enabled cores of a core cluster. -/
def PkgCfg.clusterCores (c : PkgCfg) (k : Nat) : Nat := 8 - (c.fcores.eraseDups.filter (fun n => n / 8 = k && n < 320)).length

/-- Cores of the fullest core cluster: a cluster without a fenced core when there is one. -/
def PkgCfg.maxClu (c : PkgCfg) : Nat := ((List.range 40).map c.clusterCores).foldl max 0

/-- Sub-arrays enabled at boot on a core. -/
def PkgCfg.subMask (c : PkgCfg) (n : Nat) : BitVec 16 :=
  c.fsubs.foldl (fun m f => if f.1 = n then m &&& ~~~f.2 else m) 0xFFFF

/-- Enabled cores of the part. -/
def PkgCfg.coreCount (c : PkgCfg) : Nat := 320 - (c.fcores.eraseDups.filter (· < 320)).length

/-- Sub-arrays enabled at boot, of enabled cores. -/
def PkgCfg.subCount (c : PkgCfg) : Nat :=
  16 * c.coreCount - (((c.fsubs.map (·.1)).eraseDups.filter c.core).map (fun n =>
    16 - (bitsOf16 (c.subMask n)))).sum
where
  /-- 1 bits of a 16-bit mask. -/
  bitsOf16 (m : BitVec 16) : Nat := ((List.range 16).filter m.getLsbD).length

/-- Enabled pseudo-channels of the part. -/
def PkgCfg.pchanCount (c : PkgCfg) : Nat := 1024 - ((fencedPchans c).filter (· < 1024)).length

/-- PKGCNT (Table 1-7). -/
def PkgCfg.pkgcnt (c : PkgCfg) : W64 :=
  w64 (c.maxClu * 2 ^ 51 + c.subCount * 2 ^ 38 + (72 - (c.flanes.eraseDups.filter (· < 72)).length) * 2 ^ 31
    + c.pchanCount * 2 ^ 20 + (512 - (c.froots.eraseDups.filter (· < 512)).length) * 2 ^ 10 + c.coreCount)

/-- A word of the package configuration block (Table 1-5). -/
def State.configWord (s : State) (off : Nat) : W64 :=
  let c := s.cfg
  let k := off / 8
  if off = 0 then w64 (0x9400 * 2 ^ 48 + c.step.toNat * 2 ^ 40 + c.cfgver.toNat * 2 ^ 32 + c.serno.toNat)
  else if off = 8 then c.pkgcnt
  else if off = 0x10 then w64 (s.cxlg * 2 ^ 32 + c.lpg * 2 ^ 16 + c.pchanCount)
  else if off = 0x18 then c.feat
  else if 0x40 ≤ off && off ≤ 0x60 then mask64 (64 * (k - 8)) c.core
  else if 0x80 ≤ off && off ≤ 0xB8 then mask64 (64 * (k - 16)) (fun n => !c.froots.contains n)
  else if 0x100 ≤ off && off ≤ 0x178 then mask64 (64 * (k - 32)) s.pchanEnabled
  else if 0x180 ≤ off && off ≤ 0x188 then mask64 (64 * (k - 48)) (fun n => n < 72 && !c.flanes.contains n)
  else 0

/-- A 64-bit store to MEMCNT: the supervisor's first one since module reset sets CXLG (R21). -/
def State.memcntStore (s : State) (v : W64) : State :=
  if s.cxlgWritten then s else { s with cxlg := field v.toNat 32 16, cxlgWritten := true }

/-! ### Launch queues (Tables 3-1 and 3-2) -/

/-- A launch queue. -/
def State.queue (s : State) (q : Nat) : HQueue := Cells.get {} s.queues q

/-- The state with a launch queue replaced. -/
def State.setQueue (s : State) (q : Nat) (x : HQueue) : State := { s with queues := Cells.put {} s.queues q x }

/-- The pending count (R40). -/
def HQueue.pending (x : HQueue) : Nat := (x.qpi - x.qci).toNat

/-- A register of a queue block. -/
def HQueue.word (x : HQueue) (off : Nat) : W64 :=
  match off with
  | 0x00 => x.qbase
  | 0x08 => x.qres
  | 0x10 => w64 (256 * x.logn + 2 * x.pause.toNat + x.en.toNat)
  | 0x18 => x.qpi.setWidth 64
  | 0x20 => x.qci.setWidth 64
  | 0x28 => x.qerr.setWidth 64
  | 0x30 => x.qptr
  | _ => 0

/-- A write of QCTL (R40). -/
def HQueue.control (x : HQueue) (v : W64) : HQueue :=
  let n := field v.toNat 8 4
  let x' := { x with pause := v.getLsbD 1, en := v.getLsbD 0 }
  if x.en then x'
  else if n < 4 || 14 < n then x
  else if x'.en then { x' with logn := n, qci := x.qpi, qerr := 0 }
  else { x' with logn := n }

/-- A write of QPI, the doorbell (R40). -/
def HQueue.doorbell (x : HQueue) (v : W64) : HQueue :=
  let x' := { x with qpi := v.setWidth 32 }
  if 2 ^ x.logn < x'.pending then { x' with qerr := x'.qerr ||| 0x100, en := false } else x'

/-- A write to a queue block (R39, R40). -/
def HQueue.write (x : HQueue) (off : Nat) (v : W64) : HQueue :=
  match off with
  | 0x00 => if x.en then x else { x with qbase := v &&& 0xFFFFFFFFFFFFF000 }
  | 0x08 => if x.en then x else { x with qres := v &&& 0xFFFFFFFFFFFFF000 }
  | 0x10 => x.control v
  | 0x18 => x.doorbell v
  | 0x30 => if x.en then x else { x with qptr := v &&& 0x000FFFFFFFFFF000 }
  | _ => x

/-- A write to the launch queue blocks at an offset from queue 0's. -/
def State.queueStore (s : State) (off : Nat) (v : W64) : State :=
  s.setQueue (off / 64) ((s.queue (off / 64)).write (off % 64) v)

/-! ### Partitions (Tables 3-3 and 3-4) -/

/-- A partition. -/
def State.part (s : State) (p : Nat) : Partition := Cells.get {} s.parts p

/-- A core lies in a partition (R50). -/
def Partition.has (p : Partition) (c : Nat) : Bool := p.pcore.getLsbD c

/-- A register of a partition block. -/
def Partition.word (p : Partition) (off : Nat) : W64 :=
  match off with
  | 0x00 => w64 (256 * p.maxprio.toNat + p.valid.toNat)
  | 0x08 => p.qmask
  | 0x10 => p.pcore.extractLsb' 0 64
  | 0x18 => p.pcore.extractLsb' 64 64
  | 0x20 => p.pcore.extractLsb' 128 64
  | 0x28 => p.pcore.extractLsb' 192 64
  | 0x30 => p.pcore.extractLsb' 256 64
  | 0x38 => p.phbm.setWidth 64
  | 0x40 => p.pstat.setWidth 64
  | _ => 0

/-- A mask with its 64-bit word `n` replaced. -/
def setWord320 (m : BitVec 320) (n : Nat) (v : W64) : BitVec 320 :=
  (m &&& ~~~((BitVec.allOnes 64).setWidth 320 <<< (64 * n))) ||| (v.setWidth 320 <<< (64 * n))

/-- A partition block after a write that is applied. -/
def Partition.write (p : Partition) (off : Nat) (v : W64) : Partition :=
  match off with
  | 0x00 => { p with valid := v.getLsbD 0, maxprio := v.extractLsb' 8 2 }
  | 0x08 => { p with qmask := v }
  | 0x10 => { p with pcore := setWord320 p.pcore 0 v }
  | 0x18 => { p with pcore := setWord320 p.pcore 1 v }
  | 0x20 => { p with pcore := setWord320 p.pcore 2 v }
  | 0x28 => { p with pcore := setWord320 p.pcore 3 v }
  | 0x30 => { p with pcore := setWord320 p.pcore 4 v }
  | 0x38 => { p with phbm := v.extractLsb' 0 16 }
  | _ => p

/-- The dies whose per-stack placement differs between two sets of partitions (R53). -/
def remapDies (old new : State) : List Nat :=
  (List.range 4).filter (fun d => (List.range 4).any (fun i => old.perStack (4 * d + i) != new.perStack (4 * d + i)))

/-- A frame of a migration that still fills lies in an HBM range of these dies. -/
def State.migratingIn (s : State) (ds : List Nat) : Bool :=
  s.migs.any (fun m => [m.oldPa, m.newPa].any (fun pa => isHbm pa && ds.contains (pa / 2 ^ 38)))

/-- Why a write to partition `p` is rejected (R51 to R53): 1 BUSY, 2 OVERLAP, 3 STACK; 0 when it is
applied. `t` is the state with the write applied. -/
def State.partStatus (s t : State) (p : Nat) : Nat :=
  let new := t.part p
  let others := (t.parts.filter (fun e => e.1 != p && e.2.valid)).map (·.2)
  let ds := remapDies s t
  if s.launches.any (fun l => l.r.part = p) then 1
  else if (new.phbm != (s.part p).phbm || !ds.isEmpty) && !s.launches.isEmpty then 1
  else if !ds.isEmpty && s.migratingIn ds then 1
  else if (List.range 320).any (fun c => new.has c && (!s.cfg.core c || (new.valid && others.any (fun o => o.has c)))) then 2
  else if new.valid && others.any (fun o => o.phbm &&& new.phbm != 0) then 3
  else 0

/-- The address of offset `o` of pseudo-channel `e` in the HBM range of its die (R24, R52). -/
def State.hbmAddr (s : State) (e o : Nat) : Nat :=
  let st := e / 64
  let d := st / 4
  let back (base : Nat) (l : List Nat) : Nat := base + (o / 4096 * l.length + l.findIdx (· = e)) * 4096 + o % 4096
  let dieStacks := [4 * d, 4 * d + 1, 4 * d + 2, 4 * d + 3]
  let inter := dieStacks.filter (fun x => !s.perStack x)
  if s.perStack st then
    let below := inter ++ (dieStacks.filter s.perStack).filter (· < st)
    back (2 ^ 38 * d + (below.map s.stackPchans).sum * 2 ^ 30) (s.pchanList [st])
  else back (2 ^ 38 * d) (s.pchanList inter)

/-- Where the byte at an address of `s` lies under the mapping of `t` (R53). -/
def remapPa (s t : State) (ds : List Nat) (pa : Nat) : Nat :=
  if isHbm pa && ds.contains (pa / 2 ^ 38) then
    match s.hbmPlace pa with
    | some e => t.hbmAddr e.1 e.2
    | none => pa
  else pa

/-- A table with its keys moved. -/
def rekey {α : Type} (f : Nat → Nat) (m : Cells α) : Cells α := m.foldl (fun acc c => Cells.set acc (f c.1) c.2) []

/-- The mapping of the affected dies changed: their lines leave every cache, every instruction cache is
invalidated, and each address reads the DRAM byte its new place names, ciphertext moving as it stands (R53, R203). -/
def State.remap (s t : State) (ds : List Nat) : State :=
  let hit (line : Nat) : Bool := isHbm (128 * line) && ds.contains (128 * line / 2 ^ 38)
  let s1 := (s.units.flatMap (fun u => (u.2.l1.map (fun l => (u.1, l.1))).filter (fun l => hit l.2))).foldl
    (fun s l => (s.l1WriteBack l.1 l.2).l1Drop l.1 l.2) s
  let s2 := ((s1.l2.map (·.1)).filter hit).foldl (fun s l => s.evictL2 l) s1
  let f := remapPa s t ds
  let g (line : Nat) : Nat := f (128 * line) / 128
  let s3 := (s2.keyOf.filter (fun e => hit e.1)).foldl (fun s e => s.bareLine e.1) s2
  { s3 with
    parts := t.parts
    units := s3.units.map (fun u => (u.1, { u.2 with icache := [], stb := u.2.stb.filter (fun l => !hit l.line) }))
    mem := rekey f s3.mem
    keyOf := rekey g s3.keyOf
    poison := (s3.poison.map g).foldl NatSet.insert []
    reported := (s3.reported.map g).foldl NatSet.insert []
    colErr := (s3.colErr.map (fun c => f (32 * c) / 32)).foldl NatSet.insert []
    colClass := rekey (fun c => f (32 * c) / 32) s3.colClass }

/-- A write to a partition block, applied or rejected whole (R51 to R53). -/
def State.partStore (s : State) (p off : Nat) (v : W64) : State :=
  let put (x : Partition) : State := { s with parts := Cells.set s.parts p x }
  let t := put ((s.part p).write off v)
  let st := s.partStatus t p
  if st != 0 then put { s.part p with pstat := BitVec.ofNat 8 st }
  else
    let ds := remapDies s t
    let t1 := if ds.isEmpty then t else s.remap t ds
    { t1 with parts := Cells.set t1.parts p { t1.part p with pstat := 0 } }

/-! ### Control registers of a unit (Tables 16-6 and 21-5) -/

/-- Counters of a unit (R449). -/
def counterCount (u : Nat) : Nat := if isRoot u then 8 else 16

/-- A control word after a write: OVF is cleared by writing 1 (Table 21-5). -/
def Counter.writeCtl (c : Counter) (mask v : W64) : Counter :=
  { c with ctl := (v &&& mask) ||| (c.ctl &&& 0x800 &&& ~~~v) }

/-- A control register of a unit. -/
def State.controlWord (s : State) (u off : Nat) : W64 :=
  let p := s.proc u
  if 0x200 ≤ off && off < 0x200 + 16 * counterCount u then
    let c := Cells.get {} p.counters ((off - 0x200) / 16)
    if off % 16 < 8 then c.ctl else c.val.setWidth 64
  else if isRoot u && 0x1000 ≤ off && off < 0x1200 then Cells.get 0 p.berr ((off - 0x1000) / 8)
  else if !isRoot u && off = 0x100 then
    w64 (p.fails.toNat * 2 ^ 32 + p.rtfence.toNat * 2 ^ 16 + (s.cfg.subMask u).toNat)
  else 0

/-- BERR after a write: VALID and OVER are cleared by writing 1 (Table 16-6). -/
def berrAfter (old v : W64) : W64 := old &&& ~~~(v &&& 0xC000000000000000)

/-- The bits of a control register that a write of 1 clears. -/
def clearBits (u off : Nat) : W64 :=
  if off % 16 < 8 && off < 0x1000 then 0x800 else if isRoot u && 0x1000 ≤ off then 0xC000000000000000 else 0

/-- A write to a control register of a unit, by the supervisor; a gated core wakes for it (R447). -/
def State.controlStore (s0 : State) (u off : Nat) (v : W64) : State :=
  let s := s0.wakeCore u
  if 0x200 ≤ off && off < 0x200 + 16 * counterCount u then
    let i := (off - 0x200) / 16
    s.onProc u (fun p =>
      let c := Cells.get {} p.counters i
      let c' := if off % 16 < 8 then c.writeCtl 0x7FF v else { c with val := v.setWidth 48 }
      { p with counters := Cells.put {} p.counters i c' })
  else if isRoot u && 0x1000 ≤ off && off < 0x1200 then
    s.onProc u (fun p =>
      let i := (off - 0x1000) / 8
      { p with berr := Cells.put 0 p.berr i (berrAfter (Cells.get 0 p.berr i) v) })
  else s

/-! ### Byte access to 64-bit registers (assumption 21) -/

/-- `n` bytes of a register word from byte `k` up. -/
def wordBytes (w : W64) (k n : Nat) : List Byte := (leBytes w.toNat 8).drop k |>.take n

/-- A 64-bit value with bytes placed at byte `k`, the others 0. -/
def bytesWord (k : Nat) (bs : List Byte) : W64 := w64 (leNat bs * 2 ^ (8 * k))

end Sys2Proof.Machine
end

