-- ==== Sys2Proof/Machine/Mem.lean ====
section
/-! DEFINITION. How a lane's access to memory is performed (R192, R195, R198, R204, R207, R208, R211,
R308, R309, R375 to R380, R407): where it goes, what stops it, and its reads and writes. -/

namespace Sys2Proof.Machine

/-! ### Where an access goes -/

/-- The address lies in the stack of a root core's context (R308, R309). -/
def State.ownStack (s : State) (c : Ctx) (pa : Nat) : Bool :=
  isHbm pa && ((s.hbmPlace pa).map (fun e => e.1 / 64)) = some (stackOf (s.ctxUnit c))

/-- The target of a translated data access. What a root group may not reach (R308), and a per-stack stack of another partition
(R52), act as unbacked; a supervisor's window is one for every context (R7). -/
def State.reach (s : State) (c : Ctx) (x : Xl) : Spot :=
  let sp := s.spot x.pa
  match sp with
  | .memory _ =>
    let own : Bool := if s.onRoot c then s.ownStack c x.pa && !leafMig x.leaf && !leafSc x.leaf else true
    let mine : Bool :=
      if isHbm x.pa then
        match s.perStackOf x.pa with
        | some st => (s.part (s.partOf c)).phbm.getLsbD st
        | none => true
      else true
    if own && mine then sp else .unbacked
  | .control _ _ | .partRegs _ | .queueRegs _ => sp
  | _ => if s.onRoot c && !isSupCtx c then .unbacked else sp

/-- Memory that a speculative task may access without waiting (R375). -/
def Xl.specCapable (x : Xl) : Bool := (isHbm x.pa || isSecondTier x.pa) && !leafSc x.leaf && !leafMig x.leaf

/-- What an access to the on-chip map raises at issue (R20, R39, R208): PRIV at a supervisor-only window,
MISAL at a register block that takes 64-bit aligned accesses only. -/
def onChipTrap (sup write : Bool) (sp : Spot) (bytes : Nat) (va : W64) : Option Nat :=
  let whole := bytes = 8 && va.toNat % 8 = 0
  match sp with
  | .control _ _ | .partRegs _ => if sup then none else some 0x06
  | .queueRegs _ => if !sup then some 0x06 else if whole then none else some 0x08
  | .config _ => if write || whole then none else some 0x08
  | _ => none

/-- One lane's access: its address, its translation, and its target. -/
structure LaneXl where
  lane : Nat
  ea : W64
  r : Except Nat (Xl × Spot)

/-- The lanes' addresses translated, in lane order (R208). -/
def State.translateLanes (s : State) (c : Ctx) (k : AccKind) : List (Nat × W64) → State × List LaneXl
  | [] => (s, [])
  | (l, ea) :: r =>
    match s.translate (s.xctx c) 1 k ea with
    | (s1, .error e) => let (s2, out) := s1.translateLanes c k r; (s2, ⟨l, ea, .error e⟩ :: out)
    | (s1, .ok x) => let (s2, out) := s1.translateLanes c k r; (s2, ⟨l, ea, .ok (x, s1.reach c x)⟩ :: out)

/-- MISAL of the lowest lane whose address is not a multiple of `n` (R207). -/
def misaligned (n : Nat) (eas : List (Nat × W64)) : Option TrapInfo :=
  (eas.find? (fun e => e.2.toNat % n != 0)).map (fun e => { cause := 0x08, addr := e.2 })

/-- What the lanes' targets raise at issue for a load, with TRAPA as Table 19-2 has it: 0 for PRIV (R208). -/
def windowTrap (sup : Bool) (bytes : Nat) (xs : List LaneXl) : Option TrapInfo :=
  xs.findSome? (fun x => match x.r with
    | .ok (_, sp) => (onChipTrap sup false sp bytes x.ea).map (fun e => { cause := e, addr := if e = 0x06 then 0 else x.ea })
    | .error _ => none)

/-- What a lane's write raises at issue: its translation fails, its address is unbacked, or its target refuses it (R208). -/
def LaneXl.writeTrap (sup : Bool) (bytes : Nat) (x : LaneXl) : Option TrapInfo :=
  match x.r with
  | .error e => some { cause := e, addr := x.ea, write := true }
  | .ok (_, .unbacked) => some { cause := 0x0A, addr := x.ea }
  | .ok (_, sp) => (onChipTrap sup true sp bytes x.ea).map (fun e => { cause := e, addr := x.ea })

/-- The first failure of a write's lanes, with TRAPA that lane's address (R208). -/
def writeTrap (sup : Bool) (bytes : Nat) (xs : List LaneXl) : Option TrapInfo := xs.findSome? (LaneXl.writeTrap sup bytes)

/-- A speculative task's access that leaves speculative-capable memory parks it before issue, whatever it would raise
there (R376, Table 18-2). -/
def State.parksOn (s : State) (c : Ctx) (eas : List (Nat × W64)) : Bool :=
  (s.specTask c).isSome && eas.any (fun e => (s.leafFor (s.xctx c) 1 e.2).any (fun x => !x.specCapable))

/-! ### Outstanding requests (R14, R197) -/

/-- The 32-byte sectors that an instruction's requests name: a lane's access, aligned to its size of at most 32 bytes, lies in one
(R197, R207). -/
def requestSectors (xs : List LaneXl) : List Nat :=
  (xs.filterMap (fun x => match x.r with
    | .ok (_, .unbacked) => none
    | .ok (y, _) => some (y.pa / 32)
    | .error _ => none)).eraseDups

/-- Requests for some sectors: one for each line that holds one (R197). -/
def requestCount (sectors : List Nat) : Nat := ((sectors.map (· / 4)).eraseDups).length

/-- The contexts that issue on a unit. -/
def State.contextsOn (s : State) (u : Nat) : List Group :=
  (s.blocks.filter (fun b => b.unit = u)).flatMap (·.groups) ++ (s.proc u).sups.map (fun x => x.2.g)

/-- Requests outstanding on a unit. -/
def State.requestsOn (s : State) (u : Nat) : Nat :=
  ((s.contextsOn u).map (fun g => (g.pend.map (fun p => requestCount p.sectors)).sum)).sum

/-- The core has no free slots for requests for some sectors more (R14, R197). -/
def State.slotsFull (s : State) (c : Ctx) (sectors : List Nat) : Bool :=
  decide (8192 < s.requestsOn (s.ctxUnit c) + requestCount sectors)

/-- The core has no free slots for the requests of an instruction's lanes. -/
def State.requestsFull (s : State) (c : Ctx) (xs : List LaneXl) : Bool := s.slotsFull c (requestSectors xs)

/-! ### Versions (R377, R383) -/

/-- An entry of the version store: the task's version of a line, or its mark. -/
def isEntry (lid n line : Nat) (ver : Bool) (v : Version) : Bool :=
  v.lid = lid && v.n = n && v.line = line && v.ver.isSome = ver

/-- The lowest die whose version store has no room for the entries that these lines need (R383). -/
def State.fullDie (s : State) (lid n : Nat) (ver : Bool) (lines : List Nat) : Option Nat :=
  let new := lines.eraseDups.filter (fun k => !s.versions.any (isEntry lid n k ver))
  (List.range 4).find? (fun d =>
    let m := (new.filter (fun k => s.homeDie (128 * k) = d)).length
    m != 0 && 65536 < s.versionsOn d + m)

/-- The youngest running speculative record of a launch. -/
def youngest (ts : List TaskRec) : Option TaskRec :=
  ts.foldl (fun b t =>
    let run : Bool := match t.st with | .running _ _ => !t.ns | _ => false
    if run then (match b with | none => some t | some u => if keyLt u.key t.key then some t else b) else b) none

/-- An access waits for version space on a die: the youngest running speculative task stalls (R383). -/
def State.stallYoungest (s : State) (lid d : Nat) : State :=
  s.onLaunch lid (fun l => match youngest l.tasks with
    | none => l
    | some t => l.onTask t.n (fun t => { t with stalled := some (t.stalled.getD (s.now, d)) }))

/-- A tracking mark (R377). -/
def State.mark (s : State) (lid n line : Nat) : State :=
  if s.versions.any (isEntry lid n line false) then s
  else { s with versions := s.versions ++ [{ lid, n, line, ver := none }] }

/-- The version that a read of byte `i` of a line by a task with key `k` returns: the latest by key
among the uncommitted tasks up to it whose mask covers the byte (R377). -/
def State.versionByte (s : State) (l : Launch) (k : Nat × Nat) (line i : Nat) : Option Byte :=
  (s.versions.foldl (fun (b : Option ((Nat × Nat) × Byte)) v =>
    match v.ver with
    | some (d, m) =>
      if v.lid = l.lid && v.line = line && m.getLsbD i then
        match l.task? v.n with
        | some t =>
          if keyLt k t.key then b
          else (match b with
            | some (k', x) => if keyLt t.key k' then some (k', x) else some (t.key, lineByte d i)
            | none => some (t.key, lineByte d i))
        | none => b
      else b
    | none => b) none).map (·.2)

/-- Bytes written into a speculative task's version of a line (R377). -/
def State.writeVersion (s : State) (lid n k line : Nat) (cs : List (Nat × Byte)) : State :=
  let put (old : BitVec 1024 × BitVec 128) : BitVec 1024 × BitVec 128 :=
    cs.foldl (fun o c => (setLineByte o.1 c.1 c.2, o.2 ||| ((1 : BitVec 128) <<< c.1))) old
  let vs :=
    if s.versions.any (isEntry lid n line true) then
      s.versions.map (fun v => if isEntry lid n line true v then { v with ver := v.ver.map put } else v)
    else s.versions ++ [{ lid, n, line, key := k, ver := some (put (0, 0)) }]
  conflict { s with versions := vs } (.version lid n) line

/-! ### Root cores (R308, R309, R327) -/

/-- CLASS of a failed read of a column (Table 16-6). -/
def State.berrClass (s : State) (col : Nat) : Nat := (Cells.get 1 s.colClass col).toNat

/-- Bank [4:0], row [22:5] and column [29:23] of a 32-byte column of a pseudo-channel: those that R483 states for column 0x106, which
is column 6 of the channel's third frame, and free for the others (R327, assumption 22). -/
def dramPlace (column : Nat) : BitVec 30 := if column = 0x106 then 6#7 ++ 0x2001#18 ++ 12#5 else Config.dramPlace column

/-- A failure recorded in the BERR register of its bank (R327). -/
def State.berrAdd (s : State) (pa src : Nat) : State :=
  match s.hbmPlace pa with
  | none => s
  | some (e, o) =>
    let pl := dramPlace (o / 32)
    let bank := (pl.extractLsb' 0 5).toNat
    let i := 32 * (e % 2) + bank
    let new : W64 := w64 (2 ^ 63 + s.berrClass (pa / 32) * 2 ^ 60 + bank * 2 ^ 48 + (pl.extractLsb' 5 18).toNat * 2 ^ 30 + src * 2 ^ 16
      + (pl.extractLsb' 23 7).toNat)
    s.onProc (0x8000 + e / 2) (fun p =>
      let old := Cells.get 0 p.berr i
      { p with berr := Cells.put 0 p.berr i (if old.getLsbD 63 then old ||| 0x4000000000000000 else new) })

/-- The 32-byte columns that ranges of bytes lie in, each once. -/
def columnsOf (ranges : List (Nat × Nat)) : List Nat :=
  (ranges.flatMap (fun r => if r.2 = 0 then []
    else (List.range ((r.1 + r.2 - 1) / 32 - r.1 / 32 + 1)).map (fun i => r.1 / 32 + i))).eraseDups

/-- Every uncorrectable column that one read of some ranges meets is recorded, once (R327). -/
def State.berrRead (s : State) (src : Nat) (ranges : List (Nat × Nat)) : State :=
  ((columnsOf ranges).filter (fun c => s.dramBad (32 * c))).foldl (fun s c => s.berrAdd (32 * c) src) s

/-- Bytes read at a pseudo-channel; none when a column is uncorrectable. -/
def State.dramGet (s : State) (k pa n : Nat) : Option (List Byte) :=
  if (List.range n).any (fun i => s.dramBad (pa + i)) then none else some (s.dramBytes k pa n)

/-- One read at a pseudo-channel, its lines touched first: its bytes, or none, its failing columns recorded. -/
def State.readDram (s : State) (k pa n src : Nat) : State × Option (List Byte) :=
  let s1 := s.dramTouchAll pa n
  (s1.berrRead src [(pa, n)], s1.dramGet k pa n)

/-! ### Reads -/

/-- The core's own copy of a line written back and dropped, before an access that passes it by. -/
def State.bypassL1 (s : State) (c : Ctx) (line : Nat) : State :=
  let u := s.ctxUnit c
  if (Cells.find (s.proc u).l1 line).isSome then (s.l1WriteBack u line).l1Drop u line else s

/-- The access is performed at the home and not in the core's L1 (R198, R211, R432, R436); so is every access of a task, whose
reads then return no value older than an earlier task's commit (R259, R375). -/
def State.atHome (s : State) (c : Ctx) (x : Xl) (l2 write : Bool) : Bool :=
  l2 || leafSc x.leaf || isPeerWin x.pa || (isHostWin x.pa && (write || s.port = .pcie))
    || (match s.writerOf c with | .task _ _ => true | _ => false)

/-- Bytes of 64-bit registers, from byte `off` up. -/
def regBytes (f : Nat → W64) (off n : Nat) : List Byte :=
  (List.range n).map (fun i => (f ((off + i) / 8 * 8) >>> (8 * ((off + i) % 8))).setWidth 8)

/-- `n` bytes of one line read for a context; fails with POISON, or PROT where nothing is backed. The columns that fail a
root core's read are recorded by its instruction (R327). An atomic's read leaves no copy away from the home (R262). -/
def State.readAt (s : State) (c : Ctx) (x : Xl) (sp : Spot) (l2 strm : Bool) (n : Nat) (atomic : Bool := false) :
    State × Except Nat (List Byte) :=
  let line := x.pa / 128
  let k := leafKey x.leaf
  let u := s.ctxUnit c
  match sp with
  | .unbacked => (s, .error 0x0A)
  | .spad v off => (s.wakeCore v, if (s.proc v).spBad off n then .error 0x0B else .ok ((s.proc v).spRead off n))
  | .accum v off => (s.wakeCore v, if ((s.proc v).accBadAt off n).isSome then .error 0x0B else .ok ((s.proc v).accRead off n))
  | .control v off => (s.wakeCore v, .ok (regBytes (s.controlWord v) off n))
  | .config off => (s, .ok (regBytes s.configWord off n))
  | .queueRegs off => (s, .ok (regBytes (fun o => (s.queue (o / 64)).word (o % 64)) off n))
  | .partRegs off => (s, .ok (regBytes (fun o => (s.part (o / 256)).word (o % 256)) off n))
  | .memory _ | .host | .peer _ =>
    if s.onRoot c then
      let s1 := s.dramTouchAll x.pa n
      (s1, match s1.dramGet k x.pa n with
        | some bs => .ok bs
        | none => .error 0x0B)
    else
      if s.atHome c x l2 false then
        let s2 := (s.bypassL1 c line).homeTouch { s.reader c x with atomic } x.pa
        match s2.specTask c with
        | some (lid, t) =>
          let s3 := s2.mark lid t line
          match s3.launch? lid with
          | none => (s3, .error 0x0B)
          | some l =>
            let key := ((l.task? t).map TaskRec.key).getD (0, 0)
            let own := (List.range n).map (fun i => s3.versionByte l key line (x.pa % 128 + i))
            if s3.homeBad line && own.any (fun b => b.isNone) then (s3, .error 0x0B)
            else (s3, .ok ((own.zip (s3.bytesUnder k x.pa n)).map (fun b => b.1.getD b.2)))
        | none => (s2, if s2.homeBad line then .error 0x0B else .ok (s2.bytesUnder k x.pa n))
      else
        let (s2, l) := (s.migTouch x).l1Fill u (s.reader c x) line strm
        (s2, if l.poison then .error 0x0B else .ok ((List.range n).map (fun i => lineByte l.data (x.pa % 128 + i))))

/-! ### Writes -/

/-- Cells of one line written for a context (R211, R377, R309). A speculative task that the write-back before it aborts
writes nothing. -/
def State.writeLine (s : State) (c : Ctx) (x : Xl) (l2 strm : Bool) (cs : List (Nat × Byte)) : State :=
  let line := x.pa / 128
  let k := leafKey x.leaf
  if s.onRoot c then s.dramPut k line cs
  else if s.atHome c x l2 true then
    let s1 := s.bypassL1 c line
    match s.specTask c with
    | some (lid, t) => if s1.specTask c = some (lid, t) then s1.writeVersion lid t k line cs else s1
    | none => s1.homeWrite (s1.writerOf c) k line cs
  else (s.migTouch x).l1Write (s.ctxUnit c) (s.reader c x) line strm cs

/-- Bytes written in the on-chip map in elements of `w` bytes (R21, R39, R50, R192, R193, R286). -/
def State.writeChip (s : State) (c : Ctx) (sp : Spot) (w : Nat) (bs : List Byte) : State :=
  let each (f : State → Nat → Nat → List Byte → State) (off : Nat) : State :=
    (List.range ((off % 8 + bs.length + 7) / 8)).foldl (fun s j =>
      let o := off / 8 * 8 + 8 * j
      let mine := (bs.zipIdx.filter (fun b => (off + b.2) / 8 * 8 = o)).map (·.1)
      f s o (if j = 0 then off % 8 else 0) mine) s
  match sp with
  | .spad u off => (s.wakeCore u).spFill u off bs
  | .accum u off => (s.wakeCore u).onProc u (fun p => p.accWrite off bs)
  | .control u off => each (fun s o k b =>
      let keep := (s.controlWord u o &&& ~~~(clearBits u o)) &&& ~~~(bytesWord k (b.map (fun _ => 0xFF)))
      s.controlStore u o (keep ||| bytesWord k b)) off
  | .queueRegs off => each (fun s o k b => s.queueStore o (bytesWord k b)) off
  | .config off =>
    if w = 8 && off % 8 = 0 && off ≤ 0x10 && 0x18 ≤ off + bs.length && isSupCtx c then
      s.memcntStore (w64 (leNat ((bs.drop (0x10 - off)).take 8)))
    else s
  | _ => s

/-- A piece of a store: a lane's elements of `w` bytes, in lane order. -/
structure Piece where
  x : Xl
  sp : Spot
  w : Nat
  bytes : List Byte

/-- A piece goes to memory, the host or a peer. -/
def Piece.inMemory (p : Piece) : Bool :=
  match p.sp with
  | .memory _ | .host | .peer _ => true
  | _ => false

/-- The fields of a leaf that say how its accesses are performed: MIG, KEY and SC. -/
def leafKind (l : W64) : W64 := l &&& 0xBFF0000000000020

/-- Cells of one line, in lane order, with the leaf each comes through: those that no later lane writes (R197). -/
def lastCells : List (Xl × Nat × Byte) → List (Xl × Nat × Byte)
  | [] => []
  | c :: r => let t := lastCells r; if t.any (fun d => d.2.1 = c.2.1) then t else c :: t

/-- The cells of the pieces that lie in a line. -/
def cellsIn (line : Nat) (ps : List Piece) : List (Xl × Nat × Byte) :=
  (ps.filter (fun p => p.x.pa / 128 = line)).flatMap (fun p => p.bytes.zipIdx.map (fun b => (p.x, p.x.pa % 128 + b.2, b.1)))

/-- One request of a store performed: the cells of a line, those of leaves that act alike together. A speculative task that
has been aborted meanwhile writes nothing. -/
def State.writeCells (s : State) (c : Ctx) (l2 strm : Bool) (cs : List (Xl × Nat × Byte)) : State :=
  let t0 := s.specTask c
  ((cs.map (fun d => leafKind d.1.leaf)).eraseDups).foldl (fun s k =>
    let mine := cs.filter (fun d => leafKind d.1.leaf = k)
    match mine with
    | [] => s
    | d :: _ => if s.specTask c = t0 then s.writeLine c d.1 l2 strm (mine.map (·.2)) else s) s

/-- A piece goes to a scratchpad window. -/
def Piece.inSpad (p : Piece) : Bool :=
  match p.sp with
  | .spad _ _ => true
  | _ => false

/-- The pieces of a store performed: those of one line as one request, the highest lane's bytes last (R197). A window write,
which sets granules full, releases at `.clu` (R255). -/
def State.performStore (s : State) (c : Ctx) (l2 strm : Bool) (ps : List Piece) : State :=
  let t0 := s.specTask c
  let s0 := if ps.any Piece.inSpad then s.cleanFor c .clu else s
  let s1 := (ps.filter (fun p => !p.inMemory)).foldl (fun s p => s.writeChip c p.sp p.w p.bytes) s0
  let ms := ps.filter Piece.inMemory
  ((ms.map (fun p => p.x.pa / 128)).eraseDups).foldl (fun s line =>
    if s.specTask c = t0 then s.writeCells c l2 strm (lastCells (cellsIn line ms)) else s) s1

/-- Memory lines that the lanes touch. -/
def linesOf (xs : List LaneXl) : List Nat :=
  xs.filterMap (fun x => match x.r with
    | .ok (y, .memory _) => some (y.pa / 128)
    | _ => none)

/-- The translation of an instruction has aborted the speculative task that issued it, which then does nothing (R377, R379). -/
def State.taskLost (s t : State) (c : Ctx) : Bool := t.specTask c != s.specTask c

/-- An access waits for room: among the core's outstanding requests (R197), or, of a speculative task, in a version store
(R383); with the state its attempt leaves. -/
def State.lacksRoom (s : State) (c : Ctx) (ver : Bool) (xs : List LaneXl) : Option State :=
  if s.requestsFull c xs then some s
  else match s.specTask c with
  | some (lid, n) => (s.fullDie lid n ver (linesOf xs)).map (s.stallYoungest lid)
  | none => none

/-! ### Destinations of loads -/

/-- Where element `k` of lane `l` goes; a scalar takes the lowest active lane's (R71, R210). -/
def View.loadDest (v : View) (wide : Bool) (l k : Nat) : Dest :=
  match v.op .d with
  | .v n => if wide then .vpair (v.g.slotOf (v.g.lane l).depth (n.toNat + 2 * k)) l
    else .vreg (v.g.slotOf (v.g.lane l).depth (n.toNat + k)) l
  | .s n => if l = v.low then .sreg n.toNat else .nowhere
  | _ => .nowhere

/-- The destination slot of a load of `n` elements (R210). -/
def loadSlot (ty : Ty) (n : Nat) (d : Operand) : Slot :=
  { pos := .d, op := d, wide := tyWide ty, run := n, okS := n = 1, okP := false, okSp := false, dst := true }

/-- A virtual-address operand (R205). -/
def addrSlot (a : Operand) : Slot :=
  { pos := .a, op := a, wide := true, okP := false, okSp := false, okK := false, consumed := true }

/-- A lane of a load as performed: its data, or a cause, and where in memory it comes from. -/
structure LaneLoad where
  lane : Nat
  ea : W64
  r : Except Nat (List Byte)
  src : Option LoadSrc := none

/-- The elements of a load, with origin entries taken for the failing lanes that write an element (R402, R403):
none for a discarded destination (R210), and for a scalar one only the lowest active lane (R71). -/
def View.loadElems (v : View) (s : State) (ty : Ty) (n : Nat) (ls : List LaneLoad) : State × List PendElem :=
  let w := tyBytes ty
  let discard : Bool := match v.op .d with | .k _ => true | _ => false
  let root := s.onRoot v.c
  let bad := ls.filterMap (fun x => match x.r with
    | .error e => if v.loadDest (tyWide ty) x.lane 0 = .nowhere || (root && e = 0x0B) then none else some (x.lane, e, x.ea)
    | .ok _ => none)
  let (g1, vals) := ((s.group? v.c).getD v.g).takeOrigins bad
  let elems := ls.flatMap (fun x => (List.range n).map (fun k =>
    let d := v.loadDest (tyWide ty) x.lane k
    let src := x.src.map (fun q => { q with off := w * k, ty })
    match x.r with
    | .ok bs => { dst := d, v := loaded ty ((bs.drop (w * k)).take w), tag := false, src }
    | .error _ =>
      { dst := d, v := ((vals.find? (fun p => p.1 = x.lane)).map (·.2)).getD (rootPoison ty), tag := true, src }))
  (s.onGroup v.c (fun _ => g1), if discard then [] else elems)

/-- An operation counted for the context: in LDCNT with its elements, or in STCNT; with requests outstanding for some sectors. -/
def State.counted (s : State) (c : Ctx) (load : Bool) (elems : List PendElem) (blocked : Nat) (sectors : List Nat := []) : State :=
  s.onGroup c (fun g => g.addPending load elems blocked sectors)

end Sys2Proof.Machine
end

