-- ==== Sys2Proof/Machine/LoadStore.lean ====
section
/-! DEFINITION. Loads, stores, scratchpad access, stable reads, cache maintenance and fences (R205 to
R219). -/

namespace Sys2Proof.Machine

/-- Elements per lane. -/
def countOf : ElemCount → Nat
  | .one => 1
  | .two => 2
  | .four => 4

/-- A load or store performed at the home L2: CP 10, or strong at `.clu` or wider (R206, R244). -/
def homeLevel (m : MemMod) : Bool := m.cp == .l2 || (m.ord != .none && Scope.wide m.scope)

/-- The columns that a root core's load or atomic finds uncorrectable, recorded once for the instruction (R309, R327). -/
def State.rootRead (s : State) (c : Ctx) (bytes : Nat) (xs : List LaneXl) : State :=
  if s.onRoot c then s.berrRead 1 (xs.filterMap (fun x => match x.r with
    | .ok (y, .memory _) => some (y.pa, bytes)
    | _ => none))
  else s

/-- A lane's element in a scratchpad: lane, unit, and offset in the unit's store. -/
abbrev SpadPart := Nat × Nat × Nat

/-- A lane's access of `n` bytes comes after a granule access of its own that has not been performed on one of them (R212,
R246). -/
def State.behindGranule (s : State) (c : Ctx) (n : Nat) (ts : List SpadPart) : Bool :=
  ts.any (fun t => (s.proc t.2.1).grans.any (fun a => a.ctx = c && a.parts.any (fun p =>
    p.lane = t.1 && p.off < t.2.2 + n && t.2.2 < p.off + tyBytes a.ty)))

/-- The lanes of a memory instruction that reach a scratchpad through a window. -/
def windowParts (xs : List LaneXl) : List SpadPart :=
  xs.filterMap (fun x => match x.r with
    | .ok (_, .spad u off) => some (x.lane, u, off)
    | _ => none)

/-- The active lanes' effective addresses (R205). -/
def State.addresses (s : State) (v : View) (off : BitVec 12) : List (Nat × W64) :=
  v.act.map (fun l => (l, (s.src v.c v.g (v.op .a) true none l).v + off.signExtend 64))

/-- How a load that is performed at the home, or as `.strm`, reads. -/
def loadWay (l2 strm : Bool) : LoadWay := if l2 then .home else if strm then .strm else .l1

/-- The lanes' loads performed, each `bytes` from its address (R208). -/
def State.loadLanes (s : State) (c : Ctx) (l2 strm : Bool) (bytes : Nat) : List LaneXl → State × List LaneLoad
  | [] => (s, [])
  | x :: r =>
    match x.r with
    | .error e => 
      let (s1, out) := s.loadLanes c l2 strm bytes r
      (s1, ⟨x.lane, x.ea, .error e, some { ea := x.ea, way := loadWay l2 strm }⟩ :: out)
    | .ok (y, sp) =>
      let (s1, d) := s.readAt c y sp l2 strm bytes
      let (s2, out) := s1.loadLanes c l2 strm bytes r
      (s2, ⟨x.lane, x.ea, d, some { sector := some (y.pa / 32), ea := x.ea, way := loadWay l2 strm }⟩ :: out)

/-- `ld` (R206 to R210, R212). -/
def execLd (h : Head) (ty : Ty) (d a : Operand) (m : MemMod) (s : State) : Host.Outcome State Fault Refusal :=
  let n := countOf m.cnt
  let bytes := n * tyBytes ty
  s.issue h { rpt := true, ld := true } [loadSlot ty n d, addrSlot a] (fun s v =>
    let eas := s.addresses v m.off
    if s.parksOn v.c eas then .wait
    else match misaligned bytes eas with
    | some t => .trap s t
    | none =>
      let (s1, xs) := s.translateLanes v.c .read eas
      match windowTrap v.sup (tyBytes ty) xs with
      | some t => .trap s t
      | none =>
        if s.taskLost s1 v.c then .waitIn s1
        else if s1.behindGranule v.c bytes (windowParts xs) then .wait
        else match s1.lacksRoom v.c false xs with
          | some s2 => .waitIn s2
          | none =>
            let (s2, ls) := s1.loadLanes v.c (homeLevel m) (m.cp == .strm) bytes xs
            let (s3, elems) := v.loadElems s2 ty n ls
            let s4 := (s3.rootRead v.c bytes xs).counted v.c true elems 0 (requestSectors xs)
            .done (if m.ord == .acq then s4.flushFor v.c m.scope else s4))

/-- A data source of a store: `n` elements of a type (R211). -/
def dataSlot (ty : Ty) (n : Nat) (b : Operand) : Slot :=
  { pos := .b, op := b, wide := tyWide ty, run := n, okS := n = 1, okP := false, okSp := false, okK := n = 1, consumed := true }

/-- The bytes a lane stores: `n` elements of a type from B. -/
def State.storeBytes (s : State) (v : View) (ty : Ty) (n l : Nat) : List Byte :=
  (List.range n).flatMap (fun k =>
    let op := runOperand (v.op .b) (k * (if tyWide ty then 2 else 1))
    leBytes (s.src v.c v.g op (tyWide ty) none l).v.toNat (tyBytes ty))

/-- The lanes' pieces of a store. -/
def State.pieces (s : State) (v : View) (ty : Ty) (n : Nat) (xs : List LaneXl) : List Piece :=
  xs.filterMap (fun x => match x.r with
    | .ok (y, sp) => some ⟨y, sp, tyBytes ty, s.storeBytes v ty n x.lane⟩
    | .error _ => none)

/-- `st` (R206 to R209, R211, R212). A task that its translation or the release before it aborts stores nothing (R377). -/
def execSt (h : Head) (ty : Ty) (a b : Operand) (m : MemMod) (s : State) : Host.Outcome State Fault Refusal :=
  let n := countOf m.cnt
  s.issue h { rpt := true, st := true } [addrSlot a, dataSlot ty n b] (fun s v =>
    let eas := s.addresses v m.off
    if s.parksOn v.c eas then .wait
    else match misaligned (n * tyBytes ty) eas with
    | some t => .trap s t
    | none =>
      let (s1, xs) := s.translateLanes v.c .write eas
      match writeTrap v.sup (tyBytes ty) xs with
      | some t => .trap s t
      | none =>
        if s.taskLost s1 v.c then .waitIn s1
        else if s1.behindGranule v.c (n * tyBytes ty) (windowParts xs) || (m.ord == .rel && s1.unperformed v.c) then .wait
        else match s1.lacksRoom v.c true xs with
          | some s2 => .waitIn s2
          | none =>
            let s2 := if m.ord == .rel then s1.release v.c m.scope else s1
            if s1.taskLost s2 v.c then .waitIn s2
            else
              .done ((s2.performStore v.c (homeLevel m) (m.cp == .strm) (s1.pieces v ty n xs)).counted v.c false [] 0
                (requestSectors xs)))

/-! ### Scratchpad access (R213, R214) -/

/-- A scratchpad address operand. -/
def spadSlot (a : Operand) : Slot := { pos := .a, op := a, okP := false, okSp := false, consumed := true }

/-- The active lanes' scratchpad addresses. -/
def State.spadAddresses (s : State) (v : View) : List (Nat × W64) :=
  v.act.map (fun l => (l, (s.src v.c v.g (v.op .a) false none l).v))

/-- A block that only a supervisor slot would be without. -/
def State.blockOf (s : State) (c : Ctx) : Block := (s.ctxBlock? c).getD { bid := 0, lid := 0, unit := s.ctxUnit c }

/-- The lanes' targets: block and offset in its run, or the trap of the first that fails, by its bounds and then by its
alignment (R213). -/
def State.spadTargets (s : State) (c : Ctx) (n : Nat) : List (Nat × W64) → Except TrapInfo (List (Nat × W64 × Block × Nat))
  | [] => .ok []
  | (l, a) :: r =>
    match s.spTarget (s.blockOf c) a.toNat n with
    | none => .error { cause := 0x0C, addr := a }
    | some (b, off) =>
      if a.toNat % n != 0 then .error { cause := 0x08, addr := a }
      else match s.spadTargets c n r with
        | .error t => .error t
        | .ok out => .ok ((l, a, b, off) :: out)

/-- The scratchpad accesses of an instruction checked (R207, R213). -/
def State.spadChecked (s : State) (v : View) (ty : Ty) : Except TrapInfo (List (Nat × W64 × Block × Nat)) :=
  s.spadTargets v.c (tyBytes ty) (s.spadAddresses v)

/-- The lanes' elements of a scratchpad access. -/
def spadParts (ts : List (Nat × W64 × Block × Nat)) : List SpadPart :=
  ts.map (fun t => (t.1, t.2.2.1.unit, t.2.2.1.spBase + t.2.2.2))

/-- Bytes read from a block's scratchpad run; POISON where a granule is marked (R286). -/
def State.spadLoad (s : State) (b : Block) (off n : Nat) : Except Nat (List Byte) :=
  if (s.proc b.unit).spBad (b.spBase + off) n then .error 0x0B else .ok (s.spBytes b off n)

/-- `ldsp` (R213, R286); it waits for the lane's own granule accesses of the same bytes (R212). -/
def execLdsp (h : Head) (ty : Ty) (d a : Operand) (s : State) : Host.Outcome State Fault Refusal :=
  let n := tyBytes ty
  s.issue h { rpt := true, ld := true } [loadSlot ty 1 d, spadSlot a] (fun s v =>
    match s.spadChecked v ty with
    | .error t => .trap s t
    | .ok ts =>
      if s.behindGranule v.c n (spadParts ts) then .wait
      else
      let ls := ts.map (fun (l, a, b, off) =>
        ({ lane := l, ea := a, r := s.spadLoad b off n, src := some { ea := a, way := .spad } } : LaneLoad))
      let (s1, elems) := v.loadElems s ty 1 ls
      .done (s1.counted v.c true elems 0))

/-- `stsp` (R212, R213). -/
def execStsp (h : Head) (ty : Ty) (a b : Operand) (s : State) : Host.Outcome State Fault Refusal :=
  s.issue h { rpt := true, st := true } [spadSlot a, dataSlot ty 1 b] (fun s v =>
    match s.spadChecked v ty with
    | .error t => .trap s t
    | .ok ts =>
      if s.behindGranule v.c (tyBytes ty) (spadParts ts) then .wait
      else
      let s1 := ts.foldl (fun s' (l, _, b, off) => s'.spPut b off (s.storeBytes v ty 1 l) false) s
      .done (s1.counted v.c false [] 0))

/-- The granule accesses of an instruction: one for each distinct granule (R214). -/
def granulesOfLanes (ts : List (Nat × W64 × Block × Nat)) : List (Nat × Nat) :=
  (ts.map (fun t => (t.2.2.1.unit, (t.2.2.1.spBase + t.2.2.2) / 16))).eraseDups

/-- Granule accesses queued at their scratchpads, in the order they reach them (R214). -/
def State.queueGranules (s : State) (v : View) (load clr : Bool) (ty : Ty)
    (ts : List (Nat × W64 × Block × Nat)) (dst : Nat → Dest) (val : Nat → W64) : State :=
  let gs := granulesOfLanes ts
  let id := ((s.group? v.c).getD v.g).nextId
  let s1 := s.counted v.c load [] gs.length
  gs.foldl (fun s (u, gr) =>
    let mine := ts.filter (fun t => t.2.2.1.unit = u && (t.2.2.1.spBase + t.2.2.2) / 16 = gr)
    s.onProc u (fun p => { p with grans := p.grans ++ [{
      ctx := v.c, pend := id, granule := gr, load, clr, ty
      parts := mine.map (fun t => { lane := t.1, off := t.2.2.1.spBase + t.2.2.2, va := t.2.1, dst := dst t.1, v := val t.1 }) }] })) s1

/-- `ldfe` (R214). -/
def execLdfe (h : Head) (ty : Ty) (d a : Operand) (s : State) : Host.Outcome State Fault Refusal :=
  s.issue h { rpt := true, ld := true } [loadSlot ty 1 d, spadSlot a] (fun s v =>
    match s.spadChecked v ty with
    | .error t => .trap s t
    | .ok ts => .done (s.queueGranules v true h.mods.om ty ts (fun l => v.loadDest (tyWide ty) l 0) (fun _ => 0)))

/-- `stfe` (R214). -/
def execStfe (h : Head) (ty : Ty) (a b : Operand) (s : State) : Host.Outcome State Fault Refusal :=
  s.issue h { rpt := true, st := true } [spadSlot a, dataSlot ty 1 b] (fun s v =>
    match s.spadChecked v ty with
    | .error t => .trap s t
    | .ok ts => .done (s.queueGranules v false false ty ts (fun _ => .nowhere)
        (fun l => (s.src v.c v.g (v.op .b) (tyWide ty) none l).v)))

/-- `GRANULE_ACCESS_PERFORM`: the accesses that wait on a granule and may be performed are, in their order (R214). -/
def execGranuleAccessPerform (u gran : Nat) (s : State) : Host.Outcome State Fault Refusal := .next (s.settleGran u gran)

/-! ### Stable reads, prefetch and cache maintenance -/

/-- A line on the core's stable path for a reader, filled from its home when it is not there (R199); the core's own copy is
then written back and dropped, so that no later read of the core returns an older value (R250). -/
def State.stableLine (s : State) (c : Ctx) (r : Reader) (line : Nat) : State × StbLine :=
  let u := s.ctxUnit c
  match (s.proc u).stb.find? (fun l => l.lid = r.lid && l.line = line && l.key = r.key) with
  | some l => (s, l)
  | none =>
    let s1 := (s.bypassL1 c line).homeTouch r (128 * line)
    let l : StbLine := { lid := r.lid, line, key := r.key, data := s1.lineUnder r.key line, poison := s1.homeBad line }
    (s1.onProc u (fun p => { p with stb := p.stb ++ [l] }), l)

/-- One lane's stable read (R199, R215). -/
def State.stableRead (s : State) (c : Ctx) (x : Xl) (sp : Spot) (n : Nat) : State × Except Nat (List Byte) :=
  if !leafStb x.leaf then (s, .error 0x0A)
  else match sp with
    | .memory _ | .host =>
      if s.onRoot c || !s.cacheable x.pa then s.readAt c x sp true false n
      else
        let (s2, l) := s.stableLine c (s.reader c x) (x.pa / 128)
        (s2, if l.poison then .error 0x0B else .ok ((List.range n).map (fun i => lineByte l.data (x.pa % 128 + i))))
    | _ => s.readAt c x sp true false n

/-- The lanes' stable reads. -/
def State.stableLanes (s : State) (c : Ctx) (n : Nat) : List LaneXl → State × List LaneLoad
  | [] => (s, [])
  | x :: r =>
    match x.r with
    | .error e =>
      let (s1, out) := s.stableLanes c n r
      (s1, ⟨x.lane, x.ea, .error e, some { ea := x.ea, way := .stable }⟩ :: out)
    | .ok (y, sp) =>
      let (s1, d) := s.stableRead c y sp n
      let (s2, out) := s1.stableLanes c n r
      (s2, ⟨x.lane, x.ea, d, some { sector := some (y.pa / 32), ea := x.ea, way := .stable }⟩ :: out)

/-- `ldstb` (R215). -/
def execLdstb (h : Head) (ty : Ty) (d a : Operand) (s : State) : Host.Outcome State Fault Refusal :=
  let n := tyBytes ty
  s.issue h { rpt := true, ld := true } [loadSlot ty 1 d, addrSlot a] (fun s v =>
    let eas := s.addresses v 0
    if s.parksOn v.c eas then .wait
    else match misaligned n eas with
    | some t => .trap s t
    | none =>
      let (s1, xs) := s.translateLanes v.c .read eas
      match windowTrap v.sup n xs with
      | some t => .trap s t
      | none =>
        if s.taskLost s1 v.c || s1.requestsFull v.c xs then .waitIn s1
        else
          let (s2, ls) := s1.stableLanes v.c n xs
          let (s3, elems) := v.loadElems s2 ty 1 ls
          .done ((s3.rootRead v.c n xs).counted v.c true elems 0 (requestSectors xs)))

/-- One lane's prefetch (R216): the leaf's A bit stays as it is. -/
def State.prefetch (s : State) (c : Ctx) (l2 : Bool) (ea : W64) : State :=
  match s.translate { s.xctx c with unit := none } 1 .read ea with
  | (s1, .error _) => s1
  | (s1, .ok x) =>
    match s1.reach c x with
    | .memory _ | .host =>
      if !s1.cacheable x.pa then s1
      else if s1.atHome c x l2 false then s1.homeTouch (s1.reader c x) x.pa
      else ((s1.migTouch x).l1Fill (s1.ctxUnit c) (s1.reader c x) (x.pa / 128) false).1
    | _ => s1

/-- The lanes of a prefetch whose addresses translate, each with its target. -/
def State.prefetchLanes (s : State) (c : Ctx) (eas : List (Nat × W64)) : List LaneXl :=
  eas.map (fun e => ⟨e.1, e.2, match (s.translate { s.xctx c with unit := none } 1 .read e.2).2 with
    | .error k => .error k
    | .ok x => .ok (x, s.reach c x)⟩)

/-- `pref` (R216): it waits for room for its requests, which are done as soon as it has issued, since it counts in no counter
(R197, assumption 105); on a root core it changes nothing (R309). -/
def execPref (h : Head) (a : Operand) (m : MemMod) (s : State) : Host.Outcome State Fault Refusal :=
  s.issue h { rpt := true } [addrSlot a] (fun s v =>
    if s.onRoot v.c then .done s
    else
      let eas := s.addresses v m.off
      if s.requestsFull v.c (s.prefetchLanes v.c eas) then .wait
      else .done (eas.foldl (fun s e => s.prefetch v.c (m.cp == .l2) e.2) s))

/-- The physical pieces of a virtual range, page by page; a page that fails translation is skipped
(R217, R419). -/
def State.rangeLines (s : State) (xc : XCtx) (va : W64) (len : Nat) : Nat → State × List Nat
  | 0 => (s, [])
  | fuel + 1 =>
    if len = 0 then (s, [])
    else
      let n := min len (4096 - va.toNat % 4096)
      let (s1, r) := s.translate xc 1 .read va
      let ls := match r with
        | .ok x => (List.range ((x.pa + n - 1) / 128 - x.pa / 128 + 1)).map (fun i => x.pa / 128 + i)
        | .error _ => []
      let (s2, out) := s1.rangeLines xc (va + w64 n) (len - n) fuel
      (s2, ls ++ out)

/-- The lines of a virtual range of at most 2^32 − 1 bytes. -/
def State.linesInRange (s : State) (xc : XCtx) (va : W64) (len : Nat) : State × List Nat :=
  s.rangeLines xc va len (len / 4096 + 2)

/-- A page of a virtual range translates to no backed address (R208). -/
def State.rangeUnbacked (s : State) (c : Ctx) (va : W64) (len : Nat) : Nat → Bool
  | 0 => false
  | fuel + 1 =>
    if len = 0 then false
    else
      let n := min len (4096 - va.toNat % 4096)
      (match (s.translate (s.xctx c) 1 .read va).2 with
        | .ok x => s.reach c x == .unbacked
        | .error _ => false) || s.rangeUnbacked c (va + w64 n) (len - n) fuel

/-- `cflush` and `cinv`: the core's L1 lines that overlap the range are written back, and dropped by
`cinv` (R217, R309); an unbacked page of the range is PROT, with TRAPA the address operand (R208, assumption 80). -/
def State.cacheMaintain (s : State) (h : Head) (a b : Operand) (drop : Bool) : Host.Outcome State Fault Refusal :=
  s.issue h { st := true, parks := true } [{ addrSlot a with okV := false },
      { pos := .b, op := b, okV := false, okP := false, okSp := false, consumed := true }] (fun s v =>
    let u := s.ctxUnit v.c
    let va := (s.src v.c v.g (v.op .a) true none v.low).v
    let len := (s.src v.c v.g (v.op .b) false none v.low).v.toNat
    if !s.onRoot v.c && s.rangeUnbacked v.c va len (len / 4096 + 2) then .trap s { cause := 0x0A, addr := va }
    else
    let s2 := if s.onRoot v.c then s
      else
        let (s1, lines) := s.linesInRange (s.xctx v.c) va len
        let mine := ((s1.proc u).l1.map (·.1)).filter lines.contains
        mine.foldl (fun s l => let s1 := s.l1WriteBack u l; if drop then s1.l1Drop u l else s1) s1
    .done (s2.counted v.c false [] 0))

/-- `cflush` (R217). -/
def execCflush (h : Head) (a b : Operand) (s : State) : Host.Outcome State Fault Refusal := s.cacheMaintain h a b false

/-- `cinv` (R217). -/
def execCinv (h : Head) (a b : Operand) (s : State) : Host.Outcome State Fault Refusal := s.cacheMaintain h a b true

/-! ### Fences (R218, R219) -/

/-- The group has an `ldfe` that is not performed. -/
def State.unperformedLoad (s : State) (c : Ctx) : Bool := s.units.any (fun u => u.2.grans.any (fun g => g.ctx = c && g.load))

/-- `fence` (R218). -/
def execFence (h : Head) (o : FenceOrd) (sc : Scope) (s : State) : Host.Outcome State Fault Refusal :=
  s.issue h {} [] (fun s v =>
    match o with
    | .acq => if s.unperformedLoad v.c then .wait else .done (s.acquire v.c sc)
    | .rel => if s.unperformed v.c then .wait else .done (s.release v.c sc)
    | .ar => if s.unperformed v.c then .wait else .done ((s.release v.c sc).acquire v.c sc))

/-- `fence.acq.dev` with a target core (R219). -/
def execFenceRemote (h : Head) (a : Operand) (s : State) : Host.Outcome State Fault Refusal :=
  s.issue h { parks := true } [{ pos := .a, op := a, okV := false, okP := false, okSp := false, consumed := true }] (fun s v =>
    let n := (s.src v.c v.g (v.op .a) false none v.low).v
    let t := n.toNat
    if !s.coreEnabled t || !(s.part (s.partOf v.c)).has t then .trap s { cause := 0x0A, addr := n }
    else if s.unperformedLoad v.c then .wait
    else .done ((s.l1Flush t).acquire v.c .dev))

end Sys2Proof.Machine
end

