-- ==== Sys2Proof/Machine/Partials.lean ====
section
/-! DEFINITION. Atomic buffers, held partials and their application (R225 to R231), and the row operations of
a root core (R232 to R240). -/

namespace Sys2Proof.Machine

/-! ### Table 12-5 and Table 12-6 -/

/-- The lesser or greater of two values of a type (R167, R221). -/
def minMaxOf (hi : Bool) (ty : Ty) (a b : W64) : W64 :=
  if ty = .f32 then w64 (fMinMax fF32 hi {} (a.toNat % 2 ^ 32) (b.toNat % 2 ^ 32)).bits
  else if (intOf ty a.toNat < intOf ty b.toNat) = hi then b else a

/-- The sum of two values of a type (R221, R223). -/
def sumOf (ty : Ty) (a b : W64) : W64 :=
  match ty with
  | .x64 => x64Sum a b
  | .f32 | .bf16 => w64 (fAdd (fmtOf ty) {} (a.toNat % 2 ^ tyBits ty) (b.toNat % 2 ^ tyBits ty)).bits
  | _ => zext64 (tyBits ty) (a + b)

/-- A contribution as its partial starts: `.bf16` widened to `.f32`. -/
def widened (ty : Ty) (c : W64) : W64 :=
  if ty = .bf16 then w64 (fConvert fF32 fBf16 {} (c.toNat % 2 ^ 16)).bits else zext64 (tyBits ty) c

/-- Combining in the buffer (Table 12-6). -/
def combined (op : Nat) (ty : Ty) (p c : W64) : W64 :=
  if op = 0 then sumOf (if ty = .bf16 then .f32 else ty) p c else minMaxOf (op = 2) ty p c

/-- Applying a partial to an element at the home (Table 12-6). -/
def applied (op : Nat) (ty : Ty) (m p : W64) : W64 :=
  if op = 0 then
    if ty = .bf16 then
      let x := fBf16.decode (m.toNat % 2 ^ 16)
      let y := fF32.decode (p.toNat % 2 ^ 32)
      w64 (fBf16.dotOut {} [x, y] [] [x, y] 0).bits
    else sumOf ty m p
  else minMaxOf (op = 2) ty m p

/-! ### Rows at the home root core (R232 to R240) -/

/-- A row's header (Table 12-7). -/
structure RowHdr where
  version : W64
  len : Nat
  wpart : Nat
  deriving DecidableEq, Repr

/-- The home L2 of a row's lines writes back and drops its copies (R233). -/
def State.rowEvict (s : State) (pa n : Nat) : State :=
  ((List.range ((pa + n - 1) / 128 - pa / 128 + 1)).map (fun i => pa / 128 + i)).foldl State.evictL2 s

/-- The most elements of a row of a type (R232). -/
def rowMax (ty : Ty) : Nat := if ty = .f32 then 1020 else 2040

/-- The header that 16 bytes hold when the row obeys R232 and Table 12-7 for a type. -/
def rowHdrOf (ty : Ty) (pa : Nat) (bs : List Byte) : Option RowHdr :=
  let n := leNat bs
  let len := field n 64 16
  if field n 80 8 = (if ty = .f32 then 0 else 1) && field n 96 32 = 0 && 1 ≤ len && len ≤ rowMax ty
      && pa % 4096 + 16 + len * tyBytes ty ≤ 4096 then
    some { version := w64 (field n 0 64), len, wpart := field n 88 8 }
  else none

/-- A row's header read in the operation's step; fails with PROT for a malformed row and POISON for an
uncorrectable header (R240). -/
def State.rowOpen (s : State) (k pa : Nat) (ty : Ty) : State × Except Nat RowHdr :=
  if !isHbm pa then (s, .error 0x0A)
  else
    let s1 := s.rowEvict pa 16
    match s1.readDram k pa 16 2 with
    | (s2, none) => (s2, .error 0x0B)
    | (s2, some bs) =>
      match rowHdrOf ty pa bs with
      | none => (s2, .error 0x0A)
      | some r => (s2.rowEvict pa (16 + r.len * tyBytes ty), .ok r)

/-- Element `e` of a row; one that is uncorrectable reads as the poison NaN (R240). -/
def State.rowElem (s : State) (k pa : Nat) (ty : Ty) (e : Nat) : W64 :=
  match s.dramGet k (pa + 16 + e * tyBytes ty) (tyBytes ty) with
  | some bs => w64 (leNat bs)
  | none => w64 ((fmtOf ty).poison.getD 0)

/-- The bytes of some elements of a row, those below its length. -/
def rowRanges (pa : Nat) (ty : Ty) (len : Nat) (es : List Nat) : List (Nat × Nat) :=
  (es.filter (fun e => e < len)).map (fun e => (pa + 16 + e * tyBytes ty, tyBytes ty))

/-- First touch of the lines that some ranges of bytes lie in (R202). -/
def State.touchRanges (s : State) (ranges : List (Nat × Nat)) : State :=
  if s.migs.isEmpty then s else ranges.foldl (fun s r => s.dramTouchAll r.1 r.2) s

/-- Bytes at addresses written in one write at the pseudo-channel. -/
def State.dramPutAll (s : State) (k : Nat) (cs : List (Nat × Byte)) : State :=
  ((cs.map (fun c => c.1 / 128)).eraseDups).foldl (fun s line =>
    s.dramPut k line ((cs.filter (fun c => c.1 / 128 = line)).map (fun c => (c.1 % 128, c.2)))) s

/-- Bytes laid from an address up. -/
def laid (pa : Nat) (bs : List Byte) : List (Nat × Byte) := bs.zipIdx.map (fun b => (pa + b.2, b.1))

/-- One row write: elements, VERSION, WPART and TFRONT (R237). -/
def State.rowWrite (s : State) (k pa : Nat) (ty : Ty) (r : RowHdr) (w : W64) (part : Nat) (es : List (Nat × W64)) : State :=
  let next := r.version + 1
  let version := if next.toNat < w.toNat then w else next
  let cells := laid pa (leBytes version.toNat 8) ++ laid (pa + 0x0B) (leBytes part 1)
    ++ es.flatMap (fun e => laid (pa + 16 + e.1 * tyBytes ty) (leBytes e.2.toNat (tyBytes ty)))
  let s1 := s.dramPutAll k cells
  if w != 0 && s1.tfront.toNat < w.toNat then { s1 with tfront := w } else s1

/-- Partials combined into some elements of a row. -/
def State.rowSums (s : State) (k pa : Nat) (ty : Ty) (len : Nat) (es : List (Nat × BitVec 32)) : List (Nat × W64) :=
  (es.filter (fun e => e.1 < len)).map (fun e => (e.1, applied 0 ty (s.rowElem k pa ty e.1) (e.2.setWidth 64)))

/-! ### Applying partials (R228, R230, R239) -/

/-- A failed partial is reported to its group; a group whose block has gone leaves it to the launch
(R230, R410). -/
def State.partialFailed (s : State) (p : Partial) (cause : Nat) : State :=
  if (s.block? p.bid).isSome || s.images.any (fun im => im.block.bid = p.bid) then
    s.trapAsync p.bid p.g { cause := BitVec.ofNat 8 cause, addr := p.va }
  else s.onLaunch p.lid (fun l => l.setCause cause)

/-- A partial applied, by writer `w` (R228, R230, R239). -/
def State.applyPartial (s : State) (w : Writer) (p : Partial) : State :=
  match p.row with
  | some (pa, es) =>
    match s.rowOpen p.key pa p.ty with
    | (s1, .error cause) => s1.partialFailed p cause
    | (s1, .ok r) =>
      -- a partial that covers no element below LEN writes nothing (R234)
      if es.all (fun e => r.len ≤ e.1) then s1
      else
        let ranges := rowRanges pa p.ty r.len (es.map (·.1))
        let s2 := (s1.touchRanges ranges).berrRead 2 ranges
        s2.rowWrite p.key pa p.ty r p.stamp p.part (s2.rowSums p.key pa p.ty r.len es)
  | none =>
    let n := tyBytes p.ty
    let s1 := s.homeTouch { lid := p.lid, die := s.homeDie p.pa, key := p.key, atomic := true } p.pa
    if s1.homeBad (p.pa / 128) then s1.partialFailed p 0x0B
    else
      let m := w64 (leNat (s1.bytesUnder p.key p.pa n))
      s1.homeWriteBytes w p.key p.pa (leBytes (applied p.op p.ty m p.v).toNat n)

/-- The order of R228: core, scheduler, slot, issue position. -/
def Partial.before (p q : Partial) : Bool :=
  if p.core != q.core then p.core < q.core
  else if p.sched != q.sched then p.sched < q.sched
  else if p.slot != q.slot then p.slot < q.slot
  else p.pos < q.pos

/-- A partial placed after every one that does not follow it. -/
def placePartial (p : Partial) : List Partial → List Partial
  | [] => [p]
  | q :: r => if p.before q then p :: q :: r else q :: placePartial p r

/-- Partials in the order of R228; equal keys keep their order. -/
def sortPartials (l : List Partial) : List Partial := l.foldl (fun acc p => placePartial p acc) []

/-- Held partials taken out and applied in the order of R228. -/
def State.applyHeld (s : State) (w : Writer) (which : Partial → Bool) : State :=
  (sortPartials (s.held.filter which)).foldl (fun s p => s.applyPartial w p)
    { s with held := s.held.filter (fun p => !which p) }

/-- Every buffered partial of a launch drained into its held set (R227). -/
def State.drainLaunch (s : State) (lid : Nat) : State :=
  s.units.foldl (fun s u =>
    let out := u.2.abuf.filter (fun p => p.lid = lid)
    if out.isEmpty then s
    else { s.onProc u.1 (fun p => { p with abuf := p.abuf.filter (fun x => x.lid != lid) }) with held := s.held ++ out }) s

/-! ### Room in the held sets and the buffers (R227) -/

/-- Held partials of a die. -/
def State.heldOn (s : State) (d : Nat) : List Partial := s.held.filter (fun p => s.homeDie p.pa = d)

/-- The element of a die with the most held partials, ties going to the lowest address. -/
def mostHeld : List Partial → List Partial → Option (Nat × Nat)
  | _, [] => none
  | all, p :: r =>
    let n := (all.filter (fun q => q.pa = p.pa)).length
    match mostHeld all r with
    | none => some (n, p.pa)
    | some (m, pa) => if m < n || (m = n && p.pa ≤ pa) then some (n, p.pa) else some (m, pa)

/-- The held set of a die takes the partials that reached it, oldest first: each that finds it full makes it apply the
element with the most partials held before it (R227). -/
def State.trimDie (d : Nat) : Nat → State → State
  | 0, s => s
  | fuel + 1, s =>
    let mine : List Partial := s.heldOn d
    let full := mine.take 65536
    if mine.length ≤ 65536 then s
    else match mostHeld full full with
      | none => s
      | some (_, pa) =>
        let out : List Partial := full.filter (fun p => p.pa = pa)
        let others : List Partial := s.held.filter (fun p => s.homeDie p.pa != d)
        let rest : List Partial := full.filter (fun p => p.pa != pa)
        let s1 : State := { s with held := others ++ rest ++ mine.drop 65536 }
        State.trimDie d fuel (((sortPartials out).foldl (fun s p => s.applyPartial .other p) s1).pkgEvent 0x020
          (((out.head?).map (fun p => p.lid)).getD 0) d)

/-- What the last drains sent to the held sets is taken by them within their size. -/
def State.trimHeld (s : State) : State :=
  if s.held.length ≤ 65536 then s else (List.range 4).foldl (fun s d => State.trimDie d s.held.length s) s

/-- An ordered flush point of a launch (R228). -/
def State.flushLaunch (s : State) (lid : Nat) : State := ((s.drainLaunch lid).trimHeld).applyHeld .other (fun p => p.lid = lid)

/-- Two partials lie in entries of one key (R225). -/
def Partial.sameKey (p q : Partial) : Bool :=
  p.lid = q.lid && p.bid = q.bid && p.g = q.g && p.sched = q.sched && p.slot = q.slot && p.op = q.op && p.ty = q.ty
    && (match p.row, q.row with
      | none, none => p.pa / 128 = q.pa / 128
      | some a, some b => a.1 = b.1 && p.pa = q.pa
      | _, _ => false)

/-- The entries that partials of one scheduler take: 32 of a key to each. -/
def entriesOf : List Partial → List Partial → Nat
  | _, [] => 0
  | seen, p :: r =>
    (if (seen.filter p.sameKey).length % 32 = 0 then 1 else 0) + entriesOf (p :: seen) r

/-- The first 32 partials of the key of `h`, and the rest. -/
def takeEntry (h : Partial) : Nat → List Partial → List Partial × List Partial
  | _, [] => ([], [])
  | n, p :: r =>
    if 0 < n && p.sameKey h then let (a, b) := takeEntry h (n - 1) r; (p :: a, b)
    else let (a, b) := takeEntry h n r; (a, p :: b)

/-- The oldest entry of a scheduler drained (R227). -/
def State.drainOldest (s : State) (u sched : Nat) : State :=
  match (s.proc u).abuf.find? (fun p => p.sched = sched) with
  | none => s
  | some h =>
    let (out, rest) := takeEntry h 32 (s.proc u).abuf
    { s.onProc u (fun p => { p with abuf := rest }) with held := s.held ++ out }

/-- Entries drained until one is free. -/
def State.makeRoom (u sched : Nat) : Nat → State → State
  | 0, s => s
  | fuel + 1, s =>
    if entriesOf [] ((s.proc u).abuf.filter (fun p => p.sched = sched)) < 256 then s
    else State.makeRoom u sched fuel (s.drainOldest u sched)

/-- Elements of a row entry with new contributions combined (R225, R239). -/
def mergeRow (old new : List (Nat × BitVec 32)) : List (Nat × BitVec 32) :=
  new.foldl (fun acc e =>
    if acc.any (fun x => x.1 = e.1) then
      acc.map (fun x => if x.1 = e.1 then (x.1, (combined 0 .f32 (x.2.setWidth 64) (e.2.setWidth 64)).setWidth 32) else x)
    else acc ++ [e]) old

/-- A contribution combined into the partial of its element. -/
def Partial.merge (p c : Partial) : Partial :=
  let p := { p with pages := (p.pages ++ c.pages).eraseDups }
  match p.row, c.row with
  | some (pa, es), some (_, fs) =>
    { p with row := some (pa, mergeRow es fs), stamp := if p.stamp.toNat < c.stamp.toNat then c.stamp else p.stamp }
  | _, _ => { p with v := combined p.op p.ty p.v c.v }

/-- A contribution entered in its scheduler's buffer (R225, R227). -/
def State.enterPartial (s : State) (c : Partial) : State :=
  let u := c.core
  if (s.proc u).abuf.any (fun p => p.sameKey c && p.pa = c.pa) then
    s.onProc u (fun p => { p with abuf := p.abuf.map (fun x => if x.sameKey c && x.pa = c.pa then x.merge c else x) })
  else
    let mates := (s.proc u).abuf.filter (fun p => p.sameKey c)
    let s1 := if mates.length % 32 = 0 then State.makeRoom u c.sched 257 s else s
    s1.onProc u (fun p => { p with abuf := p.abuf ++ [c] })

end Sys2Proof.Machine
end

