-- ==== Sys2Proof/Machine/Atomics.lean ====
section
/-! DEFINITION. Atomics and buffered reductions (R220 to R231). -/

namespace Sys2Proof.Machine

/-- The step of an atomic on one element: from the old value and the lane's sources, the new value when it
writes one. -/
abbrev AtomStep := W64 → (Pos → W64) → Option W64

/-- An atomic on the host window in PCIe mode is a PCIe AtomicOp (R220), and one on a peer window a UALink
atomic (R436). -/
inductive PcieOp where
  | addInt | exchange | none
  deriving DecidableEq, Repr

/-- The PCIe AtomicOp that `atom.add` of a type is. -/
def pcieAdd : Ty → PcieOp
  | .i32 | .i64 | .n32 | .n64 => .addInt
  | _ => .none

/-- The target takes atomics (R220, R436); a peer window takes those that UALink carries (assumption 23). -/
def State.atomTarget (s : State) (po : PcieOp) : Spot → Bool
  | .memory _ => true
  | .peer _ => po != .none
  | .host => s.port = .cxl || po != .none
  | _ => false

/-- What the lanes of an atomic raise at issue: of the first that fails, what a write of it raises, or PROT where its target takes
no such atomic (R208, R220). -/
def State.atomTrap (s : State) (v : View) (po : PcieOp) (bytes : Nat) (xs : List LaneXl) : Option TrapInfo :=
  xs.findSome? (fun x => (x.writeTrap v.sup bytes).orElse (fun _ => match x.r with
    | .ok (_, sp) => if s.atomTarget po sp then none else some { cause := 0x0A, addr := x.ea }
    | .error _ => none))

/-- An atomic waits for room: among the core's outstanding requests (R197), or, of a speculative task, for its marks and
versions (R383). -/
def State.atomLacksRoom (s : State) (c : Ctx) (xs : List LaneXl) : Option State :=
  if s.requestsFull c xs then some s
  else match s.specTask c with
  | none => none
  | some (lid, n) =>
    let lines := linesOf xs
    let marked := lines.foldl (fun s l => s.mark lid n l) s
    ((s.fullDie lid n false lines).or (marked.fullDie lid n true lines)).map (s.stallYoungest lid)

/-- One lane's step at the home, indivisible, for the task `t0` that issued it: a task that has been aborted meanwhile writes
nothing (R222, R224, R377). -/
def State.atomLane (s : State) (c : Ctx) (t0 : Option (Nat × Nat)) (y : Xl) (sp : Spot) (bytes : Nat) (step : W64 → Option W64) :
    State × Except Nat (List Byte) :=
  match s.readAt c y sp true false bytes true with
  | (s1, .error e) => (s1, .error e)
  | (s1, .ok bs) =>
    match step (w64 (leNat bs)) with
    | none => (s1, .ok bs)
    | some new =>
      if s1.specTask c = t0 then
        (s1.writeLine c y true false ((leBytes new.toNat bytes).zipIdx.map (fun b => (y.pa % 128 + b.2, b.1))), .ok bs)
      else (s1, .ok bs)

/-- The lanes' steps in ascending order (R222). -/
def State.atomLanes (s : State) (c : Ctx) (t0 : Option (Nat × Nat)) (bytes : Nat) (step : Nat → W64 → Option W64) :
    List LaneXl → State × List LaneLoad
  | [] => (s, [])
  | x :: r =>
    match x.r with
    | .error e => let (s1, out) := s.atomLanes c t0 bytes step r; (s1, { lane := x.lane, ea := x.ea, r := .error e } :: out)
    | .ok (y, sp) =>
      let (s1, d) := s.atomLane c t0 y sp bytes (step x.lane)
      let (s2, out) := s1.atomLanes c t0 bytes step r
      (s2, ⟨x.lane, x.ea, d, some { sector := some (y.pa / 32), ea := x.ea }⟩ :: out)

/-- The format of an atomic's type, in which a short immediate holds its value (R99). -/
def atomFmt (ty : Ty) : Option Fmt :=
  match ty with
  | .f32 => some fF32
  | .bf16 => some fBf16
  | _ => none

/-- The readings of a lane's data sources of a type. -/
def laneOperands (s : State) (v : View) (ps : List Pos) (ty : Ty) (l : Nat) : Pos → W64 :=
  valueAt (s.readings v (ps.map (fun p => (p, tyWide ty, atomFmt ty))) l)

/-- The effect of an atomic on the active lanes (R220 to R224); a task that its translation or the release before it
aborts does nothing (R377). -/
def State.atomEffect (s : State) (v : View) (ty : Ty) (m : MemMod) (ord : MemOrd) (po : PcieOp) (ps : List Pos)
    (step : AtomStep) : Effect :=
  let n := tyBytes ty
  let eas := s.addresses v m.off
  if s.parksOn v.c eas then .wait
  else match misaligned n eas with
  | some t => .trap s t
  | none =>
    let (s1, xs) := s.translateLanes v.c .write eas
    match s1.atomTrap v po n xs with
    | some t => .trap s t
    | none =>
      let rel := ord == .rel || ord == .ar
      if s.taskLost s1 v.c then .waitIn s1
      else if rel && s1.unperformed v.c then .wait
      else match s1.atomLacksRoom v.c xs with
        | some s2 => .waitIn s2
        | none =>
          let s2 := if rel then s1.release v.c m.scope else s1
          if s1.taskLost s2 v.c then .waitIn s2
          else
            let (s3, ls) := s2.atomLanes v.c (s1.specTask v.c) n (fun l old => step old (laneOperands s v ps ty l)) xs
            let (s4, elems) := v.loadElems s3 ty 1 ls
            let s5 := (s4.rootRead v.c n xs).counted v.c true elems 0 (requestSectors xs)
            .done (if ord == .acq || ord == .ar then s5.acquire v.c m.scope else s5)

/-- A data source of an atomic. -/
def atomSlot (pos : Pos) (ty : Ty) (op : Operand) : Slot :=
  { pos, op, wide := tyWide ty, okP := false, okSp := false, consumed := true }

/-- An atomic with one data source. -/
def State.atomic (s : State) (h : Head) (ty : Ty) (d a b : Operand) (m : MemMod) (po : PcieOp)
    (new : W64 → W64 → W64) : Host.Outcome State Fault Refusal :=
  s.issue h { rpt := true, ld := true, feat := tyFeat ty } [loadSlot ty 1 d, addrSlot a, atomSlot .b ty b] (fun s v =>
    s.atomEffect v ty m m.ord po [.b] (fun old x => some (new old (x .b))))

/-- `atom.add` (R220 to R224). -/
def execAtomAdd (h : Head) (ty : Ty) (d a b : Operand) (m : MemMod) (s : State) : Host.Outcome State Fault Refusal :=
  s.atomic h ty d a b m (pcieAdd ty) (sumOf ty)

/-- `atom.min` (R220 to R224). -/
def execAtomMin (h : Head) (ty : Ty) (d a b : Operand) (m : MemMod) (s : State) : Host.Outcome State Fault Refusal :=
  s.atomic h ty d a b m .none (minMaxOf false ty)

/-- `atom.max` (R220 to R224). -/
def execAtomMax (h : Head) (ty : Ty) (d a b : Operand) (m : MemMod) (s : State) : Host.Outcome State Fault Refusal :=
  s.atomic h ty d a b m .none (minMaxOf true ty)

/-- `atom.and` (R220 to R224). -/
def execAtomAnd (h : Head) (ty : Ty) (d a b : Operand) (m : MemMod) (s : State) : Host.Outcome State Fault Refusal :=
  s.atomic h ty d a b m .none (fun x y => x &&& y)

/-- `atom.or` (R220 to R224). -/
def execAtomOr (h : Head) (ty : Ty) (d a b : Operand) (m : MemMod) (s : State) : Host.Outcome State Fault Refusal :=
  s.atomic h ty d a b m .none (fun x y => x ||| y)

/-- `atom.xor` (R220 to R224). -/
def execAtomXor (h : Head) (ty : Ty) (d a b : Operand) (m : MemMod) (s : State) : Host.Outcome State Fault Refusal :=
  s.atomic h ty d a b m .none (fun x y => x ^^^ y)

/-- `atom.exch` (R220 to R224). -/
def execAtomExch (h : Head) (ty : Ty) (d a b : Operand) (m : MemMod) (s : State) : Host.Outcome State Fault Refusal :=
  s.atomic h ty d a b m .exchange (fun _ y => y)

/-- `atom.cas` (R220 to R224): C is written when the element equals B. -/
def execAtomCas (h : Head) (ty : Ty) (d a b c : Operand) (m : MemMod) (s : State) : Host.Outcome State Fault Refusal :=
  s.issue h { rpt := true, ld := true } [loadSlot ty 1 d, addrSlot a, atomSlot .b ty b, atomSlot .c ty c] (fun s v =>
    s.atomEffect v ty m m.ord .exchange [.b, .c] (fun old x => if old = x .b then some (x .c) else none))

/-! ### Buffered reductions -/

/-- The chosen context issues on a root core. -/
def State.selOnRoot (s : State) : Bool := (s.sel.map s.onRoot).getD false

/-- The contribution of one lane (R225, R226); its issue position counts from the group's start (R228, assumption 116). -/
def State.contribution (s : State) (v : View) (op : Nat) (ty : Ty) (ea : W64) (y : Xl) (c : W64) : Partial :=
  let (bid, g) : Nat × Nat := match v.c with | .grp b g => (b, g) | .sup _ _ => (0, 0)
  { lid := (s.blockOf v.c).lid, core := s.ctxUnit v.c, sched := v.g.sched, slot := v.g.slot, pos := v.g.nextId, bid, g, op
    ty, pa := y.pa, va := ea, v := widened ty c, key := leafKey y.leaf
    pages := [(ea, s.leafLevel (s.xctx v.c) 1 ea, leafGlobal y.leaf)] }

/-- The contributions of the lanes entered (R226): the core's own copy of the line, which the group may have written, is written
back and dropped first (R246), and a line of a migrating page filled (R202). -/
def State.enterLanes (s : State) (v : View) (op : Nat) (ty : Ty) : List LaneXl → State
  | [] => s
  | x :: r =>
    match x.r with
    | .error _ => s.enterLanes v op ty r
    | .ok (y, _) =>
      let c := (s.src v.c v.g (v.op .b) (tyWide ty) (atomFmt ty) x.lane).v
      (((s.bypassL1 v.c (y.pa / 128)).migTouch y).enterPartial (s.contribution v op ty x.ea y c)).enterLanes v op ty r

/-- `ared` of an operation: 0 add, 1 min, 2 max (R220, R226); on a root core, an atomic with a discarded D
(R309). -/
def State.reduce (s : State) (h : Head) (op : Nat) (ty : Ty) (a b : Operand) (m : MemMod) : Host.Outcome State Fault Refusal :=
  let root := s.selOnRoot
  s.issue h { rpt := true, ld := root, st := !root, parks := !root, feat := tyFeat ty } [addrSlot a, atomSlot .b ty b] (fun s v =>
    if root then
      s.atomEffect { v with op := fun p => if p = .d then .k 0 else v.op p } ty m .rlx .none [.b]
        (fun old x => some (if op = 0 then sumOf ty old (x .b) else minMaxOf (op = 2) ty old (x .b)))
    else
      let n := tyBytes ty
      let eas := s.addresses v m.off
      match misaligned n eas with
      | some t => .trap s t
      | none =>
        let (s1, xs) := s.translateLanes v.c .write eas
        match s1.atomTrap v .none n xs with
        | some t => .trap s t
        | none =>
          if s1.requestsFull v.c xs then .waitIn s1
          else .done ((s1.enterLanes v op ty xs).trimHeld.counted v.c false [] 0 (requestSectors xs)))

/-- `ared.add` (R225, R226). -/
def execAredAdd (h : Head) (ty : Ty) (a b : Operand) (m : MemMod) (s : State) : Host.Outcome State Fault Refusal :=
  s.reduce h 0 ty a b m

/-- `ared.min` (R225, R226). -/
def execAredMin (h : Head) (ty : Ty) (a b : Operand) (m : MemMod) (s : State) : Host.Outcome State Fault Refusal :=
  s.reduce h 1 ty a b m

/-- `ared.max` (R225, R226). -/
def execAredMax (h : Head) (ty : Ty) (a b : Operand) (m : MemMod) (s : State) : Host.Outcome State Fault Refusal :=
  s.reduce h 2 ty a b m

/-- A group's partials, buffered and held, applied in its issue order; the core's own copies of their lines are then written
back and dropped, so that what the group wrote after a contribution follows it and what it reads later does not precede it
(R229, R246, R250). -/
def State.flushGroup (s : State) (c : Ctx) (bid g : Nat) : State :=
  let which (p : Partial) : Bool := p.bid = bid && p.g = g
  let s1 := (s.drainGroup (s.ctxUnit c) bid g).trimHeld
  let lines := (((s1.held.filter which).filter (·.row.isNone)).map (fun p => p.pa / 128)).eraseDups
  let out := sortBy (·.pos) (s1.held.filter which)
  lines.foldl (fun s l => s.bypassL1 c l)
    (out.foldl (fun s p => s.applyPartial (s1.writerOf c) p) { s1 with held := s1.held.filter (fun p => !which p) })

/-- `aflush` (R229, R309). -/
def execAflush (h : Head) (s : State) : Host.Outcome State Fault Refusal :=
  s.issue h { parks := !s.selOnRoot } [] (fun s v =>
    match v.c with
    | .sup _ _ => .done s
    | .grp bid g =>
      if s.onRoot v.c then .done s
      else .done (s.flushGroup v.c bid g))

end Sys2Proof.Machine
end

