-- ==== Sys2Proof/Machine/MxOps.lean ====
section
/-! DEFINITION. The matrix engine (R263 to R278): sets, operand maps, fragments, the products and sums of
R137 and R138, and what each matrix-queue entry does when it is performed. -/

namespace Sys2Proof.Machine

/-! ### Formats and shapes -/

/-- Bits of a value of a matrix format. -/
def mxBits : MxFmt → Nat
  | .e3m2 | .e2m3 => 6
  | .e2m1 => 4
  | .bf16 | .f16 => 16
  | _ => 8

/-- The code of a matrix format (R113). -/
def mxCode : MxFmt → Nat
  | .e4m3 => 0
  | .e5m2 => 1
  | .e3m2 => 2
  | .e2m3 => 3
  | .e2m1 => 4
  | .bf16 => 5
  | .f16 => 6
  | .i8 => 7

/-- The floating-point format of a matrix format. -/
def mxFmtOf : MxFmt → Fmt
  | .e5m2 => fE5m2
  | .e3m2 => fE3m2
  | .e2m3 => fE2m3
  | .e2m1 => fE2m1
  | .bf16 => fBf16
  | .f16 => fF16
  | _ => fE4m3

/-- A narrow format, which MX scales apply to (R124). -/
def mxNarrow (f : MxFmt) : Bool := mxCode f < 5

/-- M and N of a shape (Table 15-1). -/
def shapeDims : Shape → Nat × Nat
  | .s32x32 => (32, 32)
  | .s64x32 => (64, 32)
  | .s32x64 => (32, 64)
  | .s64x64 => (64, 64)
  | .s128x32 => (128, 32)
  | .s32x128 => (32, 128)

/-- Sub-tiles of a shape, which is also the size of its set (Table 14-1). -/
def shapeTiles (sh : Shape) : Nat := (shapeDims sh).1 * (shapeDims sh).2 / 256

/-- Bytes of a tile in the accumulator store (R273). -/
def tileBytes (sh : Shape) : Nat := 4 * (shapeDims sh).1 * (shapeDims sh).2

/-! ### Operand maps (Table 14-3, R270) -/

/-- BASE, in bytes. -/
def mapBase (d : W64) : Nat := 16 * field d.toNat 0 17
/-- PITCH, in bytes. -/
def mapPitch (d : W64) : Nat := 16 * field d.toNat 17 17
/-- SCALE, in bytes. -/
def mapScale (d : W64) : Nat := 16 * field d.toNat 34 17
/-- SWZ. -/
def mapSwz (d : W64) : Bool := d.getLsbD 56
/-- KMAJ. -/
def mapKmaj (d : W64) : Bool := d.getLsbD 57
/-- FMT. -/
def mapFmt (d : W64) : Nat := field d.toNat 58 3
/-- MX. -/
def mapMx (d : W64) : Bool := d.getLsbD 61

/-- A descriptor that a slot may hold (R269). -/
def mapValid (d : W64) : Bool :=
  mapPitch d != 0 && (!mapSwz d || mapPitch d % 128 = 0) && (mapKmaj d || 5 ≤ mapFmt d) && (!mapMx d || mapFmt d < 5)

/-- An offset within row `r` under the swizzle of R270. -/
def swizzle (swz : Bool) (r o : Nat) : Nat :=
  if swz then o / 128 * 128 + ((o / 16 % 8) ^^^ (r % 8)) * 16 + o % 16 else o

/-- The storage row of element (x, k), and its bit offset in the row: x is i for A and j for B. -/
def mapPlace (d : W64) (b x k : Nat) : Nat × Nat := if mapKmaj d then (x, b * k) else (k, b * x)

/-- The scratchpad offsets of the bytes of element (x, k). -/
def mapBytes (d : W64) (b x k : Nat) : List Nat :=
  let (r, o) := mapPlace d b x k
  (List.range ((o + b - 1) / 8 - o / 8 + 1)).map (fun i => mapBase d + r * mapPitch d + swizzle (mapSwz d) r (o / 8 + i))

/-- Every byte of an operand of `x` rows or columns and `k` values of K lies below `len` (R271). -/
def mapFits (d : W64) (b x k len : Nat) : Bool :=
  let rows := if mapKmaj d then x else k
  let bytes := (if mapKmaj d then k else x) * b / 8
  (List.range rows).all (fun r => (List.range (ceilDiv bytes 16)).all (fun g =>
    mapBase d + r * mapPitch d + swizzle (mapSwz d) r (16 * g) + min 16 (bytes - 16 * g) ≤ len))
  && (!mapMx d || (List.range x).all (fun i => mapScale d + 16 * i + k / 32 ≤ len))

/-- Values per register element of a fragment (R272). -/
def fragValues (f : MxFmt) : Nat := if mxBits f = 16 then 2 else if mxBits f = 4 then 8 else 4

/-- Registers of a fragment (R272). -/
def fragRegs (f : MxFmt) : Nat := 32 / fragValues f

/-- The value bits at some byte offsets, from bit `o` of the first. -/
def bitsAt (rd : Nat → Byte) (bytes : List Nat) (o b : Nat) : Nat := field (leNat (bytes.map rd)) o b

/-- The value bits of element (x, k) of an operand, given the scratchpad's bytes. -/
def MxOperand.bits (rd : Nat → Byte) (f : MxFmt) (x k : Nat) : MxOperand → Nat
  | .map d => bitsAt rd (mapBytes d (mxBits f) x k) ((mapPlace d (mxBits f) x k).2 % 8) (mxBits f)
  | .frag lanes _ =>
    let e := takeAt 0 (takeAt [] lanes x) (k / fragValues f)
    field e.toNat (k % fragValues f * mxBits f) (mxBits f)

/-- The scratchpad bytes that element (x, k) of an operand uses. -/
def MxOperand.bytes (f : MxFmt) (x k : Nat) : MxOperand → List Nat
  | .map d => mapBytes d (mxBits f) x k
  | .frag _ _ => []

/-- The byte of an operand's scale for row or column `x` and chunk `c` (R270). -/
def MxOperand.scaleByte (x c : Nat) : MxOperand → Option Nat
  | .map d => if mapMx d then some (mapScale d + 16 * x + c) else none
  | .frag _ _ => none

/-- The scale of an operand's row or column `x` in chunk `c`; none where none applies (R124). -/
def MxOperand.scale (rd : Nat → Byte) (f : MxFmt) (x c : Nat) (o : MxOperand) : Option Nat :=
  if !mxNarrow f then none
  else match o with
    | .frag _ (some l) => some (takeAt 0 l x).toNat
    | o => (o.scaleByte x c).map (fun a => (rd a).toNat)

/-! ### Sparsity (R275) -/

/-- The block number of band `b`'s chunk `c`, when it is present. -/
def sparseIndex (bm : BitVec 128) (b c : Nat) : Option Nat :=
  let i := c + 16 * b
  if bm.getLsbD i then some ((List.range i).filter (fun j => bm.getLsbD j)).length else none

/-- The offset of index block `n`. -/
def indexBlock (base n : Nat) : Nat := base + 16 + 64 * n

/-- The offset of value block `n` of a compressed A. -/
def valueBlock (d : W64) (f : MxFmt) (n : Nat) : Nat := mapBase d + n * (32 * mxBits f)

/-- The terms of row `r` of a present chunk: bit offset of the value in block `n`, and k within the chunk. -/
def sparseTerms (rd : Nat → Byte) (base n r : Nat) (f : MxFmt) : List (Nat × Nat) :=
  (List.range 16).map (fun v =>
    let nib := field (rd (indexBlock base n + (8 * r + v / 2) / 2)).toNat (4 * ((8 * r + v / 2) % 2)) 4
    ((16 * r + v) * mxBits f, 4 * (v / 2) + (if v % 2 = 0 then nib % 4 else nib / 4)))

/-! ### Sums (R137, R138) -/

/-- The value of an operand's bits with its scale; a NaN scale is a NaN (R124, R137). -/
def mxValue (f : MxFmt) (bits : Nat) : Option Nat → Val
  | none => (mxFmtOf f).decode bits
  | some 255 => .nan false
  | some s => ((mxFmtOf f).decode bits).scale s

/-- The exact sum of a chunk's products (R137). -/
def chunkSum (ps : List (Val × Val)) : Val :=
  let src := ps.flatMap (fun p => [p.1, p.2])
  let prods := ps.map (fun p => p.1.mul p.2)
  let pinf := prods.any (fun v => v = .inf false)
  let ninf := prods.any (fun v => v = .inf true)
  if src.any (fun v => v = .poison) then .poison
  else if src.any Val.isNan || ps.any (fun p => mulInvalid p.1 p.2) || (pinf && ninf) then .nan false
  else if pinf || ninf then .inf ninf
  else
    let (m, e) := exactSum prods
    .fin (if m = 0 then prods.all (fun v => v.isZero && v.neg) else m < 0) m.natAbs e

/-- The accumulator after a chunk (R137). -/
def accStep (acc : Nat) (s : Val) : Nat :=
  let a := fF32.decode acc
  (fF32.dotOut {} [a, s] [] [a, s] 0).bits

/-- The accumulator of an `.i8` form after a chunk (R138). -/
def intStep (sat : Bool) (acc : Nat) (ps : List (Int × Int)) : Nat :=
  intBits .i32 (fitInt .i32 sat (signedOf 32 acc + (ps.map (fun p => p.1 * p.2)).sum))

/-- The operands and options of a matrix multiplication. -/
structure Mul where
  sparse : Option (Nat × BitVec 128)
  fa : MxFmt
  fb : MxFmt
  z : Bool
  sat : Bool
  a : MxOperand
  b : MxOperand
  shape : Shape
  chunks : Nat

/-- The terms of element row `i` in chunk `c`: bits of A, the bytes they use, and k; none when the chunk is
not present. -/
def Mul.terms (m : Mul) (rd : Nat → Byte) (i c : Nat) : Option (List (Nat × List Nat × Nat)) :=
  match m.sparse, m.a with
  | some (base, bm), .map d =>
    (sparseIndex bm (i / 16) c).map (fun n => (sparseTerms rd base n (i % 16) m.fa).map (fun t =>
      let at_ := valueBlock d m.fa n
      let bytes := (List.range ((t.1 + mxBits m.fa - 1) / 8 - t.1 / 8 + 1)).map (fun q => at_ + t.1 / 8 + q)
      (bitsAt rd bytes (t.1 % 8) (mxBits m.fa), bytes, 32 * c + t.2)))
  | _, a => some ((List.range 32).map (fun q =>
      (a.bits rd m.fa i (32 * c + q), a.bytes m.fa i (32 * c + q), 32 * c + q)))

/-- One chunk's step on the accumulator of element (i, j). -/
def Mul.step (m : Mul) (rd : Nat → Byte) (i j acc c : Nat) : Nat :=
  match m.terms rd i c with
  | none => acc
  | some ts =>
    if m.fa = .i8 then
      intStep m.sat acc (ts.map (fun t => (signedOf 8 t.1, signedOf 8 (m.b.bits rd m.fb j t.2.2))))
    else
      let sa := m.a.scale rd m.fa i c
      let sb := m.b.scale rd m.fb j c
      accStep acc (chunkSum (ts.map (fun t => (mxValue m.fa t.1 sa, mxValue m.fb (m.b.bits rd m.fb j t.2.2) sb))))

/-- Element (i, j) from its start value (R287). -/
def Mul.element (m : Mul) (rd : Nat → Byte) (start i j : Nat) : Nat :=
  (List.range m.chunks).foldl (fun acc c => m.step rd i j acc c) (if m.z then 0 else start)

/-- The scratchpad bytes that element (i, j) uses. -/
def Mul.used (m : Mul) (rd : Nat → Byte) (i j : Nat) : List Nat :=
  (List.range m.chunks).flatMap (fun c =>
    let ts := (m.terms rd i c).getD []
    let index := match m.sparse with
      | some (base, bm) => ((sparseIndex bm (i / 16) c).map (fun n =>
          (List.range 4).map (fun q => indexBlock base n + 4 * (i % 16) + q))).getD []
      | none => []
    ts.flatMap (fun t => t.2.1 ++ m.b.bytes m.fb j t.2.2) ++ index
      ++ (if ts.isEmpty then [] else ((m.a.scaleByte i c).toList ++ (m.b.scaleByte j c).toList)))

/-! ### Queue entries -/

/-- The multiplication of an entry. -/
def MxKind.mul? : MxKind → Option Mul
  | .mul sp fa fb z sat a b sh n => some ⟨sp, fa, fb, z, sat, a, b, sh, n⟩
  | _ => none

/-- The accumulator bytes of an entry: offsets and lengths in its block's run (R265). -/
def MxCmd.ranges (m : MxCmd) : List (Nat × Nat) :=
  match m.kind with
  | .mul _ _ _ _ _ _ _ sh _ => [(m.acc, tileBytes sh)]
  | .clr n => [(m.acc, n)]
  | .load _ _ sh | .store _ _ sh _ _ | .engine _ sh => [(m.acc, tileBytes sh)]
  | .cvt _ b sh _ _ => [(m.acc, tileBytes sh), (b, tileBytes sh)]

/-- Two entries touch the same accumulator bytes. -/
def MxCmd.meets (m n : MxCmd) : Bool :=
  m.bid = n.bid && m.ranges.any (fun x => n.ranges.any (fun y => 0 < x.2 && 0 < y.2 && x.1 < y.1 + y.2 && y.1 < x.1 + x.2))

/-- The sub-arrays of a core that are enabled (R263, R279). -/
def State.subsEnabled (s : State) (u : Nat) : List Nat :=
  (List.range 16).filter (fun i => (s.cfg.subMask u &&& ~~~(s.proc u).rtfence).getLsbD i)

/-- The enabled sub-arrays of a set. -/
def State.setSubs (s : State) (u : Nat) (set : Nat × Nat) : List Nat :=
  (s.subsEnabled u).filter (fun i => set.1 ≤ i && i < set.1 + set.2)

/-- The lowest-numbered free set of a size with an enabled sub-array (R265). -/
def State.freeSet (s : State) (u n : Nat) : Option (Nat × Nat) :=
  let busy := (s.proc u).mx.filterMap (·.set)
  ((List.range (16 / n)).map (fun i => (n * i, n))).find? (fun x =>
    !(s.setSubs u x).isEmpty && !busy.any (fun y => x.1 < y.1 + y.2 && y.1 < x.1 + x.2))

/-- A core without an enabled sub-array loses MTX and SPARSE (R84, R278). -/
def State.dropMtx (s : State) (u : Nat) : State :=
  if isRoot u || !(s.subsEnabled u).isEmpty then s else s.onProc u (fun p => { p with featLost := p.featLost ||| 3 })

/-- A sub-array fenced at run time; with the last one the core loses the features of its engine (R84, R278). -/
def State.fenceSub (s : State) (u i : Nat) : State :=
  let s1 := s.onProc u (fun p =>
    { p with
      rtfence := p.rtfence ||| ((1 : BitVec 16) <<< i), failing := p.failing &&& ~~~((1 : BitVec 16) <<< i)
      fails := if p.fails = 0xFFFF then p.fails else p.fails + 1 })
  ((s1.dropMtx u).unitEvent u 0x011 1).notifySup u 0 (BitVec.ofNat 32 (1 + 256 * i))

/-- Elements of `w` bytes at `off`, granule by granule: a granule whose elements all have a value is one write,
and an element without one is left (R286). -/
def granuleWrites (off w : Nat) (es : List (Option (List Byte))) : List (Nat × List Byte) :=
  let k := 16 / w
  (List.range (es.length / k)).flatMap (fun q =>
    let mine := (es.drop (q * k)).take k
    if mine.all Option.isSome then [(off + 16 * q, mine.flatMap (fun e => e.getD []))]
    else mine.zipIdx.filterMap (fun e => e.1.map (fun bs => (off + 16 * q + w * e.2, bs))))

/-- POISON becomes pending on the group of an entry for the lowest marked granule it read (R286). -/
def State.mxPoison (s : State) (m : MxCmd) : List Nat → State
  | [] => s
  | g :: r => s.trapAsync m.bid m.g { cause := 0x0B, addr := w64 (16 * r.foldl min g) }

/-- The marked granules, in a block's run, that some bytes lie in. -/
def Proc.marksIn (p : Proc) (b : Block) (bytes : List Nat) : List Nat :=
  if p.spPoison.isEmpty then [] else (bytes.map (· / 16)).filter (fun g => p.spPoison.contains (b.spBase / 16 + g))

/-- The marked accumulator granules, in a block's run, of `n` bytes at `off`. -/
def Proc.accMarksIn (p : Proc) (b : Block) (off n : Nat) : List Nat :=
  if p.accPoison.isEmpty then []
  else (granulesOf off n).filter (fun g => p.accPoison.contains (b.accBase / 16 + g))

/-- Sub-tile `t` of a multiplication written, or the marked granules its sums use (R264, R274, R286). -/
def State.writeTile (s : State) (b : Block) (acc : Nat) (m : Mul) (t : Nat) : State × List Nat :=
  let n := (shapeDims m.shape).2
  let p := s.proc b.unit
  let rd (o : Nat) : Byte := Memory.read p.sp (b.spBase + o)
  let i0 := 16 * (t / (n / 16))
  let j0 := 16 * (t % (n / 16))
  let rows := (List.range 16).map (i0 + ·)
  let cols := (List.range 16).map (j0 + ·)
  let at_ (i : Nat) : Nat := acc + 4 * (i * n + j0)
  let bad := (if p.spPoison.isEmpty then [] else
      (if m.sparse.isSome then p.marksIn b ((List.range 16).map (fun q => (m.sparse.map (·.1)).getD 0 + q)) else [])
        ++ rows.flatMap (fun i => cols.flatMap (fun j => p.marksIn b (m.used rd i j))))
    ++ (if m.z then [] else rows.flatMap (fun i => p.accMarksIn b (at_ i) 64))
  if bad.isEmpty then
    (rows.foldl (fun s i =>
      s.accPut b (at_ i) (cols.flatMap (fun j =>
        leBytes (m.element rd (leNat (p.accRead (b.accBase + acc + 4 * (i * n + j)) 4)) i j) 4))) s, [])
  else (s, bad)

/-- The elements of a tile at accumulator offset `acc`, a marked one missing, and the granules marked. -/
def Proc.tileElems (p : Proc) (b : Block) (acc : Nat) (sh : Shape) : List (Option Nat) :=
  (List.range (tileBytes sh / 4)).map (fun q =>
    let o := acc + 4 * q
    if p.accPoison.contains ((b.accBase + o) / 16) then none else some (leNat (p.accRead (b.accBase + o) 4)))

/-- What `acc.st` writes of an element (Table 15-5). -/
def accStored (ty : Ty) (rnd : Rnd) (sat : Bool) (v : Nat) : Nat :=
  match ty with
  | .f32 | .i32 => v
  | t => (fConvert (fmtOf t) fF32 { rnd, sat } v).bits

/-- What `acc.cvt` writes of an element (Table 15-5). -/
def accConverted (ty : Ty) (rnd : Rnd) (sat : Bool) (v : Nat) : Nat :=
  match ty with
  | .f32 => (fFromInt fF32 rnd (signedOf 32 v)).bits
  | .i32 => (fToInt fF32 .i32 { rnd, sat } v).bits
  | t => (fWiden (fmtOf t) {} (fConvert (fmtOf t) fF32 { rnd, sat } v).bits).bits

/-- What `acc.ld` writes of an element (R292). -/
def accLoaded (ty : Ty) (v : Nat) : Nat :=
  match ty with
  | .f16 | .bf16 => (fWiden (fmtOf ty) {} v).bits
  | _ => v

/-- An `acc` entry performed whole (R286, R291 to R293); a multiplication is not. -/
def State.performAcc (s : State) (b : Block) (m : MxCmd) : State :=
  let p := s.proc b.unit
  match m.kind with
  | .clr n => s.accPut b m.acc (List.replicate n 0)
  | .load ty sp sh =>
    let w := tyBytes ty
    let es := (List.range (tileBytes sh / 4)).map (fun q =>
      if p.spBad (b.spBase + sp + w * q) w then none
      else some (leBytes (accLoaded ty (leNat (p.spRead (b.spBase + sp + w * q) w))) 4))
    ((granuleWrites m.acc 4 es).foldl (fun s x => s.accPut b x.1 x.2) s).mxPoison m
      (p.marksIn b ((List.range (w * es.length / 16)).map (fun q => sp + 16 * q)))
  | .store ty sp sh rnd sat =>
    let es := (p.tileElems b m.acc sh).map (fun e => e.map (fun v => leBytes (accStored ty rnd sat v) (tyBytes ty)))
    let s1 : State := match s.spTarget b sp (tyBytes ty * es.length) with
      | some (t, off) => (granuleWrites off (tyBytes ty) es).foldl (fun s x => s.spPut t x.1 x.2 false) s
      | none => s
    s1.mxPoison m (p.accMarksIn b m.acc (tileBytes sh))
  | .cvt ty dst sh rnd sat =>
    let es := (p.tileElems b m.acc sh).map (fun e => e.map (fun v => leBytes (accConverted ty rnd sat v) 4))
    ((granuleWrites dst 4 es).foldl (fun s x => s.accPut b x.1 x.2) s).mxPoison m (p.accMarksIn b m.acc (tileBytes sh))
  | _ => s

/-- An entry leaves the engine, complete. -/
def State.mxComplete (s : State) (u : Nat) (m : MxCmd) : State :=
  (s.onProc u (fun p => { p with mx := p.mx.filter (fun x => x.id != m.id) })).onGroupAny m.bid m.g (fun g => g.complete m.pend)

/-- The started `acc` entries of a block completed before the engine stops (R285). -/
def State.finishAcc (s : State) (b : Block) : State :=
  ((s.proc b.unit).mx.filter (fun m => m.bid = b.bid && m.started && m.kind.mul?.isNone
      && (match m.kind with | .engine _ _ => false | _ => true))).foldl
    (fun s m => (s.performAcc b m).mxComplete b.unit m) s

/-! ### Passes (R266, R274, R277, R278, R285) -/

/-- The sub-array that runs sub-tile `t` (R266). -/
def tileSub (subs : List Nat) (t : Nat) : Nat := takeAt 0 subs (t % subs.length)

/-- A started multiplication's unwritten sub-tiles run on its set: those of sub-arrays that pass their test are
written, and the others run again on what is left (R266, R274, R277, R278). It answers the sub-tiles written
and the marked granules met. -/
def State.runTiles (u : Nat) (b : Block) (acc : Nat) (m : Mul) (set : Nat × Nat) :
    Nat → State → List Nat → List Nat → State × List Nat × List Nat
  | 0, s, left, marks => (s, left, marks)
  | fuel + 1, s, left, marks =>
    let subs := s.setSubs u set
    if left.isEmpty || subs.isEmpty then (s, left, marks)
    else
      let fails (t : Nat) : Bool := (s.proc u).failing.getLsbD (tileSub subs t)
      let (s1, marks1) := (left.filter (fun t => !fails t)).foldl (fun x t =>
        let (s', bad) := x.1.writeTile b acc m t
        (s', x.2 ++ bad)) (s, marks)
      let bad := subs.filter (fun i => (s.proc u).failing.getLsbD i && left.any (fun t => tileSub subs t = i))
      State.runTiles u b acc m set fuel (bad.foldl (fun s i => s.fenceSub u i) s1) (left.filter fails) marks1

/-- A sub-tile mask of an entry. -/
def tileMask (ts : List Nat) : BitVec 16 := BitVec.ofNat 16 (laneMask ts)

/-- The sub-tiles of an entry that are not written. -/
def MxCmd.left (c : MxCmd) : List Nat :=
  match c.kind.mul? with
  | none => []
  | some m => (List.range (shapeTiles m.shape)).filter (fun t => !c.done.getLsbD t)

/-- Passes that an entry's unwritten sub-tiles take on `e` sub-arrays (R266). -/
def MxCmd.passesLeft (c : MxCmd) (e : Nat) : Nat := ((c.left.map (· / e)).eraseDups).length

/-- A started multiplication runs its next pass: sub-tile t runs in pass floor(t / E). What its set could not write, for want
of an enabled sub-array, is left to another set, and with its last sub-tile it completes (R266, R268, R274, R278). -/
def State.runPass (s : State) (u : Nat) (c : MxCmd) : State :=
  match c.kind.mul?, c.set, s.block? c.bid with
  | some m, some set, some b =>
    let e := (s.setSubs u set).length
    let ts := c.left.filter (fun t => t / e = c.left.headD 0 / e)
    let (s1, rest, marks) := State.runTiles u b c.acc m set 17 s ts []
    let c' := { c with
      done := c.done ||| tileMask (ts.filter (fun t => !rest.contains t)), set := if rest.isEmpty then c.set else none
      poison := c.poison ++ marks }
    if c'.left.isEmpty then (s1.mxComplete u c).mxPoison c c'.poison
    else s1.onProc u (fun p => { p with mx := p.mx.map (fun x => if x.id = c.id then c' else x) })
  | _, _, _ => s

/-- Before a block is saved, each of its started multiplications finishes the pass it is in (R285). -/
def State.finishPasses (s : State) (b : Block) : State :=
  ((s.proc b.unit).mx.filter (fun m => m.bid = b.bid && m.started)).foldl (fun s m => s.runPass b.unit m) s

end Sys2Proof.Machine
end

