-- ==== Sys2Proof/Machine/Rows.lean ====
section
/-! DEFINITION. Row instructions (R232 to R241). -/

namespace Sys2Proof.Machine

/-- The row's address operand: a scalar (R234). -/
def rowSlot (a : Operand) : Slot :=
  { pos := .a, op := a, wide := true, okV := false, okP := false, okSp := false, okK := false, consumed := true }

/-- The elements of register `j` in lane `l`, each with the shift of its bits (R234). -/
def rowElems (ty : Ty) (width e0 j l : Nat) : List (Nat × Nat) :=
  if ty = .f32 then [(e0 + width * j + l, 0)]
  else [(e0 + 2 * (width * j + l), 0), (e0 + 2 * (width * j + l) + 1, 16)]

/-- Where a row instruction's row lies: an error of its translation, or what its target raises; on a root core PROT is raised where
the row's home lies in another stack, and any other address that R308 refuses fails as under R208 (R208, R308, R309, R436). -/
def State.rowPlace (s : State) (v : View) (k : AccKind) (a : W64) : State × Except TrapInfo (Except Nat Xl) :=
  let (s1, xs) := s.translateLanes v.c k [(v.low, a)]
  match (if k == .write then writeTrap v.sup 8 xs else windowTrap v.sup 8 xs) with
  | some t => (s1, .error t)
  | none =>
    match xs with
    | [] => (s1, .ok (.error 0x0A))
    | x :: _ =>
      match x.r with
      | .error e => (s1, .ok (.error e))
      | .ok (y, .unbacked) =>
        if s.onRoot v.c && !s1.ownStack v.c y.pa then (s1, .error { cause := 0x0A, addr := a }) else (s1, .ok (.error 0x0A))
      | .ok (_, .peer _) => (s1, .error { cause := 0x0A, addr := a })
      | .ok (y, _) => (s1, .ok (.ok y))

/-- Register `j` of a lane as an open row gives it. -/
def State.rowReg (s : State) (y : Xl) (ty : Ty) (len : Nat) (es : List (Nat × Nat)) : Nat :=
  (es.map (fun e => (if e.1 < len then (s.rowElem (leafKey y.leaf) y.pa ty e.1).toNat else 0) * 2 ^ e.2)).sum

/-- The elements of a `rowld`, of `n` for each lane, each with what it is read from: elements of the row, or half of its
version (R411). -/
def rowSources (ty : Ty) (width e0 k n : Nat) (act : List Nat) (es : List PendElem) : List PendElem :=
  es.zipIdx.map (fun e =>
    let j := e.2 % n
    let way : LoadWay :=
      if j < k then .row (((rowElems ty width e0 j (takeAt 0 act (e.2 / n))).headD (0, 0)).1) else .rowVer (j - k)
    { e.1 with src := e.1.src.map (fun q => { q with ty, off := 0, way }) })

/-- The lanes' registers read, with what follows them. -/
def State.rowLanes (s : State) (y : Xl) (ty : Ty) (len width e0 k : Nat) (tail : List Byte) (a : W64) (act : List Nat) :
    List LaneLoad :=
  act.map (fun l =>
    { lane := l, ea := a, src := some { sector := some (y.pa / 32), ea := a }
      r := .ok ((List.range k).flatMap (fun j => leBytes (s.rowReg y ty len (rowElems ty width e0 j l)) 4) ++ tail) })

/-- The elements that the lanes of a row instruction name. -/
def rowNamed (ty : Ty) (width e0 k : Nat) (act : List Nat) : List Nat :=
  act.flatMap (fun l => (List.range k).flatMap (fun j => (rowElems ty width e0 j l).map (·.1)))

/-- The sectors that a row operation touches: its header's and its elements' (R197). -/
def rowSectors (pa : Nat) (ranges : List (Nat × Nat)) : List Nat := columnsOf ((pa, 16) :: ranges)

/-- One STALE event of a reader's and a writer's partition (R238, R451). -/
def State.countStale (s : State) (r w : Nat) : State :=
  if w < 16 then
    { s with plat := { s.plat with stale := Cells.put 0 s.plat.stale (16 * r + w) (Cells.get 0 s.plat.stale (16 * r + w) + 1) } }
  else s

/-- `rowld` (R232 to R235, R238, R240). -/
def execRowld (h : Head) (ty : Ty) (d a b : Operand) (m : RowLdMod) (s : State) : Host.Outcome State Fault Refusal :=
  let k := m.km1.toNat + 1
  let n := k + (if m.ver then 2 else 0)
  s.issue h { ld := true, feat := 0x80, parks := true }
    [{ loadSlot .b32 n d with okS := false }, rowSlot a,
     { pos := .b, op := b, okV := false, okP := false, okSp := false, consumed := true }] (fun s v =>
    let ea := (s.src v.c v.g (v.op .a) true none v.low).v
    let e0 := (s.src v.c v.g (v.op .b) false none v.low).v.toNat
    if ea.toNat % 16 != 0 then .trap s { cause := 0x08, addr := ea }
    else
      let fails (e : Nat) : List LaneLoad := v.act.map (fun l => ⟨l, ea, .error e, some { ea }⟩)
      match s.rowPlace v .read ea with
      | (_, .error t) => .trap s t
      | (s1, .ok place) =>
        let (s2, sectors, ls) : State × List Nat × List LaneLoad := match place with
          | .error e => (s1, [], fails e)
          | .ok y =>
            match s1.rowOpen (leafKey y.leaf) y.pa ty with
            | (s2, .error e) => (s2, rowSectors y.pa [], fails e)
            | (s2, .ok r) =>
              let ranges := rowRanges y.pa ty r.len (rowNamed ty v.g.width e0 k v.act)
              let s3 := (if m.stl && r.version.toNat + m.lag.toNat < s2.tfront.toNat
                then s2.countStale (s2.partOf v.c) r.wpart else s2).touchRanges ranges
              (s3.berrRead 2 ranges, rowSectors y.pa ranges,
                s3.rowLanes y ty r.len v.g.width e0 k (if m.ver then leBytes r.version.toNat 8 else []) ea v.act)
        if s1.slotsFull v.c sectors then .waitIn s1
        else
          let (s3, elems) := v.loadElems s2 .b32 n ls
          .done (s3.counted v.c true (rowSources ty v.g.width e0 k n v.act elems) 0 sectors))

/-- The data registers of a row write (R234). -/
def rowData (b : Operand) (k : Nat) : Slot :=
  { pos := .b, op := b, run := k, okS := false, okP := false, okSp := false, okK := false, consumed := true }

/-- The active lanes' elements, as bits of the registers from B up. -/
def State.rowValues (s : State) (v : View) (ty : Ty) (e0 k : Nat) : List (Nat × W64) :=
  v.act.flatMap (fun l => (List.range k).flatMap (fun j =>
    let x := (s.src v.c v.g (runOperand (v.op .b) j) false none l).v
    (rowElems ty v.g.width e0 j l).map (fun e => (e.1, zext64 (tyBits ty) (x >>> e.2)))))

/-- `rowst` (R232 to R234, R236, R237, R240). A row that cannot be opened changes nothing, the leaf's D included (R12), but the
record that its read left (R327). -/
def execRowst (h : Head) (ty : Ty) (a b : Operand) (m : RowStMod) (s : State) : Host.Outcome State Fault Refusal :=
  let k := m.km1.toNat + 1
  s.issue h { st := true, feat := 0x80, parks := true } [rowSlot a, rowData b k] (fun s v =>
    let ea := (s.src v.c v.g (v.op .a) true none v.low).v
    if ea.toNat % 16 != 0 then .trap s { cause := 0x08, addr := ea }
    else
      match s.rowPlace v .write ea with
      | (_, .error t) => .trap s t
      | (_, .ok (.error e)) => .trap s { cause := e, addr := ea, write := true }
      | (s1, .ok (.ok y)) =>
        match s1.rowOpen (leafKey y.leaf) y.pa ty with
        | (_, .error e) => .trap (s.rowOpen (leafKey y.leaf) y.pa ty).1 { cause := e, addr := ea }
        | (s2, .ok r) =>
          let sectors := rowSectors y.pa (rowRanges y.pa ty r.len (rowNamed ty v.g.width m.eoff.toNat k v.act))
          if s1.slotsFull v.c sectors then .waitIn s1
          else
            let es := (s.rowValues v ty m.eoff.toNat k).filter (fun e => e.1 < r.len)
            .done ((s2.rowWrite (leafKey y.leaf) y.pa ty r v.g.ts (s.partOf v.c) es).counted v.c false [] 0 sectors))

/-- The partials of a `rowadd`: one for each span of 32 elements (R225). -/
def rowPartials (base : Partial) (ty : Ty) (es : List (Nat × W64)) : List Partial :=
  ((es.map (fun e => e.1 / 32)).eraseDups).map (fun sp =>
    { base with
      pa := base.pa + 16 + 32 * sp * tyBytes ty
      row := some (base.pa, (es.filter (fun e => e.1 / 32 = sp)).map (fun e => (e.1, (widened ty e.2).setWidth 32))) })

/-- `rowadd` (R225, R232 to R234, R239, R240), whose requests name every element that its lanes do, LEN being known at the home
alone (assumption 105); on a root core its contributions are applied at once
(R309). -/
def execRowadd (h : Head) (ty : Ty) (a b : Operand) (m : RowStMod) (s : State) : Host.Outcome State Fault Refusal :=
  let k := m.km1.toNat + 1
  s.issue h { st := true, feat := 0x80, parks := true } [rowSlot a, rowData b k] (fun s v =>
    let ea := (s.src v.c v.g (v.op .a) true none v.low).v
    if ea.toNat % 16 != 0 then .trap s { cause := 0x08, addr := ea }
    else
      match s.rowPlace v .write ea with
      | (_, .error t) => .trap s t
      | (_, .ok (.error e)) => .trap s { cause := e, addr := ea, write := true }
      | (s1, .ok (.ok y)) =>
        let base : Partial := { s1.contribution v 0 ty ea y 0 with stamp := v.g.ts, part := s.partOf v.c }
        let es := s.rowValues v ty m.eoff.toNat k
        let sectors := rowSectors y.pa (rowRanges y.pa ty (rowMax ty) (rowNamed ty v.g.width m.eoff.toNat k v.act))
        if s1.slotsFull v.c sectors then .waitIn s1
        else
        let s2 :=
          if s.onRoot v.c then
            s1.applyPartial .other { base with row := some (y.pa, es.map (fun e => (e.1, (widened ty e.2).setWidth 32))) }
          else ((rowPartials base ty es).foldl State.enterPartial s1).trimHeld
        .done (s2.counted v.c false [] 0 sectors))

end Sys2Proof.Machine
end

