-- ==== Sys2Proof/Machine/Sched.lean ====
section
/-! DEFINITION. Resources, placement, starvation, pre-emption and restore of clusters (R46 to R49, R54, R55, R58, R61 to
R66, R75, R411 to R414). -/

namespace Sys2Proof.Machine

/-! ### What a block needs and what a unit has (R61, R62) -/

/-- SEG(W) of Table 4-1. -/
def segOf (w : Nat) : Nat := ceilDiv (48 * w + 16) 32

/-- The bytes of a queue's ring, from its descriptor (R30). -/
def queueBytes (d : W64) : Nat := alignUp (field d.toNat 0 16 * field d.toNat 16 8) 256

/-- Scratchpad bytes a launch's block needs (R30, R61). -/
def scratchNeed (scratchb : Nat) (queues : List W64) : Nat := alignUp (scratchb + (queues.map queueBytes).sum) 4096

/-- What a block needs (R61). -/
structure Need where
  segs : Nat
  sp : Nat
  acc : Nat
  groups : Nat
  deriving DecidableEq, Repr

/-- The need of a launch's blocks. -/
def Launch.need (l : Launch) : Need :=
  { segs := l.r.groups * segOf l.r.window, sp := scratchNeed l.r.scratchb l.img.queues, acc := l.r.accumb
    groups := l.r.groups }

/-- Register segments of a unit. -/
def segsOn (u : Nat) : Nat := if isRoot u then 128 else 256
/-- Scratchpad or local SRAM bytes of a unit. -/
def spOn (u : Nat) : Nat := if isRoot u then Config.sramBytes else Config.scratchBytes
/-- Accumulator bytes of a unit. -/
def accOn (u : Nat) : Nat := if isRoot u then 0 else Config.accBytes
/-- Schedulers of a unit. -/
def schedsOn (u : Nat) : Nat := if isRoot u then 1 else 4
/-- Slots of a scheduler. -/
def slotsOn (u : Nat) : Nat := if isRoot u then 8 else 24

/-- The resident blocks of a unit. -/
def State.blocksOn (s : State) (u : Nat) : List Block := s.blocks.filter (fun b => b.unit = u)

/-- Two runs meet. -/
def overlaps (a n b m : Nat) : Bool := 0 < n && 0 < m && a < b + m && b < a + n

/-- The lowest of some numbers. -/
def leastOf : List Nat → Option Nat
  | [] => none
  | n :: r => match leastOf r with | none => some n | some m => some (min n m)

/-- The lowest base of a free run of `len` units among `total` (R62). -/
def firstFit (total len : Nat) (used : List (Nat × Nat)) : Option Nat :=
  leastOf ((0 :: used.map (fun u => u.1 + u.2)).filter (fun b =>
    b + len ≤ total && !used.any (fun u => overlaps b len u.1 u.2)))

/-- Units free in all. -/
def freeTotal (total : Nat) (used : List (Nat × Nat)) : Nat := total - (used.map (·.2)).sum

/-- Slots of a unit's scheduler that are taken. -/
def takenSlots (bs : List Block) (sched : Nat) : List Nat :=
  bs.flatMap (fun b => (b.groups.filter (fun g => g.sched = sched)).map (·.slot))

/-- The scheduler with the most free slots, ties to the lowest number (R62). -/
def bestSched (bs : List Block) (n : Nat) : Nat :=
  (List.range n).foldl (fun b k => if (takenSlots bs k).length < (takenSlots bs b).length then k else b) 0

/-- The slot of each group of a block: the lowest free ones of its scheduler, the model's choice (R62, assumption 81). -/
def slotsFrom (u : Nat) (bs : List Block) (b0 : Nat) : Nat → Nat → List (Nat × Nat) → Option (List (Nat × Nat))
  | 0, _, got => some got
  | n + 1, g, got =>
    let k := (b0 + g) % schedsOn u
    let taken := takenSlots bs k ++ (got.filter (fun x => x.1 = k)).map (·.2)
    match (List.range (slotsOn u)).find? (fun i => !taken.contains i) with
    | none => none
    | some i => slotsFrom u bs b0 n (g + 1) (got ++ [(k, i)])

/-- Scheduler and slot of each group of a block of `n` groups (R62). -/
def groupSlots (u n : Nat) (bs : List Block) : Option (List (Nat × Nat)) :=
  slotsFrom u bs (bestSched bs (schedsOn u)) n 0 []

/-- Where a block's runs and groups go. -/
structure Fit where
  seg : Nat
  sp : Nat
  acc : Nat
  slots : List (Nat × Nat)
  deriving DecidableEq, Repr

/-- The runs a unit's blocks hold. -/
def segRuns (bs : List Block) : List (Nat × Nat) := bs.map (fun b => (b.segBase, b.segLen))
/-- The runs a unit's blocks hold. -/
def spRuns (bs : List Block) : List (Nat × Nat) := bs.map (fun b => (b.spBase, b.spLen))
/-- The runs a unit's blocks hold. -/
def accRuns (bs : List Block) : List (Nat × Nat) := bs.map (fun b => (b.accBase, b.accLen))

/-- A block fits on a unit beside the blocks there (R62). -/
def fitOn (u : Nat) (bs : List Block) (n : Need) : Option Fit :=
  match firstFit (segsOn u) n.segs (segRuns bs), firstFit (spOn u) n.sp (spRuns bs), firstFit (accOn u) n.acc (accRuns bs),
      groupSlots u n.groups bs with
  | some a, some b, some c, some sl => some ⟨a, b, c, sl⟩
  | _, _, _, _ => none

/-- A block does not fit on a unit only because its free space is in pieces (R65). -/
def fragmentedOn (u : Nat) (bs : List Block) (n : Need) : Bool :=
  (groupSlots u n.groups bs).isSome && (fitOn u bs n).isNone && n.segs ≤ freeTotal (segsOn u) (segRuns bs)
    && n.sp ≤ freeTotal (spOn u) (spRuns bs) && n.acc ≤ freeTotal (accOn u) (accRuns bs)

/-! ### Which cores a cluster gets (R62, R63) -/

/-- A core that a pipelined launch has reserved (R58). -/
def Launch.reserves (l : Launch) (c : Nat) : Bool := l.stages.any (fun q => q.cores.any (fun x => x.1 = c))

/-- A core may take blocks of a launch's stage, its runs and slots apart (R58, R62, R368, R413). -/
def State.coreAdmits (s : State) (l : Launch) (stage c : Nat) : Bool :=
  s.coreEnabled c && !(s.proc c).halted && (s.part l.r.part).has c && l.img.needfeat &&& s.feat c = l.img.needfeat
    && (l.r.lflags % 2 = 0 || l.banks.contains (clusterOf c) || !s.launches.any (fun x => x.banks.contains (clusterOf c)))
    && (if l.stages.isEmpty then !s.launches.any (fun x => x.reserves c)
        else (l.stages[stage]?).any (fun q => q.cores.any (fun x => x.1 = c)))

/-- The core clusters in the order of R63. -/
def clusterOrder (bs : List Block) : List Nat :=
  sortBy (fun k => (bs.filter (fun b => !isRoot b.unit && clusterOf b.unit = k)).length) (List.range 40)

/-- The producers of a launch that have not triggered (R54). -/
def State.waitingOn (s : State) (l : Launch) : List Launch :=
  ((([l.r.prod0, l.r.prod1].filter (· != 0)).zip l.prods).filter (fun p => p.2 = .waiting)).filterMap (fun p => s.launch? p.1)

/-- The level at which a launch places and counts (R54). -/
def State.levelOf (s : State) (l : Launch) : Nat := ((s.waitingOn l).map (fun p => p.r.prio)).foldl max l.r.prio

/-- Live launches in the order of R47. -/
def State.launchOrder (s : State) : List Launch := sortBy (fun l => s.levelOf l) (sortBy (fun l => l.order) s.launches)

/-- The resources that a stage of a launch leaves to starving clusters: those freed after the starvation moment of another
cluster of its partition, at its level or above; of two starving ones the earlier in the order of R47 goes first (R47). -/
def State.barred (s : State) (l : Launch) (stage : Nat) : List Block :=
  let before := (s.launchOrder.takeWhile (fun x => x.lid != l.lid)).map (·.lid)
  let ahead (g : Ghost) : Bool := before.contains g.lid || (g.lid = l.lid && g.stage < stage)
  (s.ghosts.filter (fun g => !(g.lid = l.lid && g.stage = stage) && (!l.starved.contains stage || ahead g)
    && (s.launch? g.lid).any (fun x => x.r.part = l.r.part && s.levelOf x ≤ s.levelOf l && x.starved.contains g.stage))).map (·.block)

/-- The cores of core cluster `k` for a cluster of `n` blocks, in ascending order, with the blocks `bs` resident; none where fewer
can take a block (R47, R63). -/
def State.coresIn (s : State) (bs : List Block) (l : Launch) (stage n k : Nat) : Option (List (Nat × Fit)) :=
  let held := bs ++ s.barred l stage
  let fits := ((List.range 8).map (fun i => 8 * k + i)).filterMap (fun c =>
    if s.coreAdmits l stage c then (fitOn c (held.filter (fun b => b.unit = c)) l.need).map (fun f => (c, f)) else none)
  if fits.length < n then none
  else some (sortBy (fun f => f.1) ((sortBy (fun f => (bs.filter (fun b => b.unit = f.1)).length) fits).take n))

/-- The cores for a cluster of `n` blocks: those of the first core cluster that has enough (R47, R63). -/
def State.coresFor (s : State) (bs : List Block) (l : Launch) (stage n : Nat) : Option (List (Nat × Fit)) :=
  (clusterOrder bs).findSome? (s.coresIn bs l stage n)

/-- The core clusters that a placement attempt considers: up to the first that takes the cluster (R63). -/
def State.triedClusters (s : State) (l : Launch) (stage n : Nat) : List Nat :=
  let ks := clusterOrder s.blocks
  match ks.findIdx? (fun k => (s.coresIn s.blocks l stage n k).isSome) with
  | some i => ks.take (i + 1)
  | none => ks

/-- FRAG counted for an attempt to place a cluster of `n` blocks, wherever it then goes: once per core for each cluster (R65). -/
def State.countFrag (s : State) (lid stage cidx n : Nat) : State :=
  match s.launch? lid with
  | none => s
  | some l =>
    let ks := s.triedClusters l stage n
    let hit := (List.range Config.cores).filter (fun c =>
      ks.contains (clusterOf c) && !l.fragged.contains (stage, cidx, c) && !(s.blocksOn c).isEmpty && s.coreAdmits l stage c
        && fragmentedOn c (s.blocksOn c) l.need)
    hit.foldl (fun s c => (s.unitEvent c 0x010 1).onLaunch lid (fun l => { l with fragged := (stage, cidx, c) :: l.fragged })) s

/-! ### A block at entry (R26, R75) -/

/-- The scalars of Table 4-3 that fit in `n` registers. -/
def entryScalars (l : Launch) (args : List W64) : Cells Scal :=
  let vs := [l.r.argva, w64 l.r.arglen, w64 l.lid, (if l.r.lflags / 2 % 2 = 1 then w64 cfgPage else 0)] ++ args
  (vs.zipIdx.filter (fun v => v.2 < l.r.scalars)).foldl (fun m v => Cells.put {} m v.2 ⟨v.1, false⟩) []

/-- A group of a launch at entry; a worker's group waits for a task with no live lane (R75, R370). -/
def entryGroup (l : Launch) (pc : W64) (now : Nat) (at_ : Nat × Nat) : Group :=
  let task := l.r.lflags % 2 = 1
  { win := l.r.window, nscal := l.r.scalars, sched := at_.1, slot := at_.2
    lanes := List.replicate 32 { pc, live := !task }
    scal := if task then [] else entryScalars l []
    freeSince := now }

/-- The named queues of a block, in their order from the end of its SCRATCH bytes (R30, R338; DESIGN CHOICE, log entry 91). -/
def entryQueues (base groups : Nat) : List W64 → List NamedQueue
  | [] => []
  | d :: r =>
    { slots := field d.toNat 0 16, slotb := field d.toNat 16 8, base, allow := List.replicate groups (field d.toNat 24 8)
      inflight := List.replicate groups 0 } :: entryQueues (base + queueBytes d) groups r

/-- Linear index of block coordinates (R26). -/
def linearIndex (l : Launch) (blk : List Nat) : Nat :=
  let nx := takeAt 1 l.r.ext 0 * takeAt 1 l.r.shape 0
  let ny := takeAt 1 l.r.ext 1 * takeAt 1 l.r.shape 1
  takeAt 0 blk 0 + nx * (takeAt 0 blk 1 + ny * takeAt 0 blk 2)

/-- The entry PC of a stage's blocks (R27). -/
def Launch.entryPc (l : Launch) (stage : Nat) : W64 :=
  l.r.imageva + w64 (match l.stages[stage]? with | some q => q.sentry | none => l.img.entry)

/-- A new block of a cluster (R26, R61, R75). -/
def newBlock (l : Launch) (bid stage cidx rank u now : Nat) (f : Fit) : Block :=
  let e := l.r.ext
  let sh := l.r.shape
  let clu := [cidx % takeAt 1 e 0, cidx / takeAt 1 e 0 % takeAt 1 e 1, cidx / takeAt 1 e 0 / takeAt 1 e 1]
  let pos := [rank % takeAt 1 sh 0, rank / takeAt 1 sh 0 % takeAt 1 sh 1, rank / takeAt 1 sh 0 / takeAt 1 sh 1]
  let blk := (List.range 3).map (fun i => takeAt 0 clu i * takeAt 1 sh i + takeAt 0 pos i)
  let n := l.need
  { bid, lid := l.lid, stage, cidx, rank, blk, clu, index := linearIndex l blk, unit := u
    segBase := f.seg, segLen := n.segs, spBase := f.sp, spLen := n.sp, accBase := f.acc, accLen := n.acc
    groups := f.slots.map (entryGroup l (l.entryPc stage) now)
    queues := entryQueues l.r.scratchb n.groups l.img.queues }

/-- A run noted as held by a block of a partition; older runs that it covers are forgotten. -/
def Proc.ownRuns (p : Proc) (o : Owner) : Proc :=
  let hides (a n b m : Nat) : Bool := m = 0 || (a ≤ b && b + m ≤ a + n)
  { p with owners := o :: p.owners.filter (fun x =>
      !(hides o.spBase o.spLen x.spBase x.spLen && hides o.accBase o.accLen x.accBase x.accLen)) }

/-- The latest run that held a byte of a store was a block's of another partition. -/
def Proc.foreign (p : Proc) (part : Nat) (run : Owner → Nat × Nat) (a : Nat) : Bool :=
  match p.owners.find? (fun o => (run o).1 ≤ a && a < (run o).1 + (run o).2) with
  | some o => o.part != part
  | none => false

/-- The stores of a unit readied for a block of a partition: each byte of its runs holds what the device left there, or 0; what
another partition's block left is 0 (R75, assumption 12). Its granules are empty and unmarked. -/
def Proc.enterRuns (p : Proc) (bid : Nat) (o : Owner) : Proc :=
  let sp (x : Owner) : Nat × Nat := (x.spBase, x.spLen)
  let acc (x : Owner) : Nat × Nat := (x.accBase, x.accLen)
  let keep (run : Owner → Nat × Nat) (a : Nat) : Bool :=
    !((run o).1 ≤ a && a < (run o).1 + (run o).2) || (!p.foreign o.part run a && Config.entryKeeps bid a)
  let out (base len g : Nat) : Bool := !(base / 16 ≤ g && g < (base + len) / 16)
  { p.ownRuns o with
    sp := p.sp.filter (fun c => keep sp c.1)
    acc := p.acc.filter (fun c => keep acc c.1)
    full := p.full.filter (out o.spBase o.spLen)
    spPoison := p.spPoison.filter (out o.spBase o.spLen)
    accPoison := p.accPoison.filter (out o.accBase o.accLen) }

/-- The runs of a block of a partition. -/
def Block.owner (b : Block) (part : Nat) : Owner :=
  { part, spBase := b.spBase, spLen := b.spLen, accBase := b.accBase, accLen := b.accLen }

/-- The new blocks of a cluster placed on their cores, in rank order. -/
def State.enterBlocks (s : State) (l : Launch) (stage cidx : Nat) : Nat → List (Nat × Fit) → State
  | _, [] => s
  | rank, (c, f) :: r =>
    let b := newBlock l s.nextBid stage cidx rank c s.now f
    let s1 := (s.l1Flush c).onProc c (fun p => { p.enterRuns b.bid (b.owner l.r.part) with power := .c0, idleSince := s.now })
    ({ s1 with blocks := s1.blocks ++ [b], nextBid := s1.nextBid + 1 }).enterBlocks l stage cidx (rank + 1) r

/-! ### What a launch may place next (R46, R47, R54, R58) -/

/-- Stages of a launch (R27). -/
def Launch.stageCount (l : Launch) : Nat := if l.r.stagecnt < 2 then 1 else l.r.stagecnt

/-- Clusters of a stage. -/
def Launch.clusters (l : Launch) : Nat := takeAt 1 l.r.ext 0 * takeAt 1 l.r.ext 1 * takeAt 1 l.r.ext 2

/-- Blocks of a cluster. -/
def Launch.clusterBlocks (l : Launch) : Nat := takeAt 1 l.r.shape 0 * takeAt 1 l.r.shape 1 * takeAt 1 l.r.shape 2

/-- Some cluster of the launch has not been placed; of a cancelled launch that has not retired, none ever is (R54). -/
def Launch.unplaced (l : Launch) : Bool :=
  (List.range l.stageCount).any (fun st => takeAt 0 l.next st < l.clusters)

/-- An earlier launch of the same queue, or the same issuing group, still has an unplaced cluster (R47). -/
def State.queuedBehind (s : State) (l : Launch) : Bool :=
  s.launches.any (fun x => x.order < l.order && x.unplaced
    && ((l.queue.isSome && x.queue = l.queue) || (l.issuer.isSome && x.issuer = l.issuer)))

/-- Each stage of a pipelined launch has its MINC cores (R58). -/
def Launch.staffed (l : Launch) : Bool := l.r.stagecnt < 2 || l.stages.all (fun q => q.minc ≤ q.cores.length)

/-- Nothing but the cores to assign keeps the launch from placing a new cluster (R47, R54, R346, R368). -/
def State.mayOffer (s : State) (l : Launch) : Bool :=
  !l.cancelled && !s.queuedBehind l
    && (l.next.any (· != 0) || !(s.waitingOn l).any Launch.unplaced)
    && (l.r.phaseva = 0 || l.tree.isSome) && (l.r.lflags % 2 = 0 || l.chan.isSome)

/-- The launch may place a new cluster now (R47, R54, R58, R346, R368). One that waits for cores to assign takes them as they
free: it pre-empts nothing for them (assumption 107). -/
def State.mayPlace (s : State) (l : Launch) : Bool := s.mayOffer l && l.staffed

/-- The image may be restored: its cluster has something to run, and SAVE does not keep it (R357, R421). -/
def Image.restorable (im : Image) : Bool := im.ready && !im.kept

/-- The suspended clusters of a launch's stage, when it has some: the lowest index of those that may be restored (R46,
assumption 82). -/
def State.suspended (s : State) (l : Launch) (stage : Nat) : Option (Option Nat) :=
  let ims := s.images.filter (fun im => im.block.lid = l.lid && im.block.stage = stage)
  if ims.isEmpty then none
  else some (leastOf ((ims.map (·.block.cidx)).filter (fun k => (ims.filter (fun im => im.block.cidx = k)).all Image.restorable)))

/-- What a launch's stage places next. -/
inductive NextUp where
  | restore (cidx : Nat)
  | place (cidx : Nat)
  deriving DecidableEq, Repr

/-- The cluster's index. -/
def NextUp.cidx : NextUp → Nat
  | .restore k | .place k => k

/-- The next cluster of a launch's stage: a suspended one first (R46). -/
def State.nextUp (s : State) (l : Launch) (stage : Nat) : Option NextUp :=
  match s.suspended l stage with
  | some (some k) => if l.cancelled then none else some (.restore k)
  | some none => none
  | none => if takeAt 0 l.next stage < l.clusters && s.mayPlace l then some (.place (takeAt 0 l.next stage)) else none

/-- A pipelined launch's stage has a next cluster that waits for the launch's cores (R47, R58). -/
def State.awaitsCores (s : State) (l : Launch) (stage : Nat) : Bool :=
  (s.suspended l stage).isNone && takeAt 0 l.next stage < l.clusters && s.mayOffer l && !l.staffed

/-! ### Pre-emption (R411, R412) -/

/-- Where the scratchpad and the accumulator run of a block stand in its image (R411). -/
def imageSp (b : Block) : Nat :=
  let rg := b.segLen * 4096
  4096 + alignUp rg 4096 + alignUp (rg / 32) 4096
def imageAcc (b : Block) : Nat := imageSp b + alignUp b.spLen 4096 + alignUp (b.spLen / 64) 4096

/-- Bytes of a block's image (R411). -/
def imageBytes (b : Block) : Nat := imageAcc b + alignUp b.accLen 4096 + alignUp (b.accLen / 128) 4096

/-- Byte `k` of an image: the bytes of its runs stand in their order; how the other terms lay out what they hold is not stated,
so these are free (R411, assumption 34). -/
def Image.byte (im : Image) (seed k : Nat) : Byte :=
  let b := im.block
  if imageSp b ≤ k && k < imageSp b + b.spLen then Cells.get 0 im.sp (k - imageSp b)
  else if imageAcc b ≤ k && k < imageAcc b + b.accLen then Cells.get 0 im.acc (k - imageAcc b)
  else (Config.freeBits (seed + k)).setWidth 8

/-- An image's bytes at its place in the pool. -/
def State.putSaved (s : State) (im : Image) : State :=
  let away (line : Nat) : Bool := 128 * line + 128 ≤ im.poolBase || im.poolBase + im.poolLen ≤ 128 * line
  { s with
    fresh := s.fresh + im.poolLen
    mem := Memory.writeN s.mem im.poolBase ((List.range im.poolLen).map (im.byte s.fresh))
    keyOf := s.keyOf.filter (fun e => away e.1)
    l2 := s.l2.filter (fun e => away e.1)
    poison := s.poison.filter away
    reported := s.reported.filter away }

/-- The context engine writes an image to its place in the pool, whole lines of it: as any write, it fills the lines of a page in
migration, it aborts the tasks that have marked a line of it, and the watches of its lines see it (R202, R352, R379, R412). -/
def State.writeImage (s : State) (im : Image) : State :=
  let inPlace (line : Nat) : Bool := im.poolBase < 128 * line + 128 && 128 * line < im.poolBase + im.poolLen
  let hit := (((s.versions.filter (fun v => v.ver.isNone)).map (·.line)).filter inPlace).eraseDups
  let seen := ((s.watches.map (fun w => w.w.pa / 128)).filter inPlace).eraseDups
  seen.foldl State.evalLine (hit.foldl (fun s l => conflict s .other l) ((s.firstTouchAll im.poolBase im.poolLen true).putSaved im))

/-- A free run of `n` bytes in the save pool of a partition (R411). -/
def State.poolFit (s : State) (part n : Nat) : Option Nat :=
  (s.pool.filter (fun r => r.1 = part)).findSome? (fun r =>
    let used := (s.images.filter (fun im => overlaps im.poolBase im.poolLen r.2.1 r.2.2)).map
      (fun im => (im.poolBase - r.2.1, im.poolLen))
    (firstFit r.2.2 n used).map (· + r.2.1))

/-- An outstanding load, which is dropped when its context is saved and issued again when it is restored (R411). -/
def Pending.dropped (p : Pending) : Bool := p.load && p.reissues

/-- A group as its image holds it: an outstanding operation that waits for nothing has completed, unless it is a load, which is
issued again at restore, a `rep` stands at its iteration, fetched words are gone, and a trap in service is
pending again (R104, R411, R412). -/
def Group.saved (g : Group) : Group :=
  let g0 := (g.pend.filter (fun p => p.blocked = 0 && !p.dropped)).foldl (fun g p => g.complete p.id) g
  let g1 := { g0 with ordered := g.ordered }
  { g1 with
    pend := g1.pend.map (fun p => { p with sectors := [], elems := p.elems.map (fun e => { e with given := false }) })
    rep := none, ahead := [], stall := 0, asked := false
    hold := match g1.hold with | .trapped => .svWait | h => h }

/-- The image of a block, given its place in the pool. -/
def Proc.image (p : Proc) (b : Block) (base len : Nat) : Image :=
  let gr := b.spBase / 16
  let inSp (k : Nat) : Bool := gr ≤ k && k < gr + b.spLen / 16
  let inAcc (k : Nat) : Bool := b.accBase / 16 ≤ k && k < (b.accBase + b.accLen) / 16
  let left (i : Nat) : Bool := p.cmds.any (fun c => c.bid = b.bid && c.g = i) || p.mx.any (fun c => c.bid = b.bid && c.g = i && c.isMul)
  { block := { b with groups := b.groups.zipIdx.map (fun (g : Group × Nat) =>
      if left g.2 then { g.1.saved with mprog := 0 } else g.1.saved) }.landTrecs (fun _ => true)
    sp := Cells.slice p.sp b.spBase b.spLen
    full := (p.full.filter inSp).map (· - gr)
    spPoison := (p.spPoison.filter inSp).map (· - gr)
    acc := Cells.slice p.acc b.accBase b.accLen
    accPoison := (p.accPoison.filter inAcc).map (· - b.accBase / 16)
    cmds := (p.cmds.filter (fun c => c.bid = b.bid)).map (fun c => { c with saved := true })
    mx := (p.mx.filter (fun c => c.bid = b.bid)).map (fun m => { m with started := false, set := none, saved := true })
    grans := (p.grans.filter (fun a => inSp a.granule)).map (fun a =>
      { a with granule := a.granule - gr, parts := a.parts.map (fun x => { x with off := x.off - b.spBase }) })
    ready := true, poolBase := base, poolLen := len }

/-- A unit without a block that has been saved. -/
def Proc.without (p : Proc) (b : Block) : Proc :=
  let gr := b.spBase / 16
  { p.forget b.bid with
    cmds := p.cmds.filter (fun c => c.bid != b.bid)
    mx := p.mx.filter (fun c => c.bid != b.bid)
    grans := p.grans.filter (fun a => !(gr ≤ a.granule && a.granule < gr + b.spLen / 16)) }

/-- A group with something to run: it has not ended, and waits neither for a watch nor at a barrier (R357). -/
def Group.runnable (g : Group) : Bool :=
  !g.ended && (match g.hold with | .armed | .arming _ _ | .bar _ | .cbar _ => false | _ => true)

/-- One block saved (R231, R411, R412), with its core's supervisor and the host's unanswered PFAULTs left; none when its image
does not fit in the pool. -/
def State.saveBlock (s : State) (part : Nat) (b : Block) (kept : Bool) : Option State :=
  let n := imageBytes b
  match s.poolFit part n with
  | none => none
  | some base =>
    let s1 := ((s.dropService b).finishAcc b).finishPasses b
    let s2 := (List.range b.groups.length).foldl (fun s g => s.drainGroup b.unit b.bid g) s1
    let s3 := s2.l1Clean b.unit
    match s3.block? b.bid with
    | none => none
    | some b' =>
      let im := { (s3.proc b'.unit).image b' base n with kept }
      let s4 := ((s3.onProc b'.unit (fun p => { p.without b' with idleSince := s3.now })).blockGone b').writeImage im
      some { s4 with
        images := s4.images ++ [im]
        host := { s4.host with
          asked := s4.host.asked.filter (fun a => !ctxOfBlock b.bid a.2)
          waiting := s4.host.waiting.map (fun r => if r.ctx.any (ctxOfBlock b.bid) then { r with ctx := none } else r) } }

/-- The resident blocks of a cluster of a launch. -/
def State.blocksOf (s : State) (lid stage cidx : Nat) : List Block :=
  s.blocks.filter (fun b => b.lid = lid && b.stage = stage && b.cidx = cidx && !isRoot b.unit)

/-- A cluster pre-empted (R412), `kept` by SAVE until READY; none when an image does not fit. It is ready to come back unless
each of its groups waits for a watch (R357). -/
def State.saveCluster (s : State) (lid stage cidx : Nat) (kept : Bool) : Option State :=
  let part := ((s.launch? lid).map (fun l => l.r.part)).getD 0
  let bs := s.blocksOf lid stage cidx
  let ready := bs.any (fun b => b.groups.any Group.runnable)
  (bs.foldl (fun o b => o.bind (fun s => s.saveBlock part b kept)) (some s)).map (fun s =>
    { s with images := s.images.map (fun im => if bs.any (fun b => b.bid = im.block.bid) then { im with ready } else im) })

/-! ### Restore (R413, R414) -/

/-- A saved group on its new slot. -/
def Group.onSlot (g : Group) (at_ : Nat × Nat) : Group := { g with sched := at_.1, slot := at_.2, issueNo := 0 }

/-- A unit with an image's stores, commands and accesses loaded. -/
def Proc.loadImage (p : Proc) (im : Image) (b : Block) : Proc :=
  let gr := b.spBase / 16
  { p with
    power := .c0
    sp := Cells.paste (Cells.clear p.sp b.spBase b.spLen) b.spBase im.sp
    full := NatSet.insertAll (p.full.filter (fun k => !(gr ≤ k && k < gr + b.spLen / 16))) (im.full.map (· + gr))
    spPoison := NatSet.insertAll (p.spPoison.filter (fun k => !(gr ≤ k && k < gr + b.spLen / 16))) (im.spPoison.map (· + gr))
    acc := Cells.paste (Cells.clear p.acc b.accBase b.accLen) b.accBase im.acc
    accPoison := NatSet.insertAll
      (p.accPoison.filter (fun k => !(b.accBase / 16 ≤ k && k < (b.accBase + b.accLen) / 16))) (im.accPoison.map (· + b.accBase / 16))
    cmds := p.cmds ++ im.cmds
    mx := p.mx ++ im.mx
    grans := p.grans ++ im.grans.map (fun a =>
      { a with granule := a.granule + gr, parts := a.parts.map (fun x => { x with off := x.off + b.spBase }) }) }

/-- An element of a row read again: the register that holds element `e`, or half `k` of the row's version (R411). -/
def State.rowAgain (s : State) (c : Ctx) (x : LoadSrc) (y : Xl) : State × Except Nat W64 :=
  match s.rowOpen (leafKey y.leaf) y.pa x.ty with
  | (s1, .error e) => (s1, .error e)
  | (s1, .ok r) => match x.way with
    | .rowVer k => (s1, .ok (zext64 32 (r.version >>> (32 * k))))
    | .row e =>
      let es := if x.ty = .f32 then [(e, 0)] else [(e, 0), (e + 1, 16)]
      let ranges := rowRanges y.pa x.ty r.len (es.map (·.1))
      let s2 := s1.touchRanges ranges
      (s2.berrRead 2 ranges, .ok (w64 (s2.rowReg y x.ty r.len es)))
    | _ => (s1.orders c, .error 0x0A)

/-- One element of a dropped load read again: its value with its sector, or its cause (R411). -/
def State.readAgain (s : State) (c : Ctx) (x : LoadSrc) : State × Except Nat (W64 × Option Nat) :=
  let n := tyBytes x.ty
  if x.way = .spad then
    match s.spTarget (s.blockOf c) x.ea.toNat n with
    | none => (s, .error 0x0B)
    | some (b, off) => (s, (s.spadLoad b off n).map (fun bs => (loaded x.ty bs, none)))
  else match s.translate (s.xctx c) 1 .read (x.ea + w64 x.off) with
    | (s1, .error e) => (s1, .error e)
    | (s1, .ok y) =>
      let sp := s1.reach c y
      let sector := some (y.pa / 32)
      match x.way with
      | .row _ | .rowVer _ =>
        if sp = .unbacked then (s1, .error 0x0A)
        else
          let (s2, r) := s1.rowAgain c x y
          (s2, r.map (fun v => (v, sector)))
      | way =>
        let (s2, r) := if way = .stable then s1.stableRead c y sp n else s1.readAt c y sp (way = .home) (way = .strm) n
        (s2, r.map (fun bs => (loaded x.ty bs, sector)))

/-- The elements of a dropped load read again, in order; none for one that is not. -/
def State.readAllAgain (s : State) (c : Ctx) : List PendElem → State × List (PendElem × Option (Except Nat (W64 × Option Nat)))
  | [] => (s, [])
  | e :: r =>
    match e.src.filter (fun q => q.way != .own) with
    | none => let (s1, out) := s.readAllAgain c r; (s1, (e, none) :: out)
    | some q =>
      let (s1, x) := s.readAgain c q
      let (s2, out) := s1.readAllAgain c r
      (s2, (e, some x) :: out)

/-- A load issued again, with its elements and the requests for them (R197, R411). -/
def Pending.requested (p : Pending) (elems : List PendElem) : Pending :=
  { p with elems, sectors := (elems.filterMap (fun e => e.src.bind (·.sector))).eraseDups }

/-- A load that was dropped at a save and that no performed access follows is issued again: every destination element takes a value
read now, or the cause and the origin of its failure, one for each lane (R403, R411). -/
def State.reissue (s : State) (c : Ctx) (p : Pending) : State :=
  let (s1, rs) := s.readAllAgain c p.elems
  let bad := (rs.filterMap (fun x => match x.2 with
    | some (.error e) => (x.1.owner p.id).map (fun o => (o, e))
    | _ => none)).foldl (fun acc b => if acc.any (fun a => a.1 = b.1) then acc else acc ++ [b]) []
  let (g1, vals) := ((s1.group? c).getD {}).takeOrigins (bad.zipIdx.map (fun b => (b.2, b.1.2, b.1.1.2.2)))
  let elem (x : PendElem × Option (Except Nat (W64 × Option Nat))) : PendElem :=
    match (x.1.owner p.id).bind (fun o => bad.findIdx? (fun b => b.1 = o)), x.2 with
    | some i, _ => { x.1 with v := ((vals.find? (fun v => v.1 = i)).map (·.2)).getD 0, tag := true }
    | none, some (.ok (v, sector)) => { x.1 with v, tag := false, src := x.1.src.map (fun q => { q with sector }) }
    | none, _ => x.1
  let elems := rs.map elem
  s1.onGroup c (fun _ => { g1 with pend := g1.pend.map (fun q => if q.id = p.id then q.requested elems else q) })

/-- The dropped loads of a restored block issued again, group by group in their order (R411). One that stands before an access of the
group that has been performed returns what R250 lets it return there, the value that it had read (assumption 35). -/
def State.reissueBlock (s : State) (bid : Nat) : State :=
  match s.block? bid with
  | none => s
  | some b => b.groups.zipIdx.foldl (fun s g => (g.1.pend.filter Pending.dropped).foldl (fun s p =>
      if g.1.ordered ≤ p.id then s.reissue (.grp bid g.2) p
      else s.onGroup (.grp bid g.2) (fun x =>
        { x with pend := x.pend.map (fun q => if q.id = p.id then q.requested q.elems else q) })) s) s

/-- One image loaded on a core, whose L1 is emptied first: no group reads a value older than one it has read (R250). -/
def State.loadImage (s : State) (part : Nat) (im : Image) (c : Nat) (f : Fit) : State :=
  let b : Block :=
    { im.block with
      unit := c, segBase := f.seg, spBase := f.sp, accBase := f.acc
      groups := (im.block.groups.zip f.slots).map (fun g => g.1.onSlot g.2) }
  let s1 := (s.l1Flush c).onProc c (fun p => (p.ownRuns (b.owner part)).loadImage im b)
  { s1 with blocks := s1.blocks ++ [b], images := s1.images.filter (fun x => x.block.bid != b.bid) }

/-- The images of a cluster, by rank. -/
def State.imagesOf (s : State) (lid stage cidx : Nat) : List Image :=
  sortBy (fun im => im.block.rank) (s.images.filter (fun im =>
    im.block.lid = lid && im.block.stage = stage && im.block.cidx = cidx))

/-- The images examined for restore: a block an arrival was discarded for is terminated (R414). -/
def State.examine (s : State) (l : Launch) (stage cidx : Nat) : State :=
  (s.imagesOf l.lid stage cidx).foldl (fun s im =>
    match im.block.cause with
    | some c => if im.block.groups.all (·.ended) then s else s.terminateImage im.block.bid c.toNat
    | none => s) s

/-- What a task launch's placement does in its core cluster: the bank becomes the launch's, and with the
first cluster the initial records enter it, an invalid one ending the launch (R365, R368). -/
def State.enterBank (s : State) (l : Launch) (k : Nat) : State :=
  if l.r.lflags % 2 = 0 then s
  else
    let s1 := s.onLaunch l.lid (fun l =>
      { l with
        banks := NatSet.insert l.banks k
        tasks := l.tasks ++ fileTable (dieOfCluster k) (s.tableRoom (dieOfCluster k))
          (l.initial.map (fun t => { t with st := .queued k, home := k }))
        initial := [] })
    if !l.initial.isEmpty && l.initialBad then s1.killLaunch l.lid 0x02 else s1

/-- The core cluster of the first of some cores. -/
def firstCluster (cs : List (Nat × Fit)) : Nat := ((cs.head?).map (fun c => clusterOf c.1)).getD 0

/-- The tasks that the groups of restored blocks run last ran in the core cluster they are restored to (R381). -/
def State.rehome (s : State) (l : Launch) (bids : List Nat) (k : Nat) : State :=
  s.onLaunch l.lid (fun l =>
    { l with tasks := l.tasks.map (fun t => match t.st with
        | .running b _ => if bids.contains b then { t with home := k } else t
        | _ => t) })

/-- A cluster restored when it fits (R413); a task launch's brings its bank with it (R368). Its dropped loads are issued again once
all its blocks are there. -/
def State.restoreCluster (s : State) (l : Launch) (stage cidx : Nat) : Option State :=
  let ims := s.imagesOf l.lid stage cidx
  let bids := ims.map (fun im => im.block.bid)
  if ims.isEmpty then some s
  else (s.coresFor s.blocks l stage ims.length).map (fun cs =>
    let s1 := (ims.zip cs).foldl (fun s x => s.loadImage l.r.part x.1 x.2.1 x.2.2) s
    let s2 := (s1.enterBank l (firstCluster cs)).rehome l bids (firstCluster cs)
    (bids.foldl State.reissueBlock s2).makeReturns)

/-- Some core of the partition has the features of the launch's image (R413, R421). -/
def State.someCoreHas (s : State) (l : Launch) : Bool :=
  (List.range Config.cores).any (fun c => s.coreEnabled c && (s.part l.r.part).has c && !(s.proc c).halted
    && l.img.needfeat &&& s.feat c = l.img.needfeat)

/-- A cluster that no core can take is reported to the host once (R413, R428). -/
def State.reportNoRestore (s : State) (l : Launch) (stage cidx : Nat) : State :=
  let ims := s.imagesOf l.lid stage cidx
  if ims.all (·.told) then s
  else
    let s1 := { s with images := s.images.map (fun (im : Image) =>
      if im.block.lid = l.lid && im.block.stage = stage && im.block.cidx = cidx then { im with told := true } else im) }
    s1.report { kind := 3, cause := 0, write := false, lid := BitVec.ofNat 32 l.lid, core := 0xFFFFFFFF, addr := 0, value := w64 cidx }

/-! ### Decisions (R47, R48, R55, R58) -/

/-- The next cluster of a launch's stage has been placed: it waits and starves no more (R47). -/
def State.fed (s : State) (lid stage : Nat) : State :=
  { s.onLaunch lid (fun l => { l with waits := Cells.erase l.waits stage, starved := l.starved.filter (· != stage) }) with
    ghosts := s.ghosts.filter (fun g => !(g.lid = lid && g.stage = stage)) }

/-- The next cluster of a launch's stage cannot be placed: its wait starts (R47). -/
def State.unfed (s : State) (lid stage : Nat) : State :=
  s.onLaunch lid (fun l => if (Cells.find l.waits stage).isSome then l else { l with waits := Cells.set l.waits stage s.now })

/-- The launch's next cluster placed or restored when it fits. -/
def State.tryPlace (s : State) (l : Launch) (stage : Nat) : NextUp → Option State
  | .restore k => (s.restoreCluster l stage k).map (fun s => s.fed l.lid stage)
  | .place k =>
    (s.coresFor s.blocks l stage l.clusterBlocks).map (fun cs =>
      let s1 := (s.enterBlocks l stage k 0 cs).onLaunch l.lid (fun l => { l with next := modifyAt l.next stage (· + 1) })
      (s1.enterBank l (firstCluster cs)).fed l.lid stage)

/-- A resident cluster as a victim: launch, stage, index. -/
abbrev Victim := Nat × Nat × Nat

/-- The cluster of a block. -/
def Block.victim (b : Block) : Victim := (b.lid, b.stage, b.cidx)

/-- Clusters in the order of R48: least urgent level, latest accepted, highest index; of clusters of one launch
that have the same index in different stages, the highest stage first, a choice of the model's (DESIGN CHOICE, log entry 118). -/
def State.victimOrder (s : State) (vs : List Victim) : List Victim :=
  let level (v : Victim) : Nat := ((s.launch? v.1).map s.levelOf).getD 0
  let order (v : Victim) : Nat := ((s.launch? v.1).map (fun l => l.order)).getD 0
  (sortBy level (sortBy order (sortBy (fun v => v.2.2) (sortBy (fun v => v.2.1) vs)))).reverse

/-- The resident clusters of a partition less urgent than a level, in the order of R48. -/
def State.victims (s : State) (part level : Nat) : List Victim :=
  s.victimOrder (((s.blocks.filter (fun b => !isRoot b.unit
    && (s.launch? b.lid).any (fun l => l.r.part = part && level < s.levelOf l))).map Block.victim).eraseDups)

/-- The clusters that hold a block in `lwait` of a launch of which this one is a producer, in the order of R55. -/
def State.lwaitVictims (s : State) (lid : Nat) : List Victim :=
  s.victimOrder (((s.blocks.filter (fun b => !isRoot b.unit && b.groups.any (fun g => g.hold = .lwait)
    && (s.launch? b.lid).any (fun d => d.r.prod0 = lid || d.r.prod1 = lid))).map Block.victim).eraseDups)

/-- The victims a cluster that does not fit may have, in order (R48, R55). -/
def State.victimsFor (s : State) (l : Launch) : NextUp → List Victim
  | .restore _ => s.lwaitVictims l.lid ++ (s.victims l.r.part (s.levelOf l)).filter (fun v => !(s.lwaitVictims l.lid).contains v)
  | .place _ => s.victims l.r.part (s.levelOf l)

/-- The blocks a next cluster needs. -/
def State.blocksFor (s : State) (l : Launch) (stage : Nat) : NextUp → Nat
  | .restore k => (s.imagesOf l.lid stage k).length
  | .place _ => l.clusterBlocks

/-- Victims pre-empted one at a time until the cluster is placed, passing over those whose image does not fit; each time it is
tried, FRAG counts (R48, R65, R411). -/
def State.preemptUntil (l : Launch) (stage : Nat) (n : NextUp) : List Victim → State → State × Bool
  | [], s => (s, false)
  | v :: r, s =>
    match s.saveCluster v.1 v.2.1 v.2.2 false with
    | none => State.preemptUntil l stage n r s
    | some s1 =>
      let s1 := s1.countFrag l.lid stage n.cidx (s1.blocksFor l stage n)
      match s1.tryPlace l stage n with
      | some s2 => (s2, true)
      | none => State.preemptUntil l stage n r s1

/-- Pre-emption for a cluster that does not fit: nothing is pre-empted unless it fits once enough of the victims are, those
that R411 skips passed over (R48). -/
def State.preemptFor (s : State) (l : Launch) (stage : Nat) (n : NextUp) : State × Bool :=
  match State.preemptUntil l stage n (s.victimsFor l n) s with
  | (s1, true) => (s1.trimHeld, true)
  | (_, false) => (s, false)

/-- A decision that placed a cluster ends; another goes on. -/
def goOn (x : State × Bool) (k : State → State) : State := if x.2 then x.1 else k x.1

/-- A core holds resources kept for a starving stage of another launch, ahead of this one (R47). -/
def State.keptFromLaunch (s : State) (l : Launch) (c : Nat) : Bool :=
  let before := (s.launchOrder.takeWhile (fun x => x.lid != l.lid)).map (·.lid)
  s.ghosts.any (fun g => g.lid != l.lid && g.block.unit = c && (l.starved.isEmpty || before.contains g.lid)
    && (s.launch? g.lid).any (fun x => x.r.part = l.r.part && s.levelOf x ≤ s.levelOf l && x.starved.contains g.stage))

/-- The cores free for a pipelined launch: enabled, in its partition, not reserved, and empty (R47, R58). -/
def State.freeCores (s : State) (l : Launch) : List Nat :=
  (List.range Config.cores).filter (fun c => s.coreEnabled c && (s.part l.r.part).has c && !s.launches.any (fun x => x.reserves c)
    && (s.blocksOn c).isEmpty && !s.keptFromLaunch l c)

/-- Stages given free cores in order, up to a bound each. -/
def fillStages (now : Nat) (bound : StageRec → Nat) : List Nat → List StageRec → List StageRec
  | _, [] => []
  | free, q :: r =>
    let n := bound q - q.cores.length
    { q with cores := q.cores ++ (free.take n).map (fun c => (c, now, none)) } :: fillStages now bound (free.drop n) r

/-- No core is added any more once each stage has had INITC cores (R58). -/
def Launch.fixStages (l : Launch) : Launch :=
  { l with stagesFixed := l.stagesFixed || l.stages.all (fun q => q.initc ≤ q.cores.length) }

/-- Cores assigned to a pipelined launch's stages: first MINC each, once enough are free, then up to INITC until
the first block exits (R58). -/
def State.assignStages (s : State) (l : Launch) : State :=
  if l.stages.isEmpty || l.cancelled then s
  else
    let free := s.freeCores l
    let need := (l.stages.map (fun q => q.minc - q.cores.length)).sum
    if need > 0 then
      if free.length < need then s
      else s.onLaunch l.lid (fun l => { l with stages := fillStages s.now StageRec.minc free l.stages }.fixStages)
    else if l.stagesFixed then s
    else s.onLaunch l.lid (fun l => { l with stages := fillStages s.now StageRec.initc free l.stages }.fixStages)

/-- The launch can be given cores as things stand (R47, R58). -/
def State.takesCores (s : State) (l : Launch) : Bool :=
  ((s.assignStages l).launch? l.lid).any (fun x => x.stages != l.stages)

/-- A launch takes its share of the free cores when its turn comes in the order, with its first stage (R47, R58). -/
def State.staffFor (s : State) (l : Launch) (stage : Nat) : State := if stage = 0 then s.assignStages l else s

/-- The scheduler serves the first launch and stage in order that can place its next cluster; a pipelined launch that it comes to
first takes the cores it may have (R47, R48, R58). -/
def State.serve : List (Nat × Nat) → State → State
  | [], s => s
  | (lid, stage) :: r, s =>
    let s := match s.launch? lid with | some l => s.staffFor l stage | none => s
    match s.launch? lid with
    | none => State.serve r s
    | some l =>
      match s.nextUp l stage with
      | none => State.serve r (if s.awaitsCores l stage then s.unfed lid stage else s)
      | some n =>
        let s1 := match n with | .restore k => s.examine l stage k | .place _ => s
        let s1 := s1.countFrag lid stage n.cidx (s1.blocksFor l stage n)
        match s1.tryPlace l stage n with
        | some s2 => s2
        | none =>
          let s2 := s1.unfed lid stage
          match n with
          | .restore k => if s2.someCoreHas l then goOn (s2.preemptFor l stage n) (State.serve r)
              else State.serve r (s2.reportNoRestore l stage k)
          | .place _ => goOn (s2.preemptFor l stage n) (State.serve r)

/-- The lowest of `n` numbers that no launch holds. -/
def freeNumber (n : Nat) (held : List Nat) : Option Nat := (List.range n).find? (fun k => !held.contains k)

/-- Phase trees and frontier channels given in acceptance order (R346, R368). -/
def State.giveUnits (s : State) (lid : Nat) : State :=
  s.onLaunch lid (fun l =>
    { l with
      tree := if l.tree.isNone && l.r.phaseva != 0 then freeNumber 16 (s.launches.filterMap (·.tree)) else l.tree
      chan := if l.chan.isNone && l.r.lflags % 2 = 1 then freeNumber 16 (s.launches.filterMap (·.chan)) else l.chan })

/-- Every launch's stages in the order in which the scheduler serves them (R47). -/
def State.serveOrder (s : State) : List (Nat × Nat) :=
  s.launchOrder.flatMap (fun l => (List.range l.stageCount).map (fun st => (l.lid, st)))

/-- A launch's stage that comes before in the order can place its next cluster, as things stand or after pre-emption, or its launch
can be given cores (R47, R48, R58). -/
def State.outranked (s : State) (lid stage : Nat) : Bool :=
  (s.serveOrder.takeWhile (· != (lid, stage))).any (fun x => match s.launch? x.1 with
    | none => false
    | some l => (l.lid != lid && s.takesCores l) || (match s.nextUp l x.2 with
      | none => false
      | some n => (s.tryPlace l x.2 n).isSome || (s.preemptFor l x.2 n).2))

/-- `PLACEMENT_DECISION`: one decision of the scheduler (R46 to R48, R54, R55, R58, R62 to R66). -/
def execPlacementDecision (s : State) : Host.Outcome State Fault Refusal :=
  let byOrder := (sortBy (fun l => l.order) s.launches).map (·.lid)
  let s1 := byOrder.foldl State.giveUnits s
  .next (State.serve s1.serveOrder s1)

/-- `PREEMPT_CLUSTER`: the cluster is pre-empted when it is the scheduler's next victim (R48, R55, R412). -/
def execPreemptCluster (lid stg cidx : Nat) (s : State) : Host.Outcome State Fault Refusal :=
  let v : Victim := (lid, stg, cidx)
  let wanted := s.launchOrder.any (fun l => (List.range l.stageCount).any (fun st =>
    match s.nextUp l st with
    | none => false
    | some n =>
      (s.victimsFor l n).find? (fun v => (s.saveCluster v.1 v.2.1 v.2.2 false).isSome) = some v
        && (s.coresFor s.blocks l st (s.blocksFor l st n)).isNone && (s.preemptFor l st n).2))
  .next (if wanted then ((s.saveCluster lid stg cidx false).getD s).trimHeld else s)

/-- `CONTEXT_RESTORE`: the cluster is restored when it is what its launch places next, it fits, and no launch or stage that comes
before can use the room (R46, R47, R413). -/
def execContextRestore (lid stg cidx : Nat) (s : State) : Host.Outcome State Fault Refusal :=
  match s.launch? lid with
  | none => .next s
  | some l =>
    if s.nextUp l stg = some (.restore cidx) && !s.outranked lid stg then
      let s0 := s.examine l stg cidx
      let s1 := s0.countFrag lid stg cidx (s0.imagesOf lid stg cidx).length
      .next ((s1.tryPlace l stg (.restore cidx)).getD (s1.unfed lid stg))
    else .next s

/-- `STARVATION_TIMEOUT`: the next cluster of a stage has waited 100,000 ns unplaceable (R47). -/
def execStarvationTimeout (lid : Nat) (s : State) : Host.Outcome State Fault Refusal :=
  .next (s.onLaunch lid (fun l =>
    { l with starved := NatSet.insertAll l.starved ((l.waits.filter (fun w => w.2 + 100000 ≤ s.now)).map (·.1)) }))

end Sys2Proof.Machine
end

