-- ==== Sys2Proof/Machine/Matrix.lean ====
section
/-! DEFINITION. The matrix engine's instructions and steps (R263 to R279, R287 to R294). -/

namespace Sys2Proof.Machine

/-! ### Operands (R280) -/

/-- A 32-bit source: a scalar or a short immediate. -/
def numSlot (pos : Pos) (op : Operand) : Slot :=
  { pos, op, okV := false, okP := false, okSp := false, consumed := true }

/-- The value of a number operand. -/
def State.num (s : State) (v : View) (p : Pos) : Nat := (s.src v.c v.g (v.op p) false none v.low).v.toNat

/-- The value of a 64-bit operand of the lowest active lane. -/
def State.wide (s : State) (v : View) (p : Pos) : W64 := (s.src v.c v.g (v.op p) true none v.low).v

/-- A run of vector registers captured at issue. -/
def runSlot (pos : Pos) (op : Operand) (n : Nat) : Slot :=
  { pos, op, run := n, okS := false, okP := false, okSp := false, okK := false, consumed := true }

/-- Feature bits of a pair of matrix formats (R112). -/
def mxFeat (fa fb : MxFmt) : Nat :=
  let one (f : MxFmt) : Nat := match f with | .e3m2 | .e2m3 => 8 | .e2m1 => 4 | _ => 0
  one fa ||| one fb

/-- The row of a matrix-engine instruction. -/
def mxRow (feat : Nat) : RowInfo := { coll := true, noRoot := true, st := true, feat := 1 ||| feat }

/-- A trap with an operand's value in TRAPA. -/
def boundAt (n : Nat) : TrapInfo := { cause := 0x0C, addr := w64 n }

/-- An accumulator range that breaks R273. -/
def Block.accBad (b : Block) (a n : Nat) : Bool := 2 ^ 23 ≤ a || a % 4096 != 0 || b.accLen < a + n

/-- Entries of the matrix queue that have not started. -/
def Proc.mxQueued (p : Proc) : Nat := (p.mx.filter (fun m => !m.started)).length

/-- An instruction of Table 15-2 issues: MPROG of a dropped command is gone (R285). -/
def State.engineIssue (s : State) (c : Ctx) : State := s.onGroup c (fun g => { g with mprog := 0 })

/-- An entry added to the matrix queue, counted in STCNT; the group waits while the queue is full (R265). -/
def State.pushMx (s : State) (v : View) (acc : Nat) (kind : MxKind) : Effect :=
  match v.c with
  | .sup _ _ => .done s
  | .grp bid g =>
    let u := s.ctxUnit v.c
    if 16 ≤ (s.proc u).mxQueued then .wait
    else
      let s1 := (s.engineIssue v.c).counted v.c false [] 1
      .done { s1.onProc u (fun p => { p with mx := p.mx ++ [{ id := s.nextCmd, bid, g, pend := v.g.nextId, acc, kind }] }) with
        nextCmd := s.nextCmd + 1 }

/-! ### Multiplications (R287 to R289) -/

/-- A map slot's descriptor as an instruction of a format may name it (R269). -/
def Block.mapAt (b : Block) (slot : Nat) (f : Option MxFmt) : Option W64 :=
  if 16 ≤ slot then none
  else
    let d := Cells.get 0 b.omaps slot
    let same : Bool := match f with | some f => mapFmt d = mxCode f | none => true
    if mapPitch d = 0 || !same then none else some d

/-- `mma` (R265, R269, R271, R273, R287). -/
def execMma (h : Head) (fa fb : MxFmt) (d a b : Operand) (m : TileMod) (s : State) : Host.Outcome State Fault Refusal :=
  s.issue h (mxRow (mxFeat fa fb)) [numSlot .d d, numSlot .a a, numSlot .b b] (fun s v =>
    let blk := s.blockOf v.c
    let acc := s.num v .d
    let k := 32 * (m.km1.toNat + 1)
    let (r, c) := shapeDims m.shape
    match blk.mapAt (s.num v .a) (some fa), blk.mapAt (s.num v .b) (some fb) with
    | some da, some db =>
      if blk.accBad acc (tileBytes m.shape) then .trap s (boundAt acc)
      else if !mapFits da (mxBits fa) r k blk.spLen then .trap s (boundAt (s.num v .a))
      else if !mapFits db (mxBits fb) c k blk.spLen then .trap s (boundAt (s.num v .b))
      else s.pushMx v acc (.mul none fa fb h.mods.om h.mods.sat (.map da) (.map db) m.shape (k / 32))
    | _, _ => .trap s { cause := 0x02 })

/-- The compressed operand and its metadata lie in a run (R275, R288). -/
def sparseFits (d : W64) (f : MxFmt) (base : Nat) (bm : BitVec 128) (bands chunks len : Nat) : Bool × Bool :=
  let ns := (List.range bands).flatMap (fun b => (List.range chunks).filterMap (fun c => sparseIndex bm b c))
  (ns.all (fun n => indexBlock base n + 64 ≤ len),
   ns.all (fun n => valueBlock d f n + 32 * mxBits f ≤ len)
     && (!mapMx d || (List.range (16 * bands)).all (fun i => mapScale d + 16 * i + chunks ≤ len)))

/-- `mmas` (R275, R276, R287, R288). -/
def execMmas (h : Head) (fa fb : MxFmt) (d a b c : Operand) (m : TileMod) (s : State) : Host.Outcome State Fault Refusal :=
  s.issue h (mxRow (2 ||| mxFeat fa fb)) [numSlot .d d, numSlot .a a, numSlot .b b, numSlot .c c] (fun s v =>
    let blk := s.blockOf v.c
    let acc := s.num v .d
    let n := m.km1.toNat + 1
    let (r, cols) := shapeDims m.shape
    match blk.mapAt (s.num v .a) (some fa), blk.mapAt (s.num v .b) (some fb), blk.mapAt (s.num v .c) none with
    | some da, some db, some dm =>
      if !mapKmaj da || mapSwz da then .trap s { cause := 0x02 }
      else if blk.accBad acc (tileBytes m.shape) then .trap s (boundAt acc)
      else if blk.spLen < mapBase dm + 16 then .trap s (boundAt (s.num v .c))
      else
        let bm := BitVec.ofNat 128 (leNat (s.spBytes blk (mapBase dm) 16))
        let fits := sparseFits da fa (mapBase dm) bm (r / 16) n blk.spLen
        if !fits.1 then .trap s (boundAt (s.num v .c))
        else if !fits.2 then .trap s (boundAt (s.num v .a))
        else if !mapFits db (mxBits fb) cols (32 * n) blk.spLen then .trap s (boundAt (s.num v .b))
        else s.pushMx v acc (.mul (some (mapBase dm, bm)) fa fb h.mods.om h.mods.sat (.map da) (.map db) m.shape n)
    | _, _, _ => .trap s { cause := 0x02 })

/-- Registers of a group's lanes captured from vector register `n` up (R272). -/
def Group.capture (g : Group) (op : Operand) (n : Nat) : List (List Elem32) :=
  match op with
  | .v r => (List.range g.width).map (fun l => (List.range n).map (fun i => (g.vreg (r.toNat + i) l).v))
  | _ => []

/-- `mmav` (R272, R287, R289). -/
def execMmav (h : Head) (fa fb : MxFmt) (d a b : Operand) (m : VecTileMod) (s : State) : Host.Outcome State Fault Refusal :=
  let sv := Operand.v m.sv
  let slots := [numSlot .d d, runSlot .a a (fragRegs fa), runSlot .b b (fragRegs fb)]
  s.issue h (mxRow (mxFeat fa fb)) (if m.mxv then slots ++ [runSlot .c sv 1] else slots) (fun s v =>
    let acc := s.num v .d
    let scales (lo : Nat) : Option (List Byte) :=
      if m.mxv then some ((v.g.capture sv 1).map (fun l => (takeAt 0 l 0).extractLsb' lo 8)) else none
    if (s.blockOf v.c).accBad acc 4096 then .trap s (boundAt acc)
    else s.pushMx v acc (.mul none fa fb h.mods.om h.mods.sat (.frag (v.g.capture (v.op .a) (fragRegs fa)) (scales 0))
      (.frag (v.g.capture (v.op .b) (fragRegs fb)) (scales 8)) .s32x32 1))

/-- A 64-bit scalar or even pair, as `omap` takes (R290). -/
def pairSlot (pos : Pos) (op : Operand) (dst : Bool) : Slot :=
  { pos, op, wide := true, okP := false, okSp := false, okK := dst, dst, consumed := !dst, low := true }

/-- The reserved bits of a descriptor read 0 (Table 14-3). -/
def mapMask : W64 := 0x3F07FFFFFFFFFFFF

/-- `omap` (R269, R290). In a supervisor slot, which has no block and so no map slots, it does nothing, which is the model's choice
(assumption 122). -/
def execOmap (h : Head) (d a b : Operand) (s : State) : Host.Outcome State Fault Refusal :=
  s.issue h { noRoot := true, feat := 1 } [pairSlot .d d true, pairSlot .a a false, numSlot .b b] (fun s v =>
    let slot := s.num v .b
    let new := s.wide v .a &&& mapMask
    if 16 ≤ slot || !mapValid new then .trap s { cause := 0x02 }
    else match v.c with
      | .sup _ _ => .done s
      | .grp bid _ =>
        let old := Cells.get 0 (s.blockOf v.c).omaps slot
        .done (((s.engineIssue v.c).onBlock bid (fun b => { b with omaps := Cells.put 0 b.omaps slot new })).dst v.c (v.op .d) true
          (v.act.map (fun l => (l, ⟨old, false⟩)))))

/-! ### Accumulator instructions (R291 to R293) -/

/-- `acc.clr` (R291). -/
def execAccClr (h : Head) (a b : Operand) (s : State) : Host.Outcome State Fault Refusal :=
  s.issue h (mxRow 0) [numSlot .a a, numSlot .b b] (fun s v =>
    let acc := s.num v .a
    let n := s.num v .b
    if n % 4096 != 0 then .trap s (boundAt n)
    else if (s.blockOf v.c).accBad acc n then .trap s (boundAt acc)
    else s.pushMx v acc (.clr n))

/-- The scratchpad range of an `acc.ld`: 16-aligned, in the group's own run (R292). -/
def spadTrap (blk : Block) (sp n : Nat) : Option TrapInfo :=
  if sp % 16 != 0 then some { cause := 0x08, addr := w64 sp }
  else if 2 ^ 21 ≤ sp || blk.spLen < sp + n then some (boundAt sp)
  else none

/-- `acc.ld` (R292). -/
def execAccLd (h : Head) (ty : Ty) (a b : Operand) (m : Shape) (s : State) : Host.Outcome State Fault Refusal :=
  s.issue h (mxRow 0) [numSlot .a a, numSlot .b b] (fun s v =>
    let acc := s.num v .a
    let sp := s.num v .b
    if (s.blockOf v.c).accBad acc (tileBytes m) then .trap s (boundAt acc)
    else match spadTrap (s.blockOf v.c) sp (tyBytes ty * (tileBytes m / 4)) with
      | some t => .trap s t
      | none => s.pushMx v acc (.load ty sp m))

/-- The scratchpad range of an `acc.st` without DMEM: 16-aligned, in a run of the cluster (R213, R293). -/
def State.accStTrap (s : State) (blk : Block) (sp n : Nat) : Option TrapInfo :=
  if sp % 16 != 0 then some { cause := 0x08, addr := w64 sp }
  else if (s.spTarget blk sp n).isNone then some (boundAt sp)
  else none

/-- `acc.cvt` (R293). -/
def execAccCvt (h : Head) (ty : Ty) (a b : Operand) (m : Shape) (s : State) : Host.Outcome State Fault Refusal :=
  s.issue h (mxRow 0) [numSlot .a a, numSlot .b b] (fun s v =>
    let acc := s.num v .a
    let acc2 := s.num v .b
    if (s.blockOf v.c).accBad acc (tileBytes m) then .trap s (boundAt acc)
    else if (s.blockOf v.c).accBad acc2 (tileBytes m) then .trap s (boundAt acc2)
    else s.pushMx v acc (.cvt ty acc2 m h.mods.rnd h.mods.sat))

/-- An engine command of a group, with its place in the matrix queue (R265, R283). -/
def State.pushMxEngine (s : State) (v : View) (acc : Nat) (sh : Shape) (kind : EngKind) (rel : Option Scope) : Effect :=
  match v.c with
  | .sup _ _ => .done s
  | .grp bid g =>
    let id := s.nextCmd
    match { s with nextCmd := id + 1 }.pushMx v acc (.engine id sh) with
    | .done s1 => .done (s1.onProc (s.ctxUnit v.c) (fun p => { p with cmds := p.cmds ++ [
        { id, bid, g, pend := v.g.nextId, kind, rel }] }))
    | e => e

/-- `acc.st` (R286, R293). -/
def execAccSt (h : Head) (ty : Ty) (a b : Operand) (m : StTileMod) (s : State) : Host.Outcome State Fault Refusal :=
  let dst : Slot := if m.dmem then scalarSlot .b b else numSlot .b b
  s.issue h { mxRow 0 with parks := m.dmem } [numSlot .a a, dst] (fun s v =>
    let acc := s.num v .a
    if (s.blockOf v.c).accBad acc (tileBytes m.shape) then .trap s (boundAt acc)
    else if m.dmem then
      let va := s.wide v .b
      if va.toNat % 16 != 0 then .trap s { cause := 0x08, addr := va }
      else s.pushMxEngine v acc m.shape (.stMem acc va ty m.shape h.mods.rnd h.mods.sat) none
    else
      let sp := s.num v .b
      match s.accStTrap (s.blockOf v.c) sp (tyBytes ty * (tileBytes m.shape / 4)) with
      | some t => .trap s t
      | none => s.pushMx v acc (.store ty sp m.shape h.mods.rnd h.mods.sat))

/-- The acquire of an engine command waits for the group's accesses and writes its L1 back (R257). -/
def State.engineAcquire (s : State) (v : View) (acq : Option Scope) (k : State → Effect) : Effect :=
  match acq with
  | none => k s
  | some sc => if s.unperformed v.c then .wait else k (s.release v.c sc)

/-- `acc.send` (R257, R294). -/
def execAccSend (h : Head) (ty : Ty) (a b c : Operand) (o : OrdMod) (m : Shape) (s : State) : Host.Outcome State Fault Refusal :=
  s.issue h { mxRow 0x10 with parks := true } [numSlot .a a, scalarSlot .b b, scalarSlot .c c] (fun s v =>
    let acc := s.num v .a
    let va := s.wide v .b
    let ctl := (s.wide v .c).toNat
    if ctl / 2 ^ 16 != 0 then .trap s { cause := 0x02 }
    else if va.toNat % 128 != 0 then .trap s { cause := 0x08, addr := va }
    else if (s.blockOf v.c).accBad acc (tileBytes m) then .trap s (boundAt acc)
    else s.engineAcquire v o.acq (fun s =>
      s.pushMxEngine v acc m (.send acc va (ty = .x64) m (signedOf 8 ctl) (field ctl 8 8)) o.rel))

/-! ### The engine's own steps -/

/-- The entry that the engine would start next, with those before it: one that lost its set, else the first not
started (R265, R278). -/
def nextStart (l : List MxCmd) : Option MxCmd :=
  (l.find? (fun m => m.started && m.kind.mul?.isSome && m.set.isNone)).orElse (fun _ => l.find? (fun m => !m.started))

/-- The clusters with work on the engine of a core without an enabled sub-array are pre-empted, as soon as the pool has room
(R278, R411). -/
def State.engineLost (s : State) (u : Nat) : State :=
  if !(s.subsEnabled u).isEmpty then s
  else
    let s1 := s.dropMtx u
    let vs := ((s1.blocks.filter (fun b => b.unit = u
      && (s1.proc u).mx.any (fun m => m.bid = b.bid && m.kind.mul?.isSome))).map Block.victim).eraseDups
    (vs.foldl (fun s v => (s.saveCluster v.1 v.2.1 v.2.2 false).getD s) s1).trimHeld

/-- `MATRIX_START` (R263, R265): the next entry starts when its set is free and no earlier entry meets it. -/
def execMatrixStart (core : Nat) (s0 : State) : Host.Outcome State Fault Refusal :=
  let s := s0.engineLost core
  match nextStart (s.proc core).mx with
  | none => .next s
  | some m =>
    let start (set : Option (Nat × Nat)) : State := s.onProc core (fun p =>
      { p with mx := p.mx.map (fun x => if x.id = m.id then { x with started := true, set } else x) })
    if ((s.proc core).mx.takeWhile (fun x => x.id != m.id)).any m.meets && !m.started then .next s
    else match m.kind.mul? with
      | none => .next (start none)
      | some k => match s.freeSet core (shapeTiles k.shape) with
        | none => .next s
        | some set => .next (start (some set))

/-- A started multiplication runs its passes to its end, or until its set has no enabled sub-array (R266, R268, R278). -/
def State.completeMul (u id : Nat) : Nat → State → State
  | 0, s => s
  | fuel + 1, s =>
    match (s.proc u).mx.find? (fun c => c.id = id) with
    | none => s
    | some c => if c.set.isSome then State.completeMul u id fuel (s.runPass u c) else s

/-- `matrixPass`: entry `k` of the engine finishes the pass it is in, when another follows (R266). -/
def State.passTurn (s : State) (u k : Nat) : State :=
  match (s.proc u).mx[k]? with
  | none => s
  | some c => if c.passesLeft (s.setSubs u (c.set.getD (0, 0))).length ≤ 1 then s else (s.runPass u c).engineLost u

/-- `MATRIX_COMPLETE` (R267, R268, R274 to R278, R486): entry `k` of the engine, once started, is performed. -/
def execMatrixComplete (core k : Nat) (s : State) : Host.Outcome State Fault Refusal :=
  match (s.proc core).mx[k]? with
  | none => .next s
  | some c =>
    match s.block? c.bid with
    | none => .next s
    | some b =>
      if !c.started then .next s
      else match c.kind, c.kind.mul?, c.set with
        | .engine _ _, _, _ => .next s
        | _, some _, some _ => .next ((State.completeMul core c.id 17 s).engineLost core)
        | _, some _, none => .next s
        | _, none, _ => .next ((s.performAcc b c).mxComplete core c)

/-- `IDLE_SELF_TEST` (R277, R278): an idle sub-array tests itself, and is fenced when it fails; one of a dead agent has halted (R448). -/
def execIdleSelfTest (core sub : Nat) (s : State) : Host.Outcome State Fault Refusal :=
  let p := s.proc core
  let busy := p.mx.any (fun m => match m.set with | some x => x.1 ≤ sub && sub < x.1 + x.2 | none => false)
  if !s.unitDead core && (s.subsEnabled core).contains sub && !busy && p.failing.getLsbD sub then .next ((s.fenceSub core sub).engineLost core)
  else .next s

end Sys2Proof.Machine
end

