-- ==== Sys2Proof/Machine/Barriers.lean ====
section
/-! DEFINITION. Transaction barriers (R300 to R305), and block and cluster barriers (R335 to R337). -/

namespace Sys2Proof.Machine

/-! ### Transaction barriers -/

/-- The barrier that an instruction names: MISAL, then BOUND (R301). -/
def State.barAt (s : State) (v : View) (a : Nat) : Except TrapInfo (Block × Nat) :=
  if a % 16 != 0 then .error { cause := 0x08, addr := w64 a }
  else match s.spTarget (s.blockOf v.c) a 16 with
    | none => .error (boundAt a)
    | some t => .ok t

/-- An instruction that updates a barrier (R301, R302): its limit on B, the scope of its release, and the update of the unit
at the barrier's offset, which wakes a gated core (R447). -/
def State.barUpdate (s : State) (h : Head) (a b : Operand) (ok : Nat → Bool) (rel : Bool) (f : Nat → Nat → Proc → Proc) :
    Host.Outcome State Fault Refusal :=
  s.issue h {} [numSlot .a a, numSlot .b b] (fun s v =>
    let addr := s.num v .a
    let n := s.num v .b
    if !ok n then .trap s { cause := 0x02 }
    else match s.barAt v addr with
      | .error t => .trap s t
      | .ok (blk, off) =>
        if rel && s.unperformed v.c then .wait
        else
          let s1 := if rel then s.release v.c (if addr.testBit 27 then .clu else .blk) else s
          .done (((s1.engineIssue v.c).wakeCore blk.unit).onProc blk.unit (f n (blk.spBase + off))))

/-- A barrier initialised: its granule is written whole, and so loses its mark (R286, R301). -/
def Proc.tbInit (p : Proc) (off n : Nat) : Proc :=
  let q := p.tbUpdate off (fun _ => { phase := false, r0 := 0, count := n, parr := n, r1 := 0, err := 0, pbytes := 0, result := 0 })
  { q with spPoison := NatSet.removeAll q.spPoison (wholeGranules off 16) }

/-- `tbinit` (R301). -/
def execTbinit (h : Head) (a b : Operand) (s : State) : Host.Outcome State Fault Refusal :=
  s.barUpdate h a b (fun n => 1 ≤ n && n ≤ 65535) false (fun n off p => p.tbInit off n)

/-- Bytes expected at a barrier (`tbexp`, R301). -/
def TBar.expect (n : Nat) (b : TBar) : TBar := { b with pbytes := (b.pbytes + n) % 2 ^ 32 }

/-- `tbexp` (R301). -/
def execTbexp (h : Head) (a b : Operand) (s : State) : Host.Outcome State Fault Refusal :=
  s.barUpdate h a b (fun n => n < 2 ^ 31) false (fun n off p => p.tbUpdate off (TBar.expect n))

/-- `tbarr` (R301, R302). -/
def execTbarr (h : Head) (a b : Operand) (s : State) : Host.Outcome State Fault Refusal :=
  s.barUpdate h a b (fun n => n < 2 ^ 31) true (fun n off p => p.tbUpdate off (TBar.arrive n))

/-- `tbwait` (R304). -/
def execTbwait (h : Head) (d a b : Operand) (s : State) : Host.Outcome State Fault Refusal :=
  s.issue h {} [pairSlot .d d true, numSlot .a a, numSlot .b b] (fun s v =>
    let addr := s.num v .a
    if addr.testBit 27 then .trap s { cause := 0x02 }
    else match s.barAt v addr with
      | .error t => .trap s t
      | .ok (blk, off) =>
        let bar := (s.proc blk.unit).tbar (blk.spBase + off)
        if bar.phase = (s.num v .b).testBit 0 then .wait
        else .done (((s.engineIssue v.c).acquire v.c .blk).dst v.c (v.op .d) true (v.act.map (fun l => (l, ⟨w64 (bar.result + bar.err * 2 ^ 32), false⟩)))))

/-! ### Block and cluster barriers (R335, R336) -/

/-- `bar` (R335, R336). -/
def execBar (h : Head) (a : Operand) (s : State) : Host.Outcome State Fault Refusal :=
  s.issue h { coll := true } [numSlot .a a] (fun s v =>
    let n := s.num v .a
    if 16 ≤ n then .trap s { cause := 0x02 }
    else match v.c with
      | .sup _ _ => .done s
      | .grp bid g =>
        if s.unperformed v.c then .wait
        else
          let s1 := (s.release v.c .blk).onGroup v.c (fun x => { x.stalled h with hold := .bar n })
          .held (s1.onBlock bid (fun b =>
            let r := Cells.get {} b.bars n
            { b with bars := Cells.set b.bars n { r with mask := NatSet.insert r.mask g } }.barTest n)))

/-- `cbar` (R335, R336). -/
def execCbar (h : Head) (a : Operand) (s : State) : Host.Outcome State Fault Refusal :=
  s.issue h { coll := true, noRoot := true } [numSlot .a a] (fun s v =>
    let n := s.num v .a
    if 4 ≤ n then .trap s { cause := 0x02 }
    else match v.c with
      | .sup _ _ => .done s
      | .grp _ g =>
        if s.unperformed v.c then .wait
        else
          let blk := s.blockOf v.c
          let s1 := (s.release v.c .clu).onGroup v.c (fun x => { x.stalled h with hold := .cbar n })
          let holder := ((lowestRank (s1.cluster blk)).map (·.bid)).getD blk.bid
          .held ((s1.onBlock holder (fun b =>
            let r := Cells.get {} b.bars (cbarKey n)
            { b with bars := Cells.set b.bars (cbarKey n) { r with mask := NatSet.insert r.mask (cbarBit blk g) } })).cbarTest blk n))

end Sys2Proof.Machine
end

