-- ==== Sys2Proof/Machine/Control.lean ====
section
/-! DEFINITION. Control and housekeeping instructions (R101, R141 to R149). -/

namespace Sys2Proof.Machine

/-- The lanes of the run outside `ls`. -/
def View.others (v : View) : List Nat := v.g.run.filter (fun l => !v.act.contains l)

/-- `nop` (R146). -/
def execNop (h : Head) (s : State) : Host.Outcome State Fault Refusal := s.issue h {} [] (fun s _ => .done s)

/-- The head with HNT.YLD set (R146). -/
def yielding (h : Head) : Head := { h with hints := { h.hints with yld := true } }

/-- `yield` (R146): as `nop` with HNT.YLD = 1. -/
def execYield (h : Head) (s : State) : Host.Outcome State Fault Refusal := s.issue (yielding h) {} [] (fun s _ => .done s)

/-- `rep` (R101 to R104): the run keeps its PC, and the word after it issues once for each iteration
from REPI on. -/
def execRep (h : Head) (r : RepMod) (s : State) : Host.Outcome State Fault Refusal :=
  s.issue h {} [] (fun s v => .held (s.onGroup v.c (fun g =>
    { (if g.repi = 0 then g.firstIteration else g) with rep := some r })))

/-- The target of a relative branch at `pc` (R141). -/
def branchTarget (pc : W64) (x : BitVec 32) : W64 := pc + 12 + 12 * x.signExtend 64

/-- The address operand of `brx` and `callx` (R141). -/
def slotTarget (a : Operand) : Slot :=
  { pos := .a, op := a, wide := true, okP := false, okSp := false, okK := false, consumed := true }

/-- The lanes of the run move: each active lane to its target, the others on (R86). -/
def Group.jump (g : Group) (act others : List Nat) (target : Nat → W64) : Group :=
  let g1 := g.advance others
  { g1 with lanes := g1.lanes.mapIdx (fun i l => if act.contains i then { l with pc := target i } else l) }

/-- A branch to each active lane's target. -/
def View.branch (v : View) (s : State) (target : Nat → W64) : Effect :=
  .goto (s.onGroup v.c (fun g => g.jump v.act v.others target))

/-- `bra` (R141). -/
def execBra (h : Head) (x : BitVec 32) (s : State) : Host.Outcome State Fault Refusal :=
  s.issue h {} [] (fun s v => v.branch s (fun _ => branchTarget v.g.pc x))

/-- `brx` (R141). -/
def execBrx (h : Head) (a : Operand) (s : State) : Host.Outcome State Fault Refusal :=
  s.issue h {} [slotTarget a] (fun s v => v.branch s (fun l => (s.src v.c v.g (v.op .a) true none l).v))

/-- The link of a call written and the lane one window deeper (R68). -/
def Group.link (g : Group) (ret : W64) : List Nat → Group
  | [] => g
  | l :: r =>
    let g1 := (g.setVreg 46 l ⟨ret.setWidth 32, false⟩).setVreg 47 l ⟨(ret >>> 32).setWidth 32, false⟩
    (g1.onLanes [l] (fun x => { x with depth := x.depth + 1 })).link ret r

/-- A call to each active lane's target, with the overflow check of R69. -/
def View.call (v : View) (s : State) (target : Nat → W64) : Effect :=
  if v.act.any (fun l => v.g.win ≤ (v.g.lane l).depth + 1 - v.g.rb) then .trap s { cause := 0x04 }
  else .goto (s.onGroup v.c (fun g => (g.link (v.g.pc + 12) v.act).jump v.act v.others target))

/-- `call` (R68, R69, R141). -/
def execCall (h : Head) (x : BitVec 32) (s : State) : Host.Outcome State Fault Refusal :=
  s.issue h {} [] (fun s v => v.call s (fun _ => branchTarget v.g.pc x))

/-- `callx` (R68, R69, R141). -/
def execCallx (h : Head) (a : Operand) (s : State) : Host.Outcome State Fault Refusal :=
  s.issue h {} [slotTarget a] (fun s v => v.call s (fun l => (s.src v.c v.g (v.op .a) true none l).v))

/-- `ret` (R68, R69, R142): each active lane returns to the link of the window below. -/
def execRet (h : Head) (s : State) : Host.Outcome State Fault Refusal :=
  s.issue h {} [] (fun s v =>
    if v.act.any (fun l => (v.g.lane l).depth ≤ v.g.rb) then .trap s { cause := 0x05 }
    else
      let up := v.g.onLanes v.act (fun x => { x with depth := x.depth - 1 })
      let hits := v.act.filterMap (fun l => (up.consumedElem (.v 46) true l).map (fun w => (l, w)))
      match up.consumeTrap hits with
      | some t => .trap s t
      | none =>
        let link (l : Nat) : W64 := (up.vreg 46 l).v.setWidth 64 ||| ((up.vreg 47 l).v.setWidth 64 <<< 32)
        .goto (s.onGroup v.c (fun g =>
          (g.onLanes v.act (fun x => { x with depth := x.depth - 1 })).jump v.act v.others link)))

/-- The lanes exit and the run's others move on (R143). -/
def Group.leave (g : Group) (act others : List Nat) : Group :=
  (g.advance others).onLanes act (fun l => { l with live := false })

/-- `exit` (R143, R391): a task group whose last lanes exit first waits, as `tend` does, for its
counts to be 0; a supervisor slot's lanes end and its service does not (assumption 112). -/
def execExit (h : Head) (s : State) : Host.Outcome State Fault Refusal :=
  s.issue h {} [] (fun s v =>
    let g' := v.g.leave v.act v.others
    match v.c with
    | .sup _ _ => .goto (s.onGroup v.c (fun g => g.leave v.act v.others))
    | .grp bid g =>
      if g'.alive then .goto (s.onGroup v.c (fun g => g.leave v.act v.others))
      else if v.g.task.isSome && (v.g.ldcnt != 0 || v.g.stcnt != 0) then .wait
      else .goto (((s.onGroup v.c (fun g => g.leave v.act v.others)).finishTask bid g).groupEnded bid g).trimHeld)

/-- TRAPA of `trap` and `bkpt` (R144). -/
def codeAddr (x : BitVec 32) (act : List Nat) : W64 := x.setWidth 64 ||| w64 (laneMask act * 2 ^ 32)

/-- `trap` (R144). -/
def execTrap (h : Head) (x : BitVec 32) (s : State) : Host.Outcome State Fault Refusal :=
  s.issue h {} [] (fun s v => .trap s { cause := 0x19, addr := codeAddr x v.act })

/-- `bkpt` (R144). -/
def execBkpt (h : Head) (x : BitVec 32) (s : State) : Host.Outcome State Fault Refusal :=
  s.issue h {} [] (fun s v => .trap s { cause := 0x18, addr := codeAddr x v.act })

/-- `wcnt` (R145): the group issues nothing until its counts are low enough; it has issued meanwhile, with TRAPPC
past it (assumption 117). -/
def execWcnt (h : Head) (l : WcntMod) (s : State) : Host.Outcome State Fault Refusal :=
  s.issue h {} [] (fun s v =>
    if v.g.counted l.ldmax.toNat l.stmax.toNat then .done s
    else .waitIn (s.onGroup v.c (fun g =>
      { g with hold := .wcnt l.ldmax.toNat l.stmax.toNat h.hints.stall.toNat h.hints.yld })))

/-- The special registers of 64 bits (Tables 4-2 and 19-3). -/
def specialWide (i : BitVec 8) : Bool := [18, 19, 22, 23, 25, 27, 28, 34, 37, 38, 41, 43, 44].contains i.toNat

/-- Whether an operand is a special register of 64 bits. -/
def operandWide64 : Operand → Bool
  | .special i => specialWide i
  | _ => false

/-- `srget` (R147). -/
def execSrget (h : Head) (d a : Operand) (s : State) : Host.Outcome State Fault Refusal :=
  let w := operandWide64 a
  s.perLane h {} [slotD d w, { pos := .a, op := a, wide := true, okV := false, okS := false, okP := false, okK := false }] w
    [(.a, true, none)] (fun x => x .a)

/-- `srset` (R148): bits [31:0] of the lowest active lane's A; a 64-bit register's upper half becomes 0 (assumption 111). -/
def execSrset (h : Head) (d a : Operand) (s : State) : Host.Outcome State Fault Refusal :=
  s.issue h {} [{ slotD d false with okV := false, okS := false, okP := false, okK := false },
      { pos := .a, op := a, consumed := true, low := true }] (fun s v =>
    .done (s.dst v.c (v.op .d) false [(v.low, ⟨(s.src v.c v.g (v.op .a) false none v.low).v, false⟩)]))

/-- The seed a value loads (R149). -/
def seedOf (v : W64) : W64 := if v = 0 then 0x9E3779B97F4A7C15 else v

/-- `srset.seed` (R129, R149). -/
def execSrsetSeed (h : Head) (a : Operand) (s : State) : Host.Outcome State Fault Refusal :=
  s.issue h {} [{ pos := .a, op := a, wide := true, okP := false, okSp := false, consumed := true, low := true }] (fun s v =>
    .done (s.onProc (s.ctxUnit v.c) (fun p =>
      { p with gen := seedOf (s.src v.c v.g (v.op .a) true none v.low).v, draws := [] })))

end Sys2Proof.Machine
end

