-- ==== Sys2Proof/Machine/Engines.lean ====
section
/-! DEFINITION. The tensor walker, the copy engine, and the memory side of `acc.send` and `acc.st` (R280 to
R286, R293 to R299, R303, R437). -/

namespace Sys2Proof.Machine

/-! ### Tensor records (Table 15-6) -/

/-- Bits of an element of a record's format. -/
def recBits (fmt : Nat) : Nat :=
  match fmt with
  | 0 | 1 | 7 => 8
  | 2 | 3 => 6
  | 4 => 4
  | 5 | 6 => 16
  | 8 => 32
  | _ => 64

/-- The fields of the 64 bytes of a record. -/
def recOf (n : Nat) : TensorRec :=
  { base := w64 (field n 0 64), fmt := field n 64 8, rank := field n 72 8, oob := field n 80 8, swz := field n 88 8 = 1
    ext := (List.range 5).map (fun d => field n (96 + 32 * d) 32)
    str := (List.range 4).map (fun d => field n (256 + 48 * d) 48)
    box := (List.range 5).map (fun d => field n (448 + 8 * d) 8)
    mxl := field n 488 8 = 1 }

/-- Rows of a box. -/
def TensorRec.rows (r : TensorRec) : Nat := takeAt 1 r.box 1 * takeAt 1 r.box 2 * takeAt 1 r.box 3 * takeAt 1 r.box 4

/-- P: bytes of a box row. -/
def TensorRec.rowBytes (r : TensorRec) : Nat := takeAt 1 r.box 0 * recBits r.fmt / 8

/-- Bytes of a box, with its scales. -/
def TensorRec.boxBytes (r : TensorRec) : Nat := r.rows * (r.rowBytes + if r.mxl then 16 else 0)

/-- Bytes of a row of the tensor up to its scales (R295). -/
def TensorRec.scaleAt (r : TensorRec) : Nat := alignUp (ceilDiv (takeAt 1 r.ext 0 * recBits r.fmt) 8) 16

/-- The limits on one dimension. -/
def TensorRec.dimOk (r : TensorRec) (d : Nat) : Bool :=
  let e := takeAt 0 r.ext d
  let b := takeAt 0 r.box d
  let st := if d = 0 then 0 else takeAt 0 r.str (d - 1)
  if d < r.rank then 1 ≤ e && e < 2 ^ 31 && 1 ≤ b && st % 16 = 0 && st < 2 ^ 47 else e = 1 && b = 1 && st = 0

/-- A record that R295 accepts, with its 64 bytes. That STR1 need not reach past the scales of a record of rank 1 is the model's
choice (assumption 124). -/
def recValid (n : Nat) : Option TensorRec :=
  let r := recOf n
  let bits := takeAt 0 r.box 0 * recBits r.fmt
  if r.base.toNat % 16 = 0 && r.fmt ≤ 9 && 1 ≤ r.rank && r.rank ≤ 5 && r.oob ≤ 1
      && (r.oob = 0 || [0, 1, 5, 6].contains r.fmt) && field n 88 8 ≤ 1 && field n 488 8 ≤ 1 && field n 496 16 = 0
      && (List.range 5).all r.dimOk && bits % 128 = 0 && (!r.swz || bits % 1024 = 0) && r.boxBytes ≤ 2 ^ 21
      && (!r.mxl || (r.fmt ≤ 4 && takeAt 0 r.ext 0 % 32 = 0 && takeAt 0 r.box 0 % 32 = 0
        && (r.rank = 1 || r.scaleAt + takeAt 0 r.ext 0 / 32 ≤ takeAt 0 r.str 0)))
  then some r else none

/-- The row of a tensor instruction. -/
def walkRow (coll ld : Bool) : RowInfo := { coll, noRoot := true, feat := 0x20, ld, st := !ld, parks := !ld }

/-- The sectors of a 64-byte record (R197, R295). -/
def recordSectors (xs : List LaneXl) : List Nat := (requestSectors xs).flatMap (fun k => [k, k + 1])

/-- `trec` (R295, R296). -/
def execTrec (h : Head) (d a : Operand) (s : State) : Host.Outcome State Fault Refusal :=
  s.issue h (walkRow false true) [numSlot .d d, scalarSlot .a a] (fun s v =>
    let slot := s.num v .d
    let va := s.wide v .a
    if s.parksOn v.c [(v.low, va)] then .wait
    else if 16 ≤ slot then .trap s { cause := 0x02 }
    else match misaligned 64 [(v.low, va)] with
      | some t => .trap s t
      | none =>
        let (s1, xs) := s.translateLanes v.c .read [(v.low, va)]
        match windowTrap v.sup 8 xs with
        | some t => .trap s t
        | none =>
          if s.taskLost s1 v.c then .waitIn s1
          else match s1.lacksRoom v.c false xs with
          | some s2 => .waitIn s2
          | none =>
            let (s2, r) : State × Except Nat (List Byte) := match xs with
              | ⟨_, _, .ok (y, sp)⟩ :: _ => s1.readAt v.c y sp true false 64
              | ⟨_, _, .error e⟩ :: _ => (s1, .error e)
              | [] => (s1, .error 0x0A)
            let got : TrecSlot := match r with
              | .ok bs => .loading (cmdOwner v.c).2 v.g.nextId va (recValid (leNat bs)) none
              | .error e => .loading (cmdOwner v.c).2 v.g.nextId va none (some (BitVec.ofNat 8 e, va))
            .done (((s2.engineIssue v.c).counted v.c true [] 0 (recordSectors xs)).onBlock (s.blockOf v.c).bid (fun b =>
              { b with trecs := Cells.set b.trecs slot got })))

/-! ### Issue of walker and copy commands -/

/-- A command that the walker or the copy engine runs, as against the matrix engine. -/
def EngKind.walker : EngKind → Bool
  | .walk _ _ _ | .copyt _ _ _ => true
  | _ => false

/-- A command that the copy engine runs. -/
def EngKind.copies : EngKind → Bool
  | .copy _ _ _ => true
  | _ => false

/-- A command queued on its engine; the group waits while the queue is full (R283). That a command keeps its entry until it completes
is the model's choice (assumption 125). -/
def State.pushCmd (s : State) (v : View) (kind : EngKind) (o : OrdMod) (bar : Option (Nat × Nat)) : Effect :=
  let full : Bool := 32 ≤ ((s.proc (s.ctxUnit v.c)).cmds.filter (fun c => c.kind.walker = kind.walker && c.kind.copies = kind.copies)).length
  if full then .wait
  else s.engineAcquire v o.acq (fun s =>
    let (bid, g) := cmdOwner v.c
    let s1 := (s.engineIssue v.c).counted v.c false [] 1
    .done { s1.onProc (s.ctxUnit v.c) (fun p => { p with cmds := p.cmds ++ [
      { id := s.nextCmd, bid, g, pend := v.g.nextId, kind, rel := o.rel, bar }] }) with nextCmd := s.nextCmd + 1 })

/-- The barrier that MBO and MBV of a control word name in a block (R297, R299). -/
def ctlBar (ctl : Nat) (b : Block) : Except TrapInfo (Option (Nat × Nat)) :=
  if !ctl.testBit 63 then .ok none
  else
    let off := 16 * field ctl 40 17
    if b.spLen < off + 16 then .error (boundAt off) else .ok (some (b.bid, off))

/-- A box's place: its block's barrier, or the trap of its address (R213, R297). -/
def State.boxPlace (s : State) (v : View) (r : TensorRec) (ctl : Nat) : Except TrapInfo (Option (Nat × Nat)) :=
  let dst := field ctl 0 32
  if dst % (if r.swz then 128 else 16) != 0 then .error { cause := 0x08, addr := w64 dst }
  else match s.spTarget (s.blockOf v.c) dst r.boxBytes with
    | none => .error (boundAt dst)
    | some (b, _) => ctlBar ctl b

/-- The coordinate operand's lanes. -/
def View.coords (v : View) (rank : Nat) : List Int :=
  match v.op .b with
  | .v n => (List.range rank).map (fun d => (v.g.vreg n.toNat d).v.toInt)
  | _ => []

/-- The consumption trap of the lanes that hold a coordinate (R280). -/
def View.coordPoison (v : View) (rank : Nat) : Option TrapInfo :=
  v.g.consumeTrap ((List.range rank).filterMap (fun d => (v.g.consumedElem (v.op .b) false d).map (fun w => (d, w))))

/-- `walk` and `copyt` at issue (R297, R298). A misaligned first coordinate names no address, so TRAPA is then a free
value (DESIGN CHOICE, log entry 68). -/
def State.boxCommand (s : State) (h : Head) (a b c : Operand) (o : OrdMod) (store : Bool) :
    Host.Outcome State Fault Refusal :=
  s.issue h (walkRow true false) [numSlot .a a, { runSlot .b b 1 with consumed := false }, scalarSlot .c c] (fun s v =>
    let slot := s.num v .a
    let ctl := (s.wide v .c).toNat
    if 16 ≤ slot || field ctl 32 8 != 0 || field ctl 57 6 != 0 then .trap s { cause := 0x02 }
    else match Cells.get .empty (s.blockOf v.c).trecs slot with
      | .empty | .invalid => .trap s { cause := 0x02 }
      | .loading _ _ _ _ _ => .wait
      | .failed cause va => .trap s { cause := cause.toNat, cons := true, addr := va, psnm := some (BitVec.ofNat 32 (laneMask v.act)) }
      | .valid r =>
        if store && r.mxl then .trap s { cause := 0x02 }
        else match v.coordPoison r.rank with
          | some t => .trap s t
          | none =>
            let cs := v.coords r.rank
            if (takeAt 0 cs 0 * recBits r.fmt) % 8 != 0 then
              .trap s.free.2 { cause := 0x08, addr := s.free.1 }
            else match s.boxPlace v r ctl with
              | .error t => .trap s t
              | .ok bar =>
                let dst := field ctl 0 32
                s.pushCmd v (if store then .copyt r cs dst else .walk r cs dst) o bar)

/-- `walk` (R257, R283, R297). -/
def execWalk (h : Head) (a b c : Operand) (o : OrdMod) (s : State) : Host.Outcome State Fault Refusal :=
  s.boxCommand h a b c o false

/-- `copyt` (R257, R283, R298). -/
def execCopyt (h : Head) (a b c : Operand) (o : OrdMod) (s : State) : Host.Outcome State Fault Refusal :=
  s.boxCommand h a b c o true

/-- `copy` (R257, R283, R299, R309). A misaligned LEN names no address, so TRAPA is then a free value (DESIGN CHOICE, log
entry 68). -/
def execCopy (h : Head) (a b c : Operand) (o : OrdMod) (s : State) : Host.Outcome State Fault Refusal :=
  s.issue h { st := true, parks := true } [scalarSlot .a a, scalarSlot .b b, scalarSlot .c c] (fun s v =>
    let dst := s.wide v .a
    let src := s.wide v .b
    let ctl := (s.wide v .c).toNat
    let len := field ctl 0 40
    if dst.toNat % 16 != 0 then .trap s { cause := 0x08, addr := dst }
    else if src.toNat % 16 != 0 then .trap s { cause := 0x08, addr := src }
    else if len % 16 != 0 then .trap s.free.2 { cause := 0x08, addr := s.free.1 }
    else if field ctl 57 6 != 0 then .trap s { cause := 0x02 }
    else match ctlBar ctl (s.blockOf v.c) with
      | .error t => .trap s t
      | .ok bar => s.pushCmd v (.copy dst src len) o bar)

/-! ### How an engine reaches memory (R282, R284) -/

/-- An engine's translation and target. A window that only the supervisor reaches fails with PRIV for other software, and the launch
queue blocks, which take 64-bit accesses only, with MISAL for a supervisor (R7, R39); the configuration block, whose alignment rule is
of loads at issue, an engine reads byte by byte (DESIGN CHOICE, log entry 84). -/
def State.engXl (s : State) (c : Ctx) (which : Nat) (k : AccKind) (va : W64) : State × Except Nat (Xl × Spot) :=
  match s.translate (s.xctx c) which k va with
  | (s1, .error e) => (s1, .error e)
  | (s1, .ok x) =>
    match s1.reach c x with
    | .unbacked => (s1, .error 0x0A)
    | .queueRegs _ => (s1, .error (if isSupCtx c then 0x08 else 0x06))
    | .control u o => (s1, if isSupCtx c then .ok (x, .control u o) else .error 0x06)
    | .partRegs o => (s1, if isSupCtx c then .ok (x, .partRegs o) else .error 0x06)
    | sp => (s1, .ok (x, sp))

/-- Bytes an engine reads, within one line, each with its poison (R282, R286). -/
def State.engRead (s : State) (c : Ctx) (x : Xl) (sp : Spot) (n : Nat) : State × List (Byte × Bool) :=
  match sp with
  | .memory _ | .host | .peer _ =>
    if s.onRoot c then
      let s1 := s.dramTouchAll x.pa n
      (s1, ((List.range n).map (fun i => s1.dramBad (x.pa + i))) |> (s1.dramBytes (leafKey x.leaf) x.pa n).zip)
    else
      let s1 := s.homeTouch (s.reader c x) x.pa
      (s1, (s1.bytesUnder (leafKey x.leaf) x.pa n).map (fun b => (b, s1.homeBad (x.pa / 128))))
  | .spad u off => (s.wakeCore u, ((s.proc u).spRead off n).zipIdx.map (fun b => (b.1, (s.proc u).spBad (off + b.2) 1)))
  | .accum u off => (s.wakeCore u, ((s.proc u).accRead off n).zipIdx.map (fun b => (b.1, ((s.proc u).accBadAt (off + b.2) 1).isSome)))
  | .control u off => (s.wakeCore u, (regBytes (s.controlWord u) off n).map (fun b => (b, false)))
  | .config off => (s, (regBytes s.configWord off n).map (fun b => (b, false)))
  | .partRegs off => (s, (regBytes (fun o => (s.part (o / 256)).word (o % 256)) off n).map (fun b => (b, false)))
  | _ => (s, [])

/-- Bytes an engine writes, within one line, with poison carried to the target (R282, R286). -/
def State.engWrite (s : State) (c : Ctx) (x : Xl) (sp : Spot) (bs : List (Byte × Bool)) : State :=
  let plain := bs.map (·.1)
  let bad := bs.any (·.2)
  let cells := plain.zipIdx.map (fun b => (x.pa % 128 + b.2, b.1))
  match sp with
  | .memory _ | .host | .peer _ =>
    let line := x.pa / 128
    if s.onRoot c then (if bad then s.dramPutBad else s.dramPut) (leafKey x.leaf) line cells
    else if bad then s.homeWriteBad .other (leafKey x.leaf) line cells
    else s.homeWrite .other (leafKey x.leaf) line cells
  | .spad u off =>
    let marks := (bs.zipIdx.filter (fun b => b.1.2)).map (fun b => (off + b.2) / 16)
    s.spFill u off plain marks
  | .accum u off =>
    let s1 := (s.wakeCore u).onProc u (fun p => p.accWrite off plain)
    let marks := (bs.zipIdx.filter (fun b => b.1.2)).map (fun b => (off + b.2) / 16)
    if bad then s1.onProc u (fun p => { p with accPoison := NatSet.insertAll p.accPoison marks }) else s1
  | sp => s.writeChip c sp 1 plain

/-- Where an engine stopped: the cause and the failing address. -/
abbrev EngStop := Option (Nat × W64)

/-- The pieces of `n` bytes from `va` that lie within one 16-byte unit each. -/
def pieces16 (va : W64) (n : Nat) : List (W64 × Nat) :=
  let lo := va.toNat % 16
  (List.range (ceilDiv (lo + n) 16)).map (fun i =>
    let a := max lo (16 * i)
    let b := min (lo + n) (16 * i + 16)
    (va + w64 (a - lo), b - a))

/-- Bytes read piece by piece, up to the first that fails; the columns of a root core's read that fail are recorded once
(R327). -/
def State.engReads (s : State) (c : Ctx) (which : Nat) (vs : List (W64 × Nat)) : State × List (Byte × Bool) × EngStop :=
  let rec go (s : State) (seen : List (Nat × Nat)) : List (W64 × Nat) → State × List (Byte × Bool) × EngStop
    | [] => (s.berrRead 1 seen, [], none)
    | (va, n) :: r =>
      match s.engXl c which .read va with
      | (s1, .error e) => (s1.berrRead 1 seen, [], some (e, va))
      | (s1, .ok (x, sp)) =>
        let (s2, bs) := s1.engRead c x sp n
        let (s3, more, stop) := go s2 (if s.onRoot c then (x.pa, n) :: seen else seen) r
        (s3, bs ++ more, stop)
  go s [] vs

/-- The pieces of `n` bytes from `va` that lie within one line each. -/
def pieces128 (va : W64) (n : Nat) : List (W64 × Nat × Nat) :=
  let lo := va.toNat % 128
  (List.range (ceilDiv (lo + n) 128)).map (fun i =>
    let a := max lo (128 * i)
    let b := min (lo + n) (128 * i + 128)
    (va + w64 (a - lo), a - lo, b - a))

/-- Bytes written line by line, up to the first line that fails: what is written, and where it stopped. -/
def State.engWrites (s : State) (c : Ctx) (which : Nat) (bs : List (Byte × Bool)) : List (W64 × Nat × Nat) → State × Nat × EngStop
  | [] => (s, 0, none)
  | (va, at_, n) :: r =>
    match s.engXl c which .write va with
    | (s1, .error e) => (s1, 0, some (e, va))
    | (s1, .ok (x, sp)) =>
      let (s2, k, stop) := (s1.engWrite c x sp ((bs.drop at_).take n)).engWrites c which bs r
      (s2, n + k, stop)

/-! ### Boxes (R297, R298) -/

/-- The coordinate of dimension `d` for box row `r`, for d above 0. -/
def rowCoord (t : TensorRec) (cs : List Int) (r d : Nat) : Int :=
  let below := ((List.range (d - 1)).map (fun i => takeAt 1 t.box (i + 1))).foldl (· * ·) 1
  takeAt 0 cs d + ((r / below % takeAt 1 t.box d : Nat) : Int)

/-- Box row `r` lies in bounds in its outer dimensions. -/
def rowIn (t : TensorRec) (cs : List Int) (r : Nat) : Bool :=
  (List.range 4).all (fun i => 0 ≤ rowCoord t cs r (i + 1) && rowCoord t cs r (i + 1) < ((takeAt 1 t.ext (i + 1) : Nat) : Int))

/-- The address of element 0 of dimension 0 of box row `r`. -/
def rowBase (t : TensorRec) (cs : List Int) (r : Nat) : W64 :=
  t.base + BitVec.ofInt 64 (((List.range 4).map (fun i => rowCoord t cs r (i + 1) * ((takeAt 0 t.str i : Nat) : Int))).sum)

/-- The first element of a box row in bounds, and the first past them. -/
def rowSpan (t : TensorRec) (cs : List Int) (r : Nat) : Nat × Nat :=
  let c0 := takeAt 0 cs 0
  if rowIn t cs r then
    let lo := (clamp (-c0) 0 ((takeAt 1 t.box 0 : Nat) : Int)).toNat
    let hi := (clamp (((takeAt 1 t.ext 0 : Nat) : Int) - c0) 0 ((takeAt 1 t.box 0 : Nat) : Int)).toNat
    if lo < hi then (lo, hi) else (0, 0)
  else (0, 0)

/-- The fill pattern of one element (Table 15-6). -/
def oobFill (t : TensorRec) : Nat :=
  if t.oob = 0 then 0
  else match t.fmt with
    | 0 => 0x7F
    | 1 => 0x7E
    | 5 => 0x7FC0
    | _ => 0x7E00

/-- The bits of byte `j` of a row that belong to elements in [lo, hi). -/
def inMask (b lo hi j : Nat) : Byte :=
  BitVec.ofNat 8 ((List.range 8).foldl (fun m i => if lo * b ≤ 8 * j + i && 8 * j + i < hi * b then m + 2 ^ i else m) 0)

/-- Byte `j` of a row of fill. -/
def fillByte (t : TensorRec) (j : Nat) : Byte :=
  let b := recBits t.fmt
  BitVec.ofNat 8 ((List.range 8).foldl (fun m i => if (oobFill t).testBit ((8 * j + i) % b) then m + 2 ^ i else m) 0)

/-- The virtual address of byte `j` of box row `r`. -/
def rowByteVa (t : TensorRec) (cs : List Int) (r j : Nat) : W64 :=
  rowBase t cs r + BitVec.ofInt 64 (takeAt 0 cs 0 * (recBits t.fmt : Int) / 8 + (j : Int))

/-- Bytes placed in a row's storage under the swizzle, with the granules of poisoned ones marked (R270, R286,
R297). -/
def State.putRow (s : State) (b : Block) (swz : Bool) (r at_ : Nat) (bs : List (Byte × Bool)) : State :=
  (List.range (ceilDiv bs.length 16)).foldl (fun s q =>
    let mine := (bs.drop (16 * q)).take 16
    let off := at_ + swizzle swz r (16 * q)
    s.spFill b.unit (b.spBase + off) (mine.map (·.1)) (if mine.any (·.2) then [(b.spBase + off) / 16] else [])) s

/-- The scales of box row `r` (R297): the bytes, and where reading stopped. Chunk `q` takes the scale of the 32 elements that its first
element lies in, which is the model's choice where c_0 is not a multiple of 32 (assumption 123). -/
def State.rowScales (s : State) (c : Ctx) (t : TensorRec) (cs : List Int) (r : Nat) : State × List (Byte × Bool) × EngStop :=
  (List.range (takeAt 1 t.box 0 / 32)).foldl (fun (acc : State × List (Byte × Bool) × EngStop) (q : Nat) =>
    match acc with
    | (s, bs, some e) => (s, bs, some e)
    | (s, bs, none) =>
      let n : Int := (takeAt 0 cs 0 + 32 * (q : Int)) / 32
      if rowIn t cs r && 0 ≤ n && n < ((takeAt 1 t.ext 0 / 32 : Nat) : Int) then
        match s.engReads c 2 [(rowBase t cs r + w64 t.scaleAt + BitVec.ofInt 64 n, 1)] with
        | (s1, got, stop) => (s1, bs ++ got, stop)
      else (s, bs ++ [(0x7F, false)], none)) (s, [], none)

/-- Row `r` of a `walk`, as far as it can be read (R284, R297). -/
def State.walkRowStep (s : State) (c : Ctx) (t : TensorRec) (cs : List Int) (dst r : Nat) : State × EngStop :=
  match s.spTarget (s.blockOf c) dst t.boxBytes with
  | none => (s, none)
  | some (b, off) =>
    let w := recBits t.fmt
    let (lo, hi) := rowSpan t cs r
    let j0 := lo * w / 8
    let j1 := ceilDiv (hi * w) 8
    let (s1, got, stop) := if lo = hi then (s, [], none)
      else s.engReads c 2 (pieces16 (rowByteVa t cs r j0) (j1 - j0))
    let upTo := match stop with
      | none => t.rowBytes
      | some _ => (j0 + got.length) * 8 / w * w / 8
    let bytes := (List.range upTo).map (fun j =>
      let m := inMask w lo hi j
      let x := takeAt (0, false) got (j - j0)
      if j < j0 || j0 + got.length ≤ j then (fillByte t j, false)
      else ((x.1 &&& m) ||| (fillByte t j &&& ~~~m), x.2))
    let s2 := s1.putRow b t.swz r (off + r * t.rowBytes) bytes
    if stop.isSome || !t.mxl then (s2, stop)
    else
      let (s3, sc, stop2) := s2.rowScales c t cs r
      (s3.putRow b false 0 (off + t.rows * t.rowBytes + 16 * r) sc, stop2)

/-- A partly in-bounds byte of a `copyt` written: the bits outside `m` keep their values (R298). -/
def State.edgeByte (s : State) (c : Ctx) (m : Byte) (va : W64) (x : Byte × Bool) : State × EngStop :=
  match s.engReads c 2 [(va, 1)] with
  | (s1, old :: _, none) =>
    let (s2, _, stop) := s1.engWrites c 2 [((x.1 &&& m) ||| (old.1 &&& ~~~m), x.2)] [(va, 0, 1)]
    (s2, stop)
  | (s1, _, stop) => (s1, stop)

/-- Row `r` of a `copyt`, as far as it can be written, in the order of its bytes (R284, R298). -/
def State.copytRowStep (s : State) (c : Ctx) (t : TensorRec) (cs : List Int) (src r : Nat) : State × EngStop :=
  match s.spTarget (s.blockOf c) src t.boxBytes with
  | none => (s, none)
  | some (b, off) =>
    let w := recBits t.fmt
    let (lo, hi) := rowSpan t cs r
    if lo = hi then (s, none)
    else
      let j0 := lo * w / 8
      let j1 := ceilDiv (hi * w) 8
      let p := s.proc b.unit
      let at_ (j : Nat) : Nat := b.spBase + off + r * t.rowBytes + swizzle t.swz r j
      let src (j : Nat) : Byte × Bool := (Memory.read p.sp (at_ j), p.spBad (at_ j) 1)
      let whole (j : Nat) : Bool := inMask w lo hi j = 0xFF
      let k0 := if whole j0 then j0 else j0 + 1
      let k1 := if whole (j1 - 1) then j1 else j1 - 1
      let edge (x : State × EngStop) (j : Nat) : State × EngStop :=
        if x.2.isSome then x else x.1.edgeByte c (inMask w lo hi j) (rowByteVa t cs r j) (src j)
      let first := if k0 = j0 then (s, none) else edge (s, none) j0
      let mid : State × EngStop :=
        if first.2.isSome || k1 ≤ k0 then first
        else
          let (s1, _, stop) := first.1.engWrites c 2 ((List.range (k1 - k0)).map (fun i => src (k0 + i)))
            (pieces128 (rowByteVa t cs r k0) (k1 - k0))
          (s1, stop)
      if k1 = j1 || (k0 != j0 && j1 = j0 + 1) then mid else edge mid (j1 - 1)

/-! ### One batch of a command -/

/-- Units of a command in all: bytes, box rows, or destination lines (Table 15-3). -/
def EngKind.total : EngKind → Nat
  | .copy _ _ len => len
  | .walk r _ _ | .copyt r _ _ => r.rows
  | .send _ _ x64 sh _ _ => tileBytes sh * (if x64 then 2 else 1) / 128
  | .stMem _ _ ty sh _ _ => tileBytes sh / 4 * tyBytes ty

/-- Units of one step of a command: a 16-byte unit, a row, a line. -/
def EngKind.unit : EngKind → Nat
  | .copy _ _ _ | .stMem _ _ _ _ _ _ => 16
  | _ => 1

/-- Where a command stands after a batch. -/
structure Batch where
  s : State
  /-- units done by it -/
  did : Nat
  stop : EngStop

/-- Bytes of a copy from `done` on, `n` at most, up to the end of a destination line (R299). -/
def State.copyBatch (s : State) (c : Ctx) (dst src : W64) (done n : Nat) : Batch :=
  let va := dst + w64 done
  let m := min n (128 - va.toNat % 128)
  let (s1, got, stop) := s.engReads c 1 (pieces16 (src + w64 done) m)
  if got.isEmpty then ⟨s1, 0, stop⟩
  else match s1.engWrites c 1 got [(va, 0, got.length)] with
    | (s2, k, some e) => ⟨s2, k, some e⟩
    | (s2, k, none) => ⟨s2, k, stop⟩

/-- Bytes of an `acc.st` to memory from `done` on, up to the end of a destination line; elements in marked
granules are left (R286, R293). It answers the lowest marked granule too. -/
def State.stBatch (s : State) (c : Ctx) (b : Block) (acc : Nat) (va : W64) (ty : Ty) (rnd : Rnd) (sat : Bool) (done n : Nat) :
    Batch × Option Nat :=
  let w := tyBytes ty
  let p := s.proc b.unit
  let at_ := va + w64 done
  let m := min n (128 - at_.toNat % 128)
  match s.engXl c 1 .write at_ with
  | (s1, .error e) => (⟨s1, 0, some (e, at_)⟩, none)
  | (s1, .ok (x, sp)) =>
    let es := (List.range (m / w)).map (fun q => b.accBase + acc + 4 * (done / w + q))
    let bad := es.filter (fun o => p.accPoison.contains (o / 16))
    let bytes (o : Nat) : List (Byte × Bool) := (leBytes (accStored ty rnd sat (leNat (p.accRead o 4))) w).map (fun y => (y, false))
    let s2 :=
      if bad.isEmpty then s1.engWrite c x sp (es.flatMap bytes)
      else (es.zipIdx.filter (fun e => !bad.contains e.1)).foldl (fun s e =>
        s.engWrite c { x with pa := x.pa + w * e.2 } (match sp with
          | .spad u o => .spad u (o + w * e.2)
          | .accum u o => .accum u (o + w * e.2)
          | .control u o => .control u (o + w * e.2)
          | .config o => .config (o + w * e.2)
          | .partRegs o => .partRegs (o + w * e.2)
          | sp => sp) (bytes e.1)) s1
    (⟨s2, m, none⟩, leastOf (bad.map (fun o => (o - b.accBase) / 16)))

/-- The packet of destination line `q` of an `acc.send`, with the lowest marked granule it read (R286, R294,
R437). -/
def State.sendPacket (s : State) (c : Ctx) (b : Block) (k : EngCmd) (acc : Nat) (va : W64) (x64 : Bool) (e : Int)
    (rank q : Nat) : State × Option Packet × Option Nat × EngStop :=
  let p := s.proc b.unit
  let at_ := va + w64 (128 * q)
  match s.engXl c 1 .write at_ with
  | (s1, .error x) => (s1, none, none, some (x, at_))
  | (s1, .ok (x, _)) =>
    let n := if x64 then 16 else 32
    let offs := (List.range n).map (fun i => b.accBase + acc + 4 * (n * q + i))
    let bad := offs.filter (fun o => p.accPoison.contains (o / 16))
    let raw := offs.map (fun o => leNat (p.accRead o 4))
    let enc := raw.map (fun v => x64Encode v e)
    let data := if x64 then enc.map (fun v => leBytes (wrap 64 v.1) 8) else raw.map (fun v => leBytes v 4)
    (s1, some
      { pa := x.pa, va := at_, x64, rank, e := if x64 then e else 0, corrupt := !bad.isEmpty
        ovf := x64 && enc.any (·.2), data := lineOf (data.flatMap id)
        residues := if x64 then enc.map (fun v => residue v.1) else [], cmd := some k.id, rel := k.rel.isSome
        src := BitVec.ofNat 32 (s.host.ulid.toNat + b.unit * 2 ^ 16)
        level := s1.leafLevel (s1.xctx c) 1 at_, glob := leafGlobal x.leaf },
      leastOf (bad.map (fun o => (o - b.accBase) / 16)), none)

/-- The lower of two marked granules. -/
def lowerMark : Option Nat → Option Nat → Option Nat
  | some a, some b => some (min a b)
  | a, none => a
  | none, b => b

/-- One batch of a command, of at most `n` units: what it did, and where it stopped. A row that fails part-way
counts as not done. -/
def State.engBatch (s : State) (k : EngCmd) (n : Nat) : Batch :=
  let c := ownerCtx k.bid k.g
  let mark (b : Batch) (m : Option Nat) : Batch :=
    { b with s := b.s.onCmd k.id (fun x => { x with poison := lowerMark x.poison m }) }
  match k.kind with
  | .copy dst src _ => s.copyBatch c dst src k.done n
  | .walk t cs dst => let (s1, stop) := s.walkRowStep c t cs dst k.done; ⟨s1, if stop.isSome then 0 else 1, stop⟩
  | .copyt t cs src => let (s1, stop) := s.copytRowStep c t cs src k.done; ⟨s1, if stop.isSome then 0 else 1, stop⟩
  | .stMem acc va ty _ rnd sat =>
    let (b, m) := s.stBatch c (s.blockOf c) acc va ty rnd sat k.done n
    mark b m
  | .send acc va x64 _ e rank =>
    match s.sendPacket c (s.blockOf c) k acc va x64 e rank k.done with
    | (s1, none, _, stop) => ⟨s1, 0, stop⟩
    | (s1, some p, m, stop) =>
      let s2 : State := { s1 with packets := s1.packets ++ [p] }
      mark ⟨s2.onCmd k.id (fun x => { x with inflight := x.inflight + 1 }), 1, stop⟩ m

/-- The access of a command that failed at an address was a write (R409): a walk reads memory, and a copy reads each byte
before it writes it. -/
def EngKind.faultWrites (k : EngKind) (va : W64) : Bool :=
  match k with
  | .walk _ _ _ => false
  | .copy dst src len =>
    !((va - src).toNat < len && (len ≤ (va - dst).toNat || (va - src).toNat ≤ (va - dst).toNat))
  | _ => true

/-- A command may move: it is not held, and its place in the matrix queue has started (R265, R284). -/
def Proc.cmdReady (p : Proc) (k : EngCmd) : Bool :=
  !k.held && (match k.kind with
    | .send _ _ _ _ _ _ | .stMem _ _ _ _ _ _ => p.mx.any (fun m => m.started && (match m.kind with | .engine id _ => id = k.id | _ => false))
    | _ => true)

/-- Progress of a command, with the bytes it reports to its barrier (R303). -/
def State.engProgress (s : State) (k : EngCmd) (n : Nat) : State :=
  let k' := { k with done := k.done + n }
  let s1 := s.onCmd k.id (fun x => { x with done := x.done + n })
  match k.bar with
  | none => s1
  | some bar => if k'.reported = k.reported then s1 else s1.tbUpdate bar (TBar.report (k'.reported - k.reported))

/-- Batches of a command until `n` steps are done or one fails; the failing step leaves nothing (R284, R303). -/
def State.engSteps (u id : Nat) : Nat → Nat → State → State
  | 0, _, s => s
  | fuel + 1, n, s =>
    match (s.proc u).cmds.find? (fun x => x.id = id) with
    | none => s
    | some k =>
      let left := min (n * k.kind.unit) (k.kind.total - k.done)
      if left = 0 then s
      else
        let b := s.engBatch k left
        if b.did = 0 then s
        else
          let s1 := b.s.engProgress k b.did
          if b.stop.isSome then s1 else State.engSteps u id fuel (n - b.did / k.kind.unit) s1

/-- `ENGINE_REPORT`: command `k` of a unit performs its next `n` steps, as far as none fails, and reports their
bytes (R283, R303). -/
def execEngineReport (core k n : Nat) (s : State) : Host.Outcome State Fault Refusal :=
  match (s.proc core).cmds[k]? with
  | none => .next s
  | some c => .next (if (s.proc core).cmdReady c then State.engSteps core c.id n n s else s)

/-- The group of a command that read marked granules takes POISON, for the lowest of them (R286). -/
def State.cmdPoison (s : State) (c : EngCmd) : State :=
  match c.poison with
  | none => s
  | some gr => s.trapAsync c.bid c.g { cause := 0x0B, addr := w64 (16 * gr) }

/-- `ENGINE_COMMAND_COMPLETE`: command `k` has done all it has to do (R257, R283, R286, R486). -/
def execEngineCommandComplete (core k : Nat) (s : State) : Host.Outcome State Fault Refusal :=
  match (s.proc core).cmds[k]? with
  | none => .next s
  | some c =>
    if c.done < c.kind.total || 0 < c.inflight || !(s.proc core).cmdReady c then .next s
    else
      let s1 : State := match c.rel with
        | none => s
        | some sc => s.cleanFor (ownerCtx c.bid c.g) sc
      let s2 := s1.onProc core (fun p => Proc.dropEngineEntry { p with cmds := p.cmds.filter (fun x => x.id != c.id) } c.id)
      let s3 := s2.onGroupAny c.bid c.g (fun g => g.complete c.pend)
      .next (s3.cmdPoison c)

/-- `ENGINE_FAULT`: command `k` meets a failing element: a PFAULT holds it, any other cause drops it, and the
group takes the cause (R284). -/
def execEngineFault (core k : Nat) (s : State) : Host.Outcome State Fault Refusal :=
  match (s.proc core).cmds[k]? with
  | none => .next s
  | some c =>
    if !(s.proc core).cmdReady c || c.kind.total ≤ c.done then .next s
    else
      let b := s.engBatch c c.kind.unit
      match b.stop with
      | none => .next s
      | some (cause, va) =>
        if cause = 0x09 then
          let s1 := b.s.onCmd c.id (fun x => { x with held := true })
          .next ((s1.onGroupAny c.bid c.g (fun g => { g with mprog := 0 })).trapAsync c.bid c.g
            { cause := 0x09, addr := va, cmd := some c.id, engine := true, write := c.kind.faultWrites va })
        else
          .next (((b.s.dropCmd core c cause).trapAsync c.bid c.g (c.fault cause va)).cmdPoison (((b.s.proc core).cmds.find? (fun x => x.id = c.id)).getD c))

/-- `walkAhead`: the walker translates the pages of row `row` of its command `k` ahead of its reads; a failure raises nothing
(R189). -/
def State.walkAheadTurn (s : State) (u k row : Nat) : State :=
  match (s.proc u).cmds[k]? with
  | none => s
  | some x =>
    match x.kind with
    | .walk t cs _ =>
      let c := ownerCtx x.bid x.g
      let (lo, hi) := rowSpan t cs row
      let w := recBits t.fmt
      if x.held || t.rows ≤ row || row < x.done || lo = hi then s
      else [lo * w / 8, ceilDiv (hi * w) 8 - 1].foldl (fun s j => (s.engXl c 2 .read (rowByteVa t cs row j)).1) s
    | _ => s

end Sys2Proof.Machine
end

