-- ==== Sys2Proof/Machine/Integer.lean ====
section
/-! DEFINITION. Integer, bitwise and predicate instructions (R139, R140, R150 to R157). -/

namespace Sys2Proof.Machine

/-! ### Shapes -/

/-- One source of the type's width. -/
def State.unary (s : State) (h : Head) (ty : Ty) (d a : Operand) (f : W64 → W64) (dep : Deps := deps .all) :
    Host.Outcome State Fault Refusal :=
  let w := tyWide ty
  s.perLane h { rpt := true } [slotD d w, slotS .a a w d] w [(.a, w, none)] (fun x => f (x .a)) dep

/-- Two sources of the type's width. -/
def State.binary (s : State) (h : Head) (ty : Ty) (d a b : Operand) (f : W64 → W64 → W64) (dep : Deps := deps .all) :
    Host.Outcome State Fault Refusal :=
  let w := tyWide ty
  s.perLane h { rpt := true } [slotD d w, slotS .a a w d, slotS .b b w d] w [(.a, w, none), (.b, w, none)]
    (fun x => f (x .a) (x .b)) dep

/-- A source of the type's width and a 32-bit source (R139). -/
def State.shift (s : State) (h : Head) (ty : Ty) (d a b : Operand) (f : W64 → Nat → W64) (dep : Deps := deps .all) :
    Host.Outcome State Fault Refusal :=
  let w := tyWide ty
  s.perLane h { rpt := true } [slotD d w, slotS .a a w d, slotS .b b false d] w [(.a, w, none), (.b, false, none)]
    (fun x => f (x .a) (x .b).toNat) dep

/-- A source of the type's width and the immediate X. -/
def State.unaryImm (s : State) (h : Head) (ty : Ty) (d a : Operand) (x : BitVec 32) (f : W64 → W64 → W64) :
    Host.Outcome State Fault Refusal :=
  s.unary h ty d a (fun y => f y (if tyWide ty then x.signExtend 64 else x.setWidth 64)) (deps .halves)

/-- Three 32- or 64-bit sources, each as wide as stated. -/
def State.ternary (s : State) (h : Head) (wd wa wb wc : Bool) (d a b c : Operand) (f : W64 → W64 → W64 → W64)
    (dep : Deps := deps .all) : Host.Outcome State Fault Refusal :=
  s.perLane h { rpt := true } [slotD d wd, slotS .a a wa d, slotS .b b wb d, slotS .c c wc d] wd
    [(.a, wa, none), (.b, wb, none), (.c, wc, none)] (fun x => f (x .a) (x .b) (x .c)) dep

/-- The exact result `x` as D of R150. -/
def arith (ty : Ty) (sat : Bool) (x : Int) : W64 := w64 (intBits ty (fitInt ty sat x))

/-- What the halves of a sum or product depend on: the high one on every element, and the low one too under `.sat`. -/
def arithDep (sat : Bool) : Deps := deps (if sat then .all else .carry)

/-- A register value as an integer of a type. -/
def val (ty : Ty) (v : W64) : Int := intOf ty v.toNat

/-! ### Arithmetic (Table 9-2) -/

/-- `add` (R150). -/
def execAdd (h : Head) (ty : Ty) (d a b : Operand) (s : State) : Host.Outcome State Fault Refusal :=
  s.binary h ty d a b (fun x y => arith ty h.mods.sat (val ty x + val ty y)) (arithDep h.mods.sat)

/-- `sub` (R150). -/
def execSub (h : Head) (ty : Ty) (d a b : Operand) (s : State) : Host.Outcome State Fault Refusal :=
  s.binary h ty d a b (fun x y => arith ty h.mods.sat (val ty x - val ty y)) (arithDep h.mods.sat)

/-- `mul` (R150). -/
def execMul (h : Head) (ty : Ty) (d a b : Operand) (s : State) : Host.Outcome State Fault Refusal :=
  s.binary h ty d a b (fun x y => arith ty h.mods.sat (val ty x * val ty y)) (arithDep h.mods.sat)

/-- `mulhi` (R150). -/
def execMulhi (h : Head) (ty : Ty) (d a b : Operand) (s : State) : Host.Outcome State Fault Refusal :=
  s.binary h ty d a b (fun x y => w64 (wrap (2 * tyBits ty) (val ty x * val ty y) / 2 ^ tyBits ty))

/-- `mad` (R150). -/
def execMad (h : Head) (ty : Ty) (d a b c : Operand) (s : State) : Host.Outcome State Fault Refusal :=
  let w := tyWide ty
  s.ternary h w w w w d a b c (fun x y z => arith ty h.mods.sat (val ty x * val ty y + val ty z)) (arithDep h.mods.sat)

/-- `madw` (R150): D and C are 64 bits wide. -/
def execMadw (h : Head) (ty : Ty) (d a b c : Operand) (s : State) : Host.Outcome State Fault Refusal :=
  s.ternary h true false false true d a b c (fun x y z =>
    BitVec.ofInt 64 (val ty x * val ty y + (if ty = .i32 then z.toInt else (z.toNat : Int)))) (deps .carry)

/-- `neg` (R150). -/
def execNeg (h : Head) (ty : Ty) (d a : Operand) (s : State) : Host.Outcome State Fault Refusal :=
  s.unary h ty d a (fun x => arith ty h.mods.sat (-val ty x)) (arithDep h.mods.sat)

/-- `abs` (R150). -/
def execAbs (h : Head) (ty : Ty) (d a : Operand) (s : State) : Host.Outcome State Fault Refusal :=
  s.unary h ty d a (fun x => arith ty h.mods.sat (val ty x).natAbs)

/-- `min` (R150). -/
def execMin (h : Head) (ty : Ty) (d a b : Operand) (s : State) : Host.Outcome State Fault Refusal :=
  s.binary h ty d a b (fun x y => if val ty y < val ty x then y else x)

/-- `max` (R150). -/
def execMax (h : Head) (ty : Ty) (d a b : Operand) (s : State) : Host.Outcome State Fault Refusal :=
  s.binary h ty d a b (fun x y => if val ty x < val ty y then y else x)

/-! ### Bits and shifts (Table 9-3) -/

/-- `and` (R151). -/
def execAnd (h : Head) (ty : Ty) (d a b : Operand) (s : State) : Host.Outcome State Fault Refusal :=
  s.binary h ty d a b (· &&& ·) (deps .halves)

/-- `and` with an immediate (R151). -/
def execAndImm (h : Head) (ty : Ty) (d a : Operand) (x : BitVec 32) (s : State) : Host.Outcome State Fault Refusal :=
  s.unaryImm h ty d a x (· &&& ·)

/-- `or` (R151). -/
def execOr (h : Head) (ty : Ty) (d a b : Operand) (s : State) : Host.Outcome State Fault Refusal :=
  s.binary h ty d a b (· ||| ·) (deps .halves)

/-- `or` with an immediate (R151). -/
def execOrImm (h : Head) (ty : Ty) (d a : Operand) (x : BitVec 32) (s : State) : Host.Outcome State Fault Refusal :=
  s.unaryImm h ty d a x (· ||| ·)

/-- `xor` (R151). -/
def execXor (h : Head) (ty : Ty) (d a b : Operand) (s : State) : Host.Outcome State Fault Refusal :=
  s.binary h ty d a b (· ^^^ ·) (deps .halves)

/-- `xor` with an immediate (R151). -/
def execXorImm (h : Head) (ty : Ty) (d a : Operand) (x : BitVec 32) (s : State) : Host.Outcome State Fault Refusal :=
  s.unaryImm h ty d a x (· ^^^ ·)

/-- `not` (R151). -/
def execNot (h : Head) (ty : Ty) (d a : Operand) (s : State) : Host.Outcome State Fault Refusal :=
  s.unary h ty d a (fun x => ~~~x) (deps .halves)

/-- The dependence of a 64-bit shift by B whose result bit `i` is bit `f k i` of A (R404). -/
def shiftDep (f : Nat → Nat → Option Nat) : Deps := fun x p => if p = .a then .ofBits (f (x .b).toNat) else .all

/-- `shl` (R151). -/
def execShl (h : Head) (ty : Ty) (d a b : Operand) (s : State) : Host.Outcome State Fault Refusal :=
  s.shift h ty d a b (fun x k => if tyBits ty ≤ k then 0 else x <<< k)
    (shiftDep (fun k i => if k ≤ i then some (i - k) else none))

/-- `shr` (R151). -/
def execShr (h : Head) (ty : Ty) (d a b : Operand) (s : State) : Host.Outcome State Fault Refusal :=
  s.shift h ty d a b (fun x k => if tyBits ty ≤ k then 0 else x >>> k)
    (shiftDep (fun k i => if i + k < 64 then some (i + k) else none))

/-- `sar` (R151). -/
def execSar (h : Head) (ty : Ty) (d a b : Operand) (s : State) : Host.Outcome State Fault Refusal :=
  s.shift h ty d a b (fun x k => (sext64 (tyBits ty) x).sshiftRight (min k 63))
    (shiftDep (fun k i => some (min (i + k) 63)))

/-- `rol` (R151). -/
def execRol (h : Head) (ty : Ty) (d a b : Operand) (s : State) : Host.Outcome State Fault Refusal :=
  s.shift h ty d a b (fun x k =>
    let n := tyBits ty
    let k := k % n
    (x <<< k) ||| (x >>> (n - k))) (shiftDep (fun k i => some ((i + 64 - k % 64) % 64)))

/-- The bits of a value, from bit 0, `n` of them. -/
def bitsOf (n : Nat) (x : W64) : List Bool := (List.range n).map x.getLsbD

/-- `popc` (R151). -/
def execPopc (h : Head) (ty : Ty) (d a : Operand) (s : State) : Host.Outcome State Fault Refusal :=
  s.unary h ty d a (fun x => w64 ((bitsOf (tyBits ty) x).count true)) (deps .low)

/-- `clz` (R151). -/
def execClz (h : Head) (ty : Ty) (d a : Operand) (s : State) : Host.Outcome State Fault Refusal :=
  s.unary h ty d a (fun x => w64 ((bitsOf (tyBits ty) x).reverse.takeWhile (!·)).length) (deps .low)

/-- `brev` (R151). -/
def execBrev (h : Head) (ty : Ty) (d a : Operand) (s : State) : Host.Outcome State Fault Refusal :=
  s.unary h ty d a (fun x => w64 ((bitsOf (tyBits ty) x).foldl (fun m b => 2 * m + b.toNat) 0))
    (fun _ _ => .ofBits (fun i => some (63 - i)))

/-! ### Fields (R152) -/

/-- The width w of R152. -/
def fieldWidth (n pos len : Nat) : Nat := if len = 0 || n ≤ pos then 0 else min len (n - pos)

/-- `bfe` (R152). -/
def bfe (n : Nat) (sx : Bool) (x : W64) (pos len : Nat) : W64 :=
  let w := fieldWidth n pos len
  if w = 0 then 0
  else
    let f := zext64 w (x >>> pos)
    if sx then sext64 w f else f

/-- The bit of A that bit `i` of a 64-bit `bfe` is (R404). -/
def bfeFrom (sx : Bool) (pos len i : Nat) : Option Nat :=
  let w := fieldWidth 64 pos len
  if i < w then some (pos + i) else if sx && w != 0 then some (pos + w - 1) else none

/-- `bfe` (R152). -/
def execBfe (h : Head) (ty : Ty) (d a b c : Operand) (s : State) : Host.Outcome State Fault Refusal :=
  let w := tyWide ty
  s.ternary h w w false false d a b c (fun x y z => bfe (tyBits ty) h.mods.om x y.toNat z.toNat)
    (fun x p => if p = .a then .ofBits (bfeFrom h.mods.om (x .b).toNat (x .c).toNat) else .all)

/-- `bfi` (R152). -/
def bfi (n : Nat) (x y : W64) (pl : Nat) : W64 :=
  let pos := field pl 0 8
  let w := fieldWidth n pos (field pl 8 8)
  let m : W64 := w64 (2 ^ w - 1) <<< pos
  if w = 0 then x else (x &&& ~~~m) ||| ((y <<< pos) &&& m)

/-- The bit of A, or of B when `ins`, that bit `i` of a 64-bit `bfi` is (R404). -/
def bfiFrom (ins : Bool) (pl i : Nat) : Option Nat :=
  let pos := field pl 0 8
  let inside : Bool := pos ≤ i && i < pos + fieldWidth 64 pos (field pl 8 8)
  if inside != ins then none else some (if ins then i - pos else i)

/-- `bfi` (R152). -/
def execBfi (h : Head) (ty : Ty) (d a b c : Operand) (s : State) : Host.Outcome State Fault Refusal :=
  let w := tyWide ty
  s.ternary h w w w false d a b c (fun x y z => bfi (tyBits ty) x y z.toNat)
    (fun x p => if p = .c then .all else .ofBits (bfiFrom (p = .b) (x .c).toNat))

/-! ### Moves and addresses (R153, R154) -/

/-- `sel` (R153, R404): only the selected element passes its tag on. -/
def execSel (h : Head) (ty : Ty) (d a b c : Operand) (s : State) : Host.Outcome State Fault Refusal :=
  let w := tyWide ty
  s.issue h { rpt := true } [slotD d w, slotS .a a w d, slotS .b b w d, slotP .c c false] (fun s v =>
    let pick (l : Nat) : Pos := if (s.src v.c v.g (v.op .c) false none l).v != 0 then .a else .b
    .done (if w then s.dstPair v.c (v.op .d) (v.act.map (fun l => s.pairOf v [(pick l, true, none)] (deps .halves) (fun x => x (pick l)) l))
      else s.dst v.c (v.op .d) false (v.act.map (fun l => (l, s.src v.c v.g (v.op (pick l)) false none l)))))

/-- `mov` (R153). -/
def execMov (h : Head) (ty : Ty) (d a : Operand) (s : State) : Host.Outcome State Fault Refusal :=
  s.unary h ty d a (fun x => x) (deps .halves)

/-- `movi` (R153). -/
def execMovi (h : Head) (ty : Ty) (d : Operand) (x : BitVec 32) (s : State) : Host.Outcome State Fault Refusal :=
  let w := tyWide ty
  s.perLane h { rpt := true } [slotD d w] w [] (fun _ => if w then x.signExtend 64 else x.setWidth 64)

/-- `lea` (R154). -/
def execLea (h : Head) (ty : Ty) (d a b : Operand) (m : LeaMod) (s : State) : Host.Outcome State Fault Refusal :=
  let w := tyWide ty
  s.perLane h { rpt := true } [slotD d w, slotS .a a w d, slotS .b b false d] w [(.a, w, none), (.b, false, none)]
    (fun x => x .a + ((if m.sxb then sext64 32 (x .b) else zext64 32 (x .b)) <<< m.sh.toNat)) (deps .carry)

/-! ### Bytes (R123, R155) -/

/-- Byte `j` of a 32-bit element, signed or unsigned (R123). -/
def byteAt (signed : Bool) (x : W64) (j : Nat) : Int :=
  let b := field x.toNat (8 * j) 8
  if signed then signedOf 8 b else b

/-- `idot4` (R155). -/
def execIdot4 (h : Head) (ty : Ty) (d a b c : Operand) (s : State) : Host.Outcome State Fault Refusal :=
  let sg := tySigned ty
  s.ternary h false false false false d a b c (fun x y z =>
    arith ty h.mods.sat (((List.range 4).map (fun j => byteAt sg x j * byteAt sg y j)).sum + val ty z))

/-- `sad` (R155). -/
def execSad (h : Head) (ty : Ty) (d a b c : Operand) (s : State) : Host.Outcome State Fault Refusal :=
  s.ternary h false false false false d a b c (fun x y z =>
    w64 (wrap (tyBits ty) ((z.toNat : Int)
      + ((List.range 4).map (fun j => ((byteAt false x j - byteAt false y j).natAbs : Int))).sum)))

/-! ### Comparisons and predicates (R156, R157) -/

/-- A truth as a register value. -/
def truth (b : Bool) : W64 := if b then 1 else 0

/-- `cmp` (R156). -/
def execCmp (h : Head) (cc : Cmp) (ty : Ty) (d a b : Operand) (s : State) : Host.Outcome State Fault Refusal :=
  let w := tyWide ty
  s.perLane h { rpt := true } [slotP .d d true, slotS .a a w d, slotS .b b w d] false [(.a, w, none), (.b, w, none)]
    (fun x => truth (cmpHolds cc (tyBits ty) (x .a).toNat (x .b).toNat))

/-- `cmp` with an immediate (R156). -/
def execCmpImm (h : Head) (cc : Cmp) (ty : Ty) (d a : Operand) (x : BitVec 32) (s : State) :
    Host.Outcome State Fault Refusal :=
  let w := tyWide ty
  s.perLane h { rpt := true } [slotP .d d true, slotS .a a w d] false [(.a, w, none)]
    (fun y => truth (cmpHolds cc (tyBits ty) (y .a).toNat (x.signExtend 64).toNat))

/-- Two predicates into one (R157). -/
def State.predicate (s : State) (h : Head) (d a b : Operand) (f : Bool → Bool → Bool) : Host.Outcome State Fault Refusal :=
  s.perLane h {} [slotP .d d true, slotP .a a false, slotP .b b false] false [(.a, false, none), (.b, false, none)]
    (fun x => truth (f (x .a != 0) (x .b != 0)))

/-- `pand` (R157). -/
def execPand (h : Head) (d a b : Operand) (s : State) : Host.Outcome State Fault Refusal := s.predicate h d a b (· && ·)

/-- `por` (R157). -/
def execPor (h : Head) (d a b : Operand) (s : State) : Host.Outcome State Fault Refusal := s.predicate h d a b (· || ·)

/-- `pxor` (R157). -/
def execPxor (h : Head) (d a b : Operand) (s : State) : Host.Outcome State Fault Refusal := s.predicate h d a b (· != ·)

/-- `pnot` (R157). -/
def execPnot (h : Head) (d a : Operand) (s : State) : Host.Outcome State Fault Refusal :=
  s.perLane h {} [slotP .d d true, slotP .a a false] false [(.a, false, none)] (fun x => truth (x .a = 0))

end Sys2Proof.Machine
end

