-- ==== Sys2Proof/Machine/Special.lean ====
section
/-! DEFINITION. The special functions (R179 to R181). The device's own result is `Config.special`; it
is taken when it lies within the bound of Table 10-4 around the exact result, which is enclosed in
fixed point here, and the rounded enclosure is taken otherwise (assumption 10). -/

namespace Sys2Proof.Machine

/-- The functions of R179. -/
inductive SpFn where
  | rcp | rsq | exp2 | log2 | sinpi | cospi | tanh
  deriving DecidableEq, Repr

/-- The function's number in `Config.special`: its OPC. -/
def SpFn.code : SpFn → Nat
  | .rcp => 0x78
  | .rsq => 0x79
  | .exp2 => 0x7B
  | .log2 => 0x7C
  | .sinpi => 0x7D
  | .cospi => 0x7E
  | .tanh => 0x7F

/-! ### Fixed point with `fxP` fraction bits -/

/-- Fraction bits of the enclosures. -/
def fxP : Nat := 256

/-- The sum of 1 ÷ (k 2^k) for `n` terms from k, which tends to ln 2. -/
def fxLn2From : Nat → Nat → Nat
  | 0, _ => 0
  | n + 1, k => 2 ^ fxP / (k * 2 ^ k) + fxLn2From n (k + 1)

/-- ln 2. -/
def fxLn2 : Nat := fxLn2From 250 1

/-- The alternating sum of the arctangent of 1 ÷ x, `n` terms, with the power of x at hand. -/
def fxAtanFrom (x : Nat) : Nat → Nat → Nat → Int
  | 0, _, _ => 0
  | n + 1, k, p => (p / (2 * k + 1) : Nat) - fxAtanFrom x n (k + 1) (p / (x * x))

/-- π, by 16 atan(1/5) − 4 atan(1/239). -/
def fxPi : Nat :=
  (16 * fxAtanFrom 5 120 0 (2 ^ fxP / 5) - 4 * fxAtanFrom 239 40 0 (2 ^ fxP / 239)).toNat

/-- The sum of z^k ÷ k! from term `t` of index k, for `n` terms. -/
def fxExpFrom (z : Nat) : Nat → Nat → Nat → Nat
  | 0, _, _ => 0
  | n + 1, k, t => t + fxExpFrom z n (k + 1) (t * z / 2 ^ fxP / (k + 1))

/-- 2^f for a fraction f. -/
def fxExp2 (f : Nat) : Nat := fxExpFrom (f * fxLn2 / 2 ^ fxP) 80 0 (2 ^ fxP)

/-- The alternating series of the sine or cosine from term `t` whose next divisor is k (k + 1). -/
def fxTrigFrom (z2 : Nat) : Nat → Nat → Nat → Int
  | 0, _, _ => 0
  | n + 1, k, t => (t : Int) - fxTrigFrom z2 n (k + 2) (t * z2 / 2 ^ fxP / (k * (k + 1)))

/-- sin(π f) for f in [0, 1/2]. -/
def fxSin (f : Nat) : Nat :=
  let z := f * fxPi / 2 ^ fxP
  (fxTrigFrom (z * z / 2 ^ fxP) 50 2 z).toNat

/-- cos(π f) for f in [0, 1/2]. -/
def fxCos (f : Nat) : Nat :=
  let z := f * fxPi / 2 ^ fxP
  (fxTrigFrom (z * z / 2 ^ fxP) 50 1 (2 ^ fxP)).toNat

/-- The fraction bits of log2 of a fixed-point x in [1, 2), by squaring. -/
def fxLogBits : Nat → Nat → Nat → Nat
  | 0, _, acc => acc
  | n + 1, x, acc =>
    let y := x * x / 2 ^ fxP
    if 2 ^ (fxP + 1) ≤ y then fxLogBits n (y / 2) (2 * acc + 1) else fxLogBits n y (2 * acc)

/-! ### Exact results and bounds -/

/-- A bound around the exact result: ulps of the format, and an absolute power of two. -/
structure SpBound where
  ulps : Nat
  abs : Option Int := none
  /-- results lie in [−1, 1] -/
  unit : Bool := false
  /-- the 16-bit formats whose form of the function takes this result too, within 1 ulp of theirs (R179, R180) -/
  narrow : List Fmt := []
  deriving DecidableEq, Repr

/-- A result rounded into a 16-bit format lies within 1 ulp of ±m × 2^e there, unless it overflows. -/
def Fmt.narrowOk (f o : Fmt) (neg : Bool) (m : Nat) (e : Int) (cand : Nat) : Bool :=
  match o.decode (o.out {} (f.decode cand)).bits with
  | .fin n c g =>
    let (d, de) := exactSum [.fin n c g, .fin (!neg) m e]
    decide ((exactSum [.fin false d.natAbs de, .fin true 1 (o.quantum m e)]).1 ≤ 0)
  | _ => true

/-- The 16-bit formats that hold an `.f32` source exactly. -/
def narrowFmts (src : Nat) : List Fmt :=
  [fF16, fBf16].filter (fun o => match fF32.decode src with
    | .fin n m e => let r := o.outFin {} n m e; r.fl &&& (fNX ||| fOF) = 0
    | _ => false)

/-- A finite encoding within a bound around ±m × 2^e (Table 10-4). -/
def Fmt.within (f : Fmt) (b : SpBound) (neg : Bool) (m : Nat) (e : Int) (cand : Nat) : Bool :=
  match f.decode cand with
  | .fin n c g =>
    let q := f.quantum m e
    let (d, de) := exactSum [.fin n c g, .fin (!neg) m e]
    let byUlp : Bool := decide ((exactSum [.fin false d.natAbs de, .fin true b.ulps q]).1 ≤ 0)
    let byAbs : Bool := match b.abs with
      | none => false
      | some p => decide ((exactSum [.fin false d.natAbs de, .fin true 1 p]).1 ≤ 0)
    (byUlp || byAbs) && (c = 0 || n = neg) && (!b.unit || (exactSum [.fin false c g, .fin true 1 0]).1 ≤ 0)
      && b.narrow.all (fun o => f.narrowOk o neg m e cand)
  | _ => false

/-- An inexact result near ±m × 2^e: the device's own bits when within the bound, with NX, UF when it is
tiny in the destination format `o`, and the flush of MOD.FZO (R179, R180). -/
def Fmt.spInexact (f o : Fmt) (d : Deliver) (b : SpBound) (cand : Nat) (neg : Bool) (m : Nat) (e : Int) : FRes :=
  let near := f.outFin {} neg m e true
  if near.fl &&& fOF != 0 then near
  else
    let bits := if f.within b neg m e cand then cand else near.bits
    let fl := fNX ||| (if o.tiny m e then fUF else 0)
    if d.fzo && f.isSubnormal bits then ⟨f.signed neg 0, fl ||| fUF ||| fFZ⟩ else ⟨bits, fl⟩

/-- `rcp` of a finite nonzero value (R180, R181): `b` none where it is correctly rounded. -/
def spRcp (f : Fmt) (d : Deliver) (b : Option SpBound) (cand : Nat) (neg : Bool) (m : Nat) (e : Int) : FRes :=
  if 2 ^ Nat.log2 m = m then f.outFin { fzo := d.fzo } neg 1 (-(Nat.log2 m : Int) - e)
  else
    let (v, w, st) := quotient 1 m 0 e 128
    match b with
    | none => f.outFin { fzo := d.fzo } neg v w st
    | some b => f.spInexact f d b cand neg v w

/-- `rsq` of a finite positive value (R180, R181). -/
def spRsq (f : Fmt) (d : Deliver) (b : Option SpBound) (cand : Nat) (m : Nat) (e : Int) : FRes :=
  let t : Nat := 400 + (if e % 2 = 0 then 0 else 1)
  let r := isqrt (2 ^ t / m)
  let w : Int := -(((t : Int) + e) / 2)
  if r * r * m = 2 ^ t then f.outFin { fzo := d.fzo } false r w
  else match b with
    | none => f.outFin { fzo := d.fzo } false r w true
    | some b => f.spInexact f d b cand false r w

/-- m × 2^e as a fixed-point number. -/
def fxOf (m : Nat) (e : Int) : Nat :=
  let k := e + (fxP : Int)
  if 0 ≤ k then m * 2 ^ k.toNat else m / 2 ^ (-k).toNat

/-- `exp2` of a finite value in `.f32` (Tables 10-4 and 10-5). -/
def spExp2 (o : Fmt) (d : Deliver) (nr : List Fmt) (cand : Nat) (neg : Bool) (m : Nat) (e : Int) : FRes :=
  if m = 0 then ⟨0x3F800000, 0⟩
  else if !neg && (128 * 2 ^ fxP ≤ fxOf m e) then ⟨fF32.inf, fOF ||| fNX⟩
  else if neg && (150 * 2 ^ fxP ≤ fxOf m e) then ⟨0, fUF ||| fNX⟩
  else
    let x := fxOf m e
    let ip := x / 2 ^ fxP
    let fr := x % 2 ^ fxP
    if fr = 0 then
      fF32.outFin { fzo := d.fzo } false 1 (if neg then -(ip : Int) else ip)
    else
      let i : Int := if neg then -(ip : Int) - 1 else ip
      let g := if neg then 2 ^ fxP - fr else fr
      fF32.spInexact o d { ulps := 2, narrow := nr } cand false (fxExp2 g) (i - (fxP : Int))

/-- `log2` of a finite positive value in `.f32` (Tables 10-4 and 10-5). -/
def spLog2 (o : Fmt) (d : Deliver) (nr : List Fmt) (cand : Nat) (m : Nat) (e : Int) : FRes :=
  let k := Nat.log2 m
  let i : Int := (k : Int) + e
  if 2 ^ k = m then fF32.outFin { fzo := d.fzo } (i < 0) i.natAbs 0
  else
    let x := m * 2 ^ (fxP - k)
    let fr := fxLogBits 200 x 0
    let v : Int := i * ((2 ^ 200 : Nat) : Int) + fr
    let mid := i = 0 || i = -1
    fF32.spInexact o d { ulps := if mid then 0 else 2, abs := if mid then some (-22) else none, narrow := nr } cand (v < 0) v.natAbs (-200)

/-- `sinpi` and `cospi` of a finite nonzero value in `.f32` (R180, R181). The argument is reduced
exactly modulo 2. -/
def spTrig (o : Fmt) (cos : Bool) (d : Deliver) (nr : List Fmt) (cand : Nat) (neg : Bool) (m : Nat) (e : Int) : FRes :=
  let two := 2 ^ (fxP + 1)
  let x := fxOf m e % two
  let ip := x / 2 ^ fxP
  let fr := x % 2 ^ fxP
  let half := 2 ^ (fxP - 1)
  let one := 0x3F800000
  let b : SpBound := { ulps := 2, abs := some (-24), unit := true, narrow := nr }
  if fr = 0 then
    if cos then ⟨fF32.signed (ip % 2 = 1) one, 0⟩ else ⟨fF32.signed neg 0, 0⟩
  else if fr = half then
    if cos then ⟨0, 0⟩ else ⟨fF32.signed (neg != (ip % 2 = 1)) one, 0⟩
  else
    let g := if half < fr then 2 ^ fxP - fr else fr
    let flip : Bool := if cos then (ip % 2 = 1) != (half < fr : Bool) else neg != (ip % 2 = 1 : Bool)
    fF32.spInexact o d b cand flip (if cos then fxCos g else fxSin g) (-(fxP : Int))

/-- `tanh` of a finite nonzero value in `.f32` (Tables 10-4 and 10-5); a small x is delivered as itself, and y lies just
below it. -/
def spTanh (o : Fmt) (d : Deliver) (nr : List Fmt) (src cand : Nat) (neg : Bool) (m : Nat) (e : Int) : FRes :=
  let x := fxOf m e
  let one := 0x3F800000
  if 10 * 2 ^ fxP ≤ x then ⟨fF32.signed neg one, fNX⟩
  else if x < 2 ^ (fxP - 12) then
    let tinyFl := if o.tiny (2 * m - 1) (e - 1) then fUF else 0
    if d.fzo && fF32.isSubnormal src then ⟨fF32.signed neg 0, fNX ||| fUF ||| fFZ⟩ else ⟨src, fNX ||| tinyFl⟩
  else
    let y := 2 * x * 2 ^ fxP / fxLn2
    let t := fxExp2 (y % 2 ^ fxP) * 2 ^ (y / 2 ^ fxP)
    let v := (t - 2 ^ fxP) * 2 ^ fxP / (t + 2 ^ fxP)
    fF32.spInexact o d { ulps := 2, unit := true, narrow := nr } cand neg v (-(fxP : Int))

/-- The bits whose evaluation the device takes: `sinpi` and `cospi` reduce x to x − 2n, n nearest x ÷ 2, with no error (R180). -/
def spReduced (fn : SpFn) (src : Nat) : Nat :=
  if fn != .sinpi && fn != .cospi then src
  else match fF32.decode src with
    | .fin neg m e =>
      if 1 ≤ e then src
      else
        let two := 2 ^ (1 - e).toNat
        let r := m % two
        if two < 2 * r then (fF32.outFin {} (!neg) (two - r) e).bits else (fF32.outFin {} neg r e).bits
    | _ => src

/-- The `.f32` and `.f64` forms, and `rcp` and `rsq` of every type, on flushed source bits; `o` is the instruction's own
format, in which tininess is judged. -/
def spForm (o : Fmt) (fn : SpFn) (ty : Ty) (d : Deliver) (src : Nat) : FRes :=
  let f := fmtOf ty
  let cand := (Config.special fn.code (if ty = .f64 then 1 else 0) (BitVec.ofNat 64 (spReduced fn src))).toNat % 2 ^ f.width
  let b : Option SpBound := if ty = .f32 || ty = .f64 then some { ulps := 1 } else none
  let nr := narrowFmts (spReduced fn src)
  match fn, f.decode src with
  | _, .poison => f.poisonRes
  | _, .nan sig => f.nanRes (if sig then fNV else 0)
  | .rcp, .inf neg => ⟨f.signed neg 0, 0⟩
  | .rcp, .fin neg m e => if m = 0 then ⟨f.signed neg f.inf, fDZ⟩ else spRcp f d b cand neg m e
  | .rsq, .inf neg => if neg then f.nanRes fNV else ⟨0, 0⟩
  | .rsq, .fin neg m e =>
    if m = 0 then ⟨f.signed neg f.inf, fDZ⟩ else if neg then f.nanRes fNV else spRsq f d b cand m e
  | .exp2, .inf neg => ⟨if neg then 0 else f.inf, 0⟩
  | .exp2, .fin neg m e => spExp2 o d nr cand neg m e
  | .log2, .inf neg => if neg then f.nanRes fNV else ⟨f.inf, 0⟩
  | .log2, .fin neg m e =>
    if m = 0 then ⟨f.signed true f.inf, fDZ⟩ else if neg then f.nanRes fNV else spLog2 o d nr cand m e
  | .sinpi, .inf _ => f.nanRes fNV
  | .sinpi, .fin neg m e => if m = 0 then ⟨f.signed neg 0, 0⟩ else spTrig o false d nr cand neg m e
  | .cospi, .inf _ => f.nanRes fNV
  | .cospi, .fin neg m e => if m = 0 then ⟨0x3F800000, 0⟩ else spTrig o true d nr cand neg m e
  | .tanh, .inf neg => ⟨f.signed neg 0x3F800000, 0⟩
  | .tanh, .fin neg m e => if m = 0 then ⟨f.signed neg 0, 0⟩ else spTanh o d nr src cand neg m e

/-- A special function of source bits (R179): the 16-bit forms of the five functions other than `rcp` and `rsq` go through `.f32` in
three steps. That the rounding of the third sets OF and NX where it overflows is the model's choice (assumption 121). -/
def spEval (fn : SpFn) (ty : Ty) (d : Deliver) (a : Nat) : FRes :=
  let f := fmtOf ty
  let x := f.input d.fzi a
  let src := f.flushBits d.fzi a
  if (ty = .f16 || ty = .bf16) && fn != .rcp && fn != .rsq then
    if x.1 = .poison then f.poisonRes
    else
      let w := (f.decode src)
      let up := (fF32.out {} w).bits
      let r := spForm f fn .f32 {} up
      let o := f.out { fzo := d.fzo } (fF32.decode r.bits)
      let sig := sigFlags [w]
      -- UF is judged by the exact value, which step 2 has seen where it was inexact
      let ofl := if r.fl &&& fNX != 0 && o.fl &&& fFZ = 0 then o.fl &&& (63 - fUF) else o.fl
      ⟨o.bits, (r.fl ||| ofl ||| sig) ||| x.2⟩
  else
    let r := spForm f fn ty d src
    ⟨r.bits, r.fl ||| (if x.1 = .poison then 0 else x.2)⟩

end Sys2Proof.Machine
end

