-- ==== Sys2Proof/Machine/Float.lean ====
section
/-! DEFINITION. Floating-point and special-function instructions (R128, R129, R163 to R181). -/

namespace Sys2Proof.Machine

/-! ### Shapes -/

/-- What MOD asks of a delivery (R163). -/
def Deliver.ofMods (m : Mods) : Deliver := { rnd := m.rnd, sat := m.sat, fzi := m.fzi, fzo := m.fzo }

/-- A lane's results, one for each register of its destination, and its exceptions. -/
structure FLane where
  lane : Nat
  outs : List Scal
  fl : Nat
  deriving DecidableEq, Repr

/-- A lane's results from its sources: a tagged one raises nothing (R404). -/
def fLane (l : Nat) (srcs : List Scal) (rs : List FRes) : FLane :=
  match firstTag srcs with
  | some t => ⟨l, rs.map (fun _ => ⟨t.v, true⟩), 0⟩
  | none => ⟨l, rs.map (fun r => ⟨w64 r.bits, false⟩), rs.foldl (fun m r => m ||| r.fl) 0⟩

/-- A tagged 32-bit source of a 64-bit result, whose two elements both take its value bits (R404). -/
def Scal.spread (wd ws : Bool) (x : Scal) : Scal :=
  if x.tag && wd && !ws then ⟨wide64 (x.v.setWidth 32) (x.v.setWidth 32), true⟩ else x

/-- Results delivered in `s`, and their exceptions ORed into FLAGS or raised (R132, R133, R164). FPX is raised in `s0`, the state
before the instruction: one that traps has no effect, and so leaves its draws untaken (R12, assumption 94). -/
def View.floatDone (v : View) (s0 s : State) (wide : Bool) (regs : Nat) (res : List FLane) : Effect :=
  let raised := res.map (fun r => (r.lane, r.fl))
  match fpxOf v.g.flags raised with
  | some t => .trap s0 t
  | none =>
    let s1 := (List.range regs).foldl (fun s j =>
      s.dst v.c (runOperand (v.op .d) j) wide (res.map (fun r => (r.lane, r.outs.getD j ⟨0, false⟩)))) s
    .done (s1.onGroup v.c (fun g => g.accrue raised))

/-- The destination of a floating-point instruction (R163). -/
def slotFD (d : Operand) (wide : Bool) : Slot := { slotD d wide with okP := false, okSp := false }

/-- A source of a floating type; the narrow formats take no immediate (R99). -/
def slotFS (pos : Pos) (op : Operand) (ty : Ty) : Slot :=
  { pos, op, wide := tyWide ty, okK := !Ty.nf.contains ty }

/-- The feature bits of the types an instruction names. -/
def fpRow (ts : List Ty) : RowInfo := { rpt := true, feat := ts.foldl (fun m t => m ||| tyFeat t) 0 }

/-- The bits of a source of a floating type (R163). -/
def fbits (ty : Ty) (x : W64) : Nat := x.toNat % 2 ^ (fmtOf ty).width

/-- A lane's element of a source of a floating type. -/
def State.fsrc (s : State) (v : View) (p : Pos) (ty : Ty) (l : Nat) : Scal :=
  s.src v.c v.g (v.op p) (tyWide ty) (some (fmtOf ty)) l

/-- One source of type `tf`, one result of type `td`. -/
def State.float1 (s : State) (h : Head) (td tf : Ty) (d a : Operand) (f : Nat → FRes) : Host.Outcome State Fault Refusal :=
  s.issue h (fpRow [td, tf]) [slotFD d (tyWide td), slotFS .a a tf] (fun s v =>
    v.floatDone s s (tyWide td) 1 (v.act.map (fun l =>
      let x := s.fsrc v .a tf l
      fLane l [x.spread (tyWide td) (tyWide tf)] [f (fbits tf x.v)])))

/-- Two sources and a result of one type. -/
def State.float2 (s : State) (h : Head) (ty : Ty) (d a b : Operand) (f : Nat → Nat → FRes) :
    Host.Outcome State Fault Refusal :=
  s.issue h (fpRow [ty]) [slotFD d (tyWide ty), slotFS .a a ty, slotFS .b b ty] (fun s v =>
    v.floatDone s s (tyWide ty) 1 (v.act.map (fun l =>
      let x := s.fsrc v .a ty l
      let y := s.fsrc v .b ty l
      fLane l [x, y] [f (fbits ty x.v) (fbits ty y.v)])))

/-! ### Arithmetic (R165 to R170) -/

/-- `fadd` (R165). -/
def execFadd (h : Head) (ty : Ty) (d a b : Operand) (s : State) : Host.Outcome State Fault Refusal :=
  s.float2 h ty d a b (fAdd (fmtOf ty) (Deliver.ofMods h.mods))

/-- `fsub` (R165). -/
def execFsub (h : Head) (ty : Ty) (d a b : Operand) (s : State) : Host.Outcome State Fault Refusal :=
  s.float2 h ty d a b (fSub (fmtOf ty) (Deliver.ofMods h.mods))

/-- `fmul` (R165). -/
def execFmul (h : Head) (ty : Ty) (d a b : Operand) (s : State) : Host.Outcome State Fault Refusal :=
  s.float2 h ty d a b (fMul (fmtOf ty) (Deliver.ofMods h.mods))

/-- `fma` (R165). -/
def execFma (h : Head) (ty : Ty) (d a b c : Operand) (s : State) : Host.Outcome State Fault Refusal :=
  s.issue h (fpRow [ty]) [slotFD d (tyWide ty), slotFS .a a ty, slotFS .b b ty, slotFS .c c ty] (fun s v =>
    v.floatDone s s (tyWide ty) 1 (v.act.map (fun l =>
      let x := s.fsrc v .a ty l
      let y := s.fsrc v .b ty l
      let z := s.fsrc v .c ty l
      fLane l [x, y, z] [fMa (fmtOf ty) (Deliver.ofMods h.mods) (fbits ty x.v) (fbits ty y.v) (fbits ty z.v)])))

/-- `fdiv` (R165). -/
def execFdiv (h : Head) (ty : Ty) (d a b : Operand) (s : State) : Host.Outcome State Fault Refusal :=
  s.float2 h ty d a b (fDiv (fmtOf ty) (Deliver.ofMods h.mods))

/-- `sqrt` (R165). -/
def execSqrt (h : Head) (ty : Ty) (d a : Operand) (s : State) : Host.Outcome State Fault Refusal :=
  s.float1 h ty ty d a (fSqrt (fmtOf ty) (Deliver.ofMods h.mods))

/-- `fmin` (R167). -/
def execFmin (h : Head) (ty : Ty) (d a b : Operand) (s : State) : Host.Outcome State Fault Refusal :=
  s.float2 h ty d a b (fMinMax (fmtOf ty) false (Deliver.ofMods h.mods))

/-- `fmax` (R167). -/
def execFmax (h : Head) (ty : Ty) (d a b : Operand) (s : State) : Host.Outcome State Fault Refusal :=
  s.float2 h ty d a b (fMinMax (fmtOf ty) true (Deliver.ofMods h.mods))

/-- `fclass` (R169): the result is a 32-bit mask. -/
def execFclass (h : Head) (ty : Ty) (d a : Operand) (s : State) : Host.Outcome State Fault Refusal :=
  s.issue h (fpRow [ty]) [slotFD d false, slotFS .a a ty] (fun s v =>
    v.floatDone s s false 1 (v.act.map (fun l =>
      let x := s.fsrc v .a ty l
      fLane l [x] [⟨fClass (fmtOf ty) (fbits ty x.v), 0⟩])))

/-- `frint` (R170). -/
def execFrint (h : Head) (ty : Ty) (d a : Operand) (s : State) : Host.Outcome State Fault Refusal :=
  s.float1 h ty ty d a (fRint (fmtOf ty) (Deliver.ofMods h.mods))

/-- `fcmp` (R168). -/
def execFcmp (h : Head) (cc : Cmp) (ty : Ty) (d a b : Operand) (s : State) : Host.Outcome State Fault Refusal :=
  let src (p : Pos) (op : Operand) : Slot := { slotFS p op ty with consumed := true }
  s.issue h (fpRow [ty]) [slotP .d d true, src .a a, src .b b] (fun s v =>
    v.floatDone s s false 1 (v.act.map (fun l =>
      let x := s.fsrc v .a ty l
      let y := s.fsrc v .b ty l
      let r := fCmp (fmtOf ty) cc h.mods.fzi (fbits ty x.v) (fbits ty y.v)
      fLane l [x, y] [⟨r.1.toNat, r.2⟩])))

/-! ### Conversions (R171 to R174) -/

/-- `fcvt` from `.f32` (R171). -/
def execFcvt (h : Head) (ty : Ty) (d a : Operand) (s : State) : Host.Outcome State Fault Refusal :=
  s.float1 h ty .f32 d a (fConvert (fmtOf ty) fF32 (Deliver.ofMods h.mods))

/-- One step of the generator G (R129). -/
def genStep (g : W64) : W64 :=
  let a := g ^^^ (g <<< 13)
  let b := a ^^^ (a >>> 7)
  b ^^^ (b <<< 17)

/-- The next draw of a core (R129). -/
def Proc.draw (p : Proc) : Nat × Proc :=
  match p.draws with
  | q :: r => (q.toNat, { p with draws := r })
  | [] =>
    let g := genStep p.gen
    (field g.toNat 0 16, { p with gen := g, draws := [g.extractLsb' 16 16, g.extractLsb' 32 16, g.extractLsb' 48 16] })

/-- `n` draws of a core, in order. -/
def Proc.drawN (p : Proc) : Nat → List Nat × Proc
  | 0 => ([], p)
  | n + 1 =>
    let (q, p1) := p.draw
    let (qs, p2) := p1.drawN n
    (q :: qs, p2)

/-- `fcvt.sr` (R171): one draw for each active lane, in ascending order. -/
def execFcvtSr (h : Head) (ty : Ty) (d a : Operand) (s : State) : Host.Outcome State Fault Refusal :=
  s.issue h (fpRow [ty]) [slotFD d false, slotFS .a a .f32] (fun s v =>
    let u := s.ctxUnit v.c
    let (qs, p) := (s.proc u).drawN v.act.length
    v.floatDone s (s.setProc u p) false 1 ((v.act.zip qs).map (fun lq =>
      let x := s.fsrc v .a .f32 lq.1
      fLane lq.1 [x] [fConvertSr (fmtOf ty) (Deliver.ofMods h.mods) lq.2 (fbits .f32 x.v)])))

/-- `fcvt` to `.f32` (R172). -/
def execFcvtToF32 (h : Head) (ty : Ty) (d a : Operand) (s : State) : Host.Outcome State Fault Refusal :=
  s.float1 h .f32 ty d a (fWiden (fmtOf ty) (Deliver.ofMods h.mods))

/-- `icvt` (R173). -/
def execIcvt (h : Head) (ft it : Ty) (d a : Operand) (s : State) : Host.Outcome State Fault Refusal :=
  s.issue h (fpRow [ft]) [slotFD d (tyWide ft), { pos := .a, op := a, wide := tyWide it }] (fun s v =>
    v.floatDone s s (tyWide ft) 1 (v.act.map (fun l =>
      let x := s.src v.c v.g (v.op .a) (tyWide it) none l
      fLane l [x.spread (tyWide ft) (tyWide it)] [fFromInt (fmtOf ft) h.mods.rnd (intOf it x.v.toNat)])))

/-- `fcvti` (R174). -/
def execFcvti (h : Head) (ft it : Ty) (d a : Operand) (s : State) : Host.Outcome State Fault Refusal :=
  s.issue h (fpRow [ft]) [slotFD d (tyWide it), slotFS .a a ft] (fun s v =>
    v.floatDone s s (tyWide it) 1 (v.act.map (fun l =>
      let x := s.fsrc v .a ft l
      fLane l [x.spread (tyWide it) (tyWide ft)] [fToInt (fmtOf ft) it (Deliver.ofMods h.mods) (fbits ft x.v)])))

/-! ### Packed narrow values (R123, R175 to R178) -/

/-- The two values of an operand of `fdot2`: an immediate is both (R175). -/
def twoValues (op : Operand) (x : W64) : Nat × Nat :=
  match op with
  | .k _ => (field x.toNat 0 16, field x.toNat 0 16)
  | _ => (field x.toNat 0 16, field x.toNat 16 16)

/-- `fdot2` (R175). -/
def execFdot2 (h : Head) (ty : Ty) (d a b c : Operand) (s : State) : Host.Outcome State Fault Refusal :=
  let f := fmtOf ty
  let dl := Deliver.ofMods h.mods
  s.issue h (fpRow [ty]) [slotFD d false, slotFS .a a ty, slotFS .b b ty, slotFS .c c .f32] (fun s v =>
    v.floatDone s s false 1 (v.act.map (fun l =>
      let x := s.fsrc v .a ty l
      let y := s.fsrc v .b ty l
      let z := s.fsrc v .c .f32 l
      let p (op : Operand) (w : W64) : Nat := (twoValues op w).1 + 2 ^ 16 * (twoValues op w).2
      fLane l [x, y, z] [fDot2 f dl (p a x.v) (p b y.v) (fbits .f32 z.v)])))

/-- The bits of a packed value: 16, 8, 6 or 4 (R123). -/
def packBits (ty : Ty) : Nat := (fmtOf ty).width

/-- The registers each source of `pack` names. -/
def packRun (ty : Ty) : Nat := if ty = .e2m1 then 4 else if Ty.nf.contains ty then 2 else 1

/-- The sources of `pack` in value order: register `j` of A's run, then of B's (R176). -/
def State.packSources (s : State) (v : View) (ty : Ty) (l : Nat) : List Scal :=
  let one (p : Pos) (j : Nat) : Scal := s.src v.c v.g (runOperand (v.op p) j) false (some fF32) l
  (List.range (packRun ty)).map (one .a) ++ (List.range (packRun ty)).map (one .b)

/-- Values packed into one element (R123). -/
def packed (ty : Ty) (rs : List FRes) : FRes :=
  ⟨(rs.zipIdx.map (fun r => r.1.bits % 2 ^ packBits ty * 2 ^ (packBits ty * r.2))).sum, rs.foldl (fun m r => m ||| r.fl) 0⟩

/-- The operands of `pack`. -/
def packSlots (ty : Ty) (d a b : Operand) : List Slot :=
  let src (p : Pos) (op : Operand) : Slot :=
    if Ty.nf.contains ty then
      { pos := p, op, run := packRun ty, okS := false, okP := false, okSp := false, okK := false }
    else { pos := p, op }
  [slotFD d false, src .a a, src .b b]

/-- `pack` (R176). -/
def execPack (h : Head) (ty : Ty) (d a b : Operand) (s : State) : Host.Outcome State Fault Refusal :=
  s.issue h (fpRow [ty]) (packSlots ty d a b) (fun s v =>
    v.floatDone s s false 1 (v.act.map (fun l =>
      let xs := s.packSources v ty l
      fLane l xs [packed ty (xs.map (fun x => fConvert (fmtOf ty) fF32 (Deliver.ofMods h.mods) (fbits .f32 x.v)))])))

/-- `pack.sr` (R176): a lane's draws in ascending value position. -/
def execPackSr (h : Head) (ty : Ty) (d a b : Operand) (s : State) : Host.Outcome State Fault Refusal :=
  let n := 2 * packRun ty
  s.issue h (fpRow [ty]) (packSlots ty d a b) (fun s v =>
    let u := s.ctxUnit v.c
    let (qs, p) := (s.proc u).drawN (n * v.act.length)
    v.floatDone s (s.setProc u p) false 1 (v.act.zipIdx.map (fun li =>
      let xs := s.packSources v ty li.1
      fLane li.1 xs [packed ty ((xs.zip (qs.drop (n * li.2))).map (fun xq =>
        fConvertSr (fmtOf ty) (Deliver.ofMods h.mods) xq.2 (fbits .f32 xq.1.v)))])))

/-- The values an element of a type holds, which is the destination run of `unpack` (R123, R177). -/
def unpackRun (ty : Ty) : Nat := if packBits ty = 16 then 2 else if packBits ty = 4 then 8 else 4

/-- `unpack` (R177); value 1 of a short immediate is +0 (assumption 113). -/
def execUnpack (h : Head) (ty : Ty) (d a b : Operand) (s : State) : Host.Outcome State Fault Refusal :=
  let n := unpackRun ty
  let mx := Ty.nf.contains ty
  let bs : Slot :=
    if mx then { pos := .b, op := b }
    else { pos := .b, op := b, okV := false, okS := false, okP := false, okSp := false, okK := b = .k 0 }
  s.issue h (fpRow [ty]) [{ slotFD d false with run := n, okS := false, okK := false }, slotFS .a a ty, bs] (fun s v =>
    v.floatDone s s false n (v.act.map (fun l =>
      let x := s.fsrc v .a ty l
      let y := s.src v.c v.g (v.op .b) false none l
      fLane l [x, y] ((List.range n).map (fun j =>
        let e := field x.v.toNat (packBits ty * j) (packBits ty)
        if mx then fUnpackMx (fmtOf ty) (Deliver.ofMods h.mods) (field y.v.toNat 0 8) e
        else fWiden (fmtOf ty) (Deliver.ofMods h.mods) e)))))

/-- `mxscale` (R178). -/
def execMxscale (h : Head) (ty : Ty) (d a b : Operand) (s : State) : Host.Outcome State Fault Refusal :=
  s.issue h (fpRow [ty]) [slotFD d false, slotFS .a a .f32, { pos := .b, op := b }] (fun s v =>
    v.floatDone s s false 1 (v.act.map (fun l =>
      let x := s.fsrc v .a .f32 l
      let y := s.src v.c v.g (v.op .b) false none l
      fLane l [x, y] [⟨fMxScale ty (fbits .f32 x.v) (signedOf 32 y.v.toNat), 0⟩])))

/-! ### Special functions (R179 to R181) -/

/-- A special function. -/
def State.special (s : State) (h : Head) (fn : SpFn) (ty : Ty) (d a : Operand) : Host.Outcome State Fault Refusal :=
  s.float1 h ty ty d a (spEval fn ty (Deliver.ofMods h.mods))

/-- `rcp` (R179). -/
def execRcp (h : Head) (ty : Ty) (d a : Operand) (s : State) : Host.Outcome State Fault Refusal := s.special h .rcp ty d a

/-- `rsq` (R179). -/
def execRsq (h : Head) (ty : Ty) (d a : Operand) (s : State) : Host.Outcome State Fault Refusal := s.special h .rsq ty d a

/-- `exp2` (R179). -/
def execExp2 (h : Head) (ty : Ty) (d a : Operand) (s : State) : Host.Outcome State Fault Refusal := s.special h .exp2 ty d a

/-- `log2` (R179). -/
def execLog2 (h : Head) (ty : Ty) (d a : Operand) (s : State) : Host.Outcome State Fault Refusal := s.special h .log2 ty d a

/-- `sinpi` (R179). -/
def execSinpi (h : Head) (ty : Ty) (d a : Operand) (s : State) : Host.Outcome State Fault Refusal := s.special h .sinpi ty d a

/-- `cospi` (R179). -/
def execCospi (h : Head) (ty : Ty) (d a : Operand) (s : State) : Host.Outcome State Fault Refusal := s.special h .cospi ty d a

/-- `tanh` (R179). -/
def execTanh (h : Head) (ty : Ty) (d a : Operand) (s : State) : Host.Outcome State Fault Refusal := s.special h .tanh ty d a

end Sys2Proof.Machine
end

