-- ==== Sys2Proof/Machine/Queues.lean ====
section
/-! DEFINITION. Named queues and stage queues (R338 to R345). -/

namespace Sys2Proof.Machine

/-! ### Which queue an instruction names -/

/-- The queue number that an operand of the chosen context gives. -/
def State.queueNo (s : State) (a : Operand) : Nat :=
  match s.sel with
  | none => 0
  | some c =>
    let g := (s.group? c).getD {}
    (s.src c g a false none (g.run.headD 0)).v.toNat

/-- The block of the chosen context. -/
def State.selBlock (s : State) : Block :=
  match s.sel with
  | none => { bid := 0, lid := 0, unit := 0 }
  | some c => s.blockOf c

/-- A scalar may hold the handle of a queue: one of 8-byte slots (R339). -/
def Block.scalarHandle (b : Block) (q : Nat) : Bool :=
  match b.queues[q]? with
  | some k => k.slotb = 8
  | none => true

/-- The lanes of a vector register that hold a queue's handle. -/
def Block.handleLanes (b : Block) (q : Nat) : Nat := ((b.queues[q]?).map (fun k => k.slotb / 4)).getD 1

/-- A handle operand of `qpush` (R339); for queue 17, an item's scratchpad address (R343). -/
def handleSource (b : Block) (q : Nat) (op : Operand) : Slot :=
  { pos := .b, op, okS := b.scalarHandle q, okP := false, okSp := false, okK := false, consumed := true, upto := b.handleLanes q }

/-- A handle destination of `qpop` and `qtry` (R339); for queue 16, an item's virtual address (R343). -/
def handleDest (b : Block) (q : Nat) (op : Operand) : Slot :=
  { pos := .d, op, wide := q = 16, okS := q = 16 || b.scalarHandle q, okP := false, okSp := false, okK := false, dst := true }

/-- QERR with the queue's number (R344). -/
def queueTrap (q : Nat) : TrapInfo := { cause := 0x12, addr := w64 q }

/-- What a queue number names for a block. -/
inductive QueueRef where
  | named (q : NamedQueue)
  /-- the stage whose output ring it is, and that stage's record -/
  | input (stage : Nat) (r : StageRec)
  | output (stage : Nat) (r : StageRec)

/-- The queue of a number; none where R344 raises QERR whatever the instruction. -/
def State.queueRef (s : State) (b : Block) (q : Nat) : Option QueueRef :=
  let rs := ((s.launch? b.lid).map (fun l => l.stages)).getD []
  if q < 16 then (b.queues[q]?).map .named
  else if q = 16 then (if b.stage = 0 then none else (rs[b.stage - 1]?).map (.input (b.stage - 1)))
  else if q = 17 then (if b.stage + 1 < rs.length then (rs[b.stage]?).map (.output b.stage) else none)
  else none

/-! ### QSTAT (R345) -/

/-- QSTAT of a group (Table 17-2). -/
def qstatOf (occ left st : Nat) : BitVec 32 := BitVec.ofNat 32 (min occ 65535 * 2 ^ 16 + min left 255 * 2 ^ 8 + st)

/-- The group whose allowance and in-flight count an instruction uses. -/
def groupNo : Ctx → Nat
  | .grp _ g => g
  | .sup _ _ => 0

/-- QSTAT after a step on a named queue. -/
def State.putQstat (s : State) (v : View) (q : NamedQueue) (st : Nat) : State :=
  let n := groupNo v.c
  s.onGroup v.c (fun g => { g with qstat := qstatOf q.pushers.length (takeAt 0 q.allow n - takeAt 0 q.inflight n) st })

/-- QSTAT after a step on a stage queue. -/
def State.putStageQstat (s : State) (c : Ctx) (occ st : Nat) : State := s.onGroup c (fun g => { g with qstat := qstatOf occ 0 st })

/-- The block of a context with one named queue replaced. -/
def State.setNamed (s : State) (c : Ctx) (n : Nat) (q : NamedQueue) : State :=
  match c with
  | .grp bid _ => s.onBlock bid (fun b => { b with queues := modifyAt b.queues n (fun _ => q) })
  | .sup _ _ => s

/-! ### Pushes (R340, R343) -/

/-- The bytes of a handle that a push takes from a register. -/
def State.handleBytes (s : State) (v : View) (n : Nat) : List Byte :=
  match v.op .b with
  | .s _ => leBytes (s.src v.c v.g (v.op .b) true none v.low).v.toNat n
  | op => (List.range (n / 4)).flatMap (fun l => leBytes (s.src v.c v.g op false none l).v.toNat 4)

/-- A push on a named queue (R340). -/
def State.pushNamed (s : State) (v : View) (n : Nat) (q : NamedQueue) : Effect :=
  let me := groupNo v.c
  if q.slots ≤ q.pushers.length || takeAt 0 q.allow me ≤ takeAt 0 q.inflight me || s.unperformed v.c then .wait
  else
    let tail := (q.head + q.pushers.length) % q.slots
    let q' := { q with pushers := q.pushers ++ [me], inflight := modifyAt q.inflight me (· + 1) }
    let s1 := (s.release v.c .blk).spPut (s.blockOf v.c) (q.base + tail * q.slotb) (s.handleBytes v q.slotb) false
    .done (((s1.setNamed v.c n q').putQstat v q' 0).onGroup v.c (fun g => { g with push := none }))

/-- The address of item `i` of a ring (R343). -/
def StageRec.item (r : StageRec) (i : Nat) : W64 := r.qva + w64 (r.itemb * (i % r.qcap))

/-- A push on the output queue of a stage (R343). -/
def State.pushStage (s : State) (v : View) (stage : Nat) (r : StageRec) : Effect :=
  let a := (s.src v.c v.g (v.op .b) false none v.low).v.toNat
  let blk := s.blockOf v.c
  if a % 16 != 0 then .trap s { cause := 0x08, addr := w64 a }
  else match s.spTarget blk a r.itemb with
    | none => .trap s (boundAt a)
    | some (b, off) =>
      if r.qcap ≤ r.counted || s.unperformed v.c then .wait
      else
        let p := s.proc b.unit
        let bs := (p.spRead (b.spBase + off) r.itemb).zipIdx.map (fun x => (x.1, p.spBad (b.spBase + off + x.2) 1))
        match (s.release v.c .dev).engWrites v.c 1 bs (pieces128 (r.item r.pushed) r.itemb) with
        | (_, _, some (cause, va)) => .trap s { cause, addr := va }
        | (s1, _, none) =>
          .done ((s1.onLaunch blk.lid (fun l => { l with stages := modifyAt l.stages stage (fun r =>
            { r with pushed := r.pushed + 1, counted := r.counted + 1 }) })).putStageQstat v.c (r.counted + 1) 0)

/-- `qpush` (R339, R340, R343 to R345). -/
def execQpush (h : Head) (a b : Operand) (s : State) : Host.Outcome State Fault Refusal :=
  s.issue h { coll := true, noRoot := true } [numSlot .a a, handleSource s.selBlock (s.queueNo a) b] (fun s v =>
    let q := s.num v .a
    match s.queueRef (s.blockOf v.c) q with
    | some (.named k) => match s.pushNamed v q k with
      | .wait => .waitIn (s.onGroup v.c (fun g => { g with push := some (g.pc, h, a, b) }))
      | e => e
    | some (.output st r) => s.pushStage v st r
    | _ => .trap s (queueTrap q))

/-! ### Pops (R341, R343) -/

/-- The lanes' values of a handle taken from a queue. -/
def handleValues (op : Operand) (bs : List Byte) (act : List Nat) : List LaneRes :=
  match op with
  | .s _ => act.map (fun l => (l, ⟨w64 (leNat bs), false⟩))
  | _ => act.map (fun l => (l, ⟨w64 (leNat ((bs.drop (4 * l)).take 4)), false⟩))

/-- D := 0 with a status, for an empty queue that nothing can fill. -/
def State.popClosed (s : State) (v : View) : State :=
  s.dst v.c (v.op .d) true (v.act.map (fun l => (l, ⟨0, false⟩)))

/-- An operand is a scalar register. -/
def scalarOp : Operand → Bool
  | .s _ => true
  | _ => false

/-- A pop of a named queue (R341); `hold` when the group waits for it to fill. -/
def State.popNamed (s : State) (v : View) (n : Nat) (q : NamedQueue) (hold : Bool) : Effect :=
  let b := s.blockOf v.c
  let one := scalarOp (v.op .d)
  match q.pushers with
  | [] =>
    if b.groups.zipIdx.all (fun g => g.1.ended || g.2 = groupNo v.c) then
      .done ((s.dst v.c (v.op .d) one (v.act.map (fun l => (l, ⟨0, false⟩)))).putQstat v q 2)
    else if hold then .wait
    else .done (s.putQstat v q 1)
  | p :: r =>
    let bs := s.spBytes b (q.base + q.head * q.slotb) q.slotb
    let q' := { q with head := (q.head + 1) % q.slots, pushers := r, inflight := modifyAt q.inflight p (· - 1) }
    let s1 := ((s.acquire v.c .blk).setNamed v.c n q').putQstat v q' 0
    .done (s1.dst v.c (v.op .d) one (handleValues (v.op .d) bs v.act))

/-- Every block of a stage of a launch has exited (R343). -/
def Launch.stageOver (l : Launch) (stage : Nat) : Bool := l.blockCount / max 1 l.stages.length ≤ takeAt 0 l.exited stage

/-- A pop of the input queue of a stage (R343): the item the group held before is released first. -/
def State.popStage (s : State) (v : View) (stage : Nat) (r : StageRec) (hold : Bool) : Effect :=
  let blk := s.blockOf v.c
  let s1 := match v.c with | .grp bid g => s.releaseItem bid g | .sup _ _ => s
  let counted := ((s1.launch? blk.lid).bind (fun l => (l.stages[stage]?).map (fun q => q.counted))).getD 0
  if r.popped = r.pushed then
    if ((s1.launch? blk.lid).map (fun l => l.stageOver stage)).getD true then
      .done ((s1.dst v.c (v.op .d) true (v.act.map (fun l => (l, ⟨0, false⟩)))).putStageQstat v.c counted 2)
    else if hold then .waitIn s1
    else .done (s1.putStageQstat v.c counted 1)
  else
    let s2 := s1.onLaunch blk.lid (fun l => { l with stages := modifyAt l.stages stage (fun q => { q with popped := q.popped + 1 }) })
    let s3 := ((s2.acquire v.c .dev).onGroup v.c (fun g => { g with item := true })).putStageQstat v.c counted 0
    .done (s3.dst v.c (v.op .d) true (v.act.map (fun l => (l, ⟨r.item r.popped, false⟩))))

/-- `qpop` and `qtry` (R339, R341, R343 to R345). -/
def State.popQueue (s : State) (h : Head) (d a : Operand) (hold : Bool) : Host.Outcome State Fault Refusal :=
  s.issue h { coll := hold, noRoot := true } [handleDest s.selBlock (s.queueNo a) d, numSlot .a a] (fun s v =>
    let q := s.num v .a
    match s.queueRef (s.blockOf v.c) q with
    | some (.named k) => s.popNamed v q k hold
    | some (.input st r) => s.popStage v st r hold
    | _ => .trap s (queueTrap q))

/-- `qpop` (R341, R343). -/
def execQpop (h : Head) (d a : Operand) (s : State) : Host.Outcome State Fault Refusal := s.popQueue h d a true

/-- `qtry` (R341, R343). -/
def execQtry (h : Head) (d a : Operand) (s : State) : Host.Outcome State Fault Refusal := s.popQueue h d a false

/-- A push that a group of the chosen context's block holds is tried again at once (R342). -/
def State.retryPush (s : State) (bid g : Nat) : State :=
  match s.group? (.grp bid g) with
  | none => s
  | some x => match x.push with
    | none => s
    | some (pc, h, a, b) =>
      if x.pc != pc then s
      else match execQpush h a b { s with sel := some (.grp bid g) } with
        | .next t => { t with sel := s.sel }
        | _ => s

/-- `qgrant` (R342, R344, R345): a push that the group granted to holds is tried again in its step. -/
def execQgrant (h : Head) (a b c : Operand) (s : State) : Host.Outcome State Fault Refusal :=
  s.issue h { noRoot := true } [numSlot .a a, numSlot .b b, numSlot .c c] (fun s v =>
    let q := s.num v .a
    let g := s.num v .b
    let k := s.num v .c
    match s.queueRef (s.blockOf v.c) q with
    | some (.named r) =>
      if (s.blockOf v.c).groups.length ≤ g || k < 1 || 1024 < k then .trap s (queueTrap q)
      else
        let r' := { r with allow := modifyAt r.allow g (fun a => min (a + k) r.slots) }
        .done (((s.setNamed v.c q r').putQstat v r' 0).retryPush (s.blockOf v.c).bid g)
    | _ => .trap s (queueTrap q))

end Sys2Proof.Machine
end

