-- ==== Sys2Proof/Machine/Watches.lean ====
section
/-! DEFINITION. The watch tables (R350 to R359), the phase drain (R346 to R349), and dependent launches and
ranges (R57, R360, R361, R363). -/

namespace Sys2Proof.Machine

/-! ### `hold` (R350) -/

/-- What a `hold` raises at issue for its translated address (R350). -/
def State.holdTrap (s : State) (sys : Bool) (va : W64) : List LaneXl → Option TrapInfo
  | ⟨_, _, .error e⟩ :: _ => some { cause := e, addr := va }
  | ⟨_, _, .ok (_, .memory _)⟩ :: _ => none
  | ⟨_, _, .ok (_, .host)⟩ :: _ => if sys && s.port = .cxl then none else some { cause := 0x0A, addr := va }
  | _ => some { cause := 0x0A, addr := va }

/-- `hold` (R350): issued, it waits for its arming. -/
def execHold (h : Head) (cc : Cmp) (wide sys : Bool) (a b c : Operand) (s : State) : Host.Outcome State Fault Refusal :=
  s.issue h { noRoot := true, parks := true }
    [pairSlot .a a false, { pos := .b, op := b, wide, okP := false, okSp := false, consumed := true, low := true },
      { pos := .c, op := c, wide := true, okV := false, okP := false, okSp := false, consumed := true }] (fun s v =>
    let va := s.wide v .a
    match misaligned (if wide then 8 else 4) [(v.low, va)] with
    | some t => .trap s t
    | none =>
      let (s1, xs) := s.translateLanes v.c .watch [(v.low, va)]
      match s1.holdTrap sys va xs, xs with
      | none, ⟨_, _, .ok (y, _)⟩ :: _ =>
        let w : WatchReq :=
          { pa := y.pa, key := leafKey y.leaf, wide, cc, v := (s.src v.c v.g (v.op .b) wide none v.low).v
            deadline := s.wide v .c, sys, lid := (s1.xctx v.c).lid, va, glob := leafGlobal y.leaf
            level := s1.leafLevel (s1.xctx v.c) 1 va }
        .held (((s1.migTouch y).orders v.c).onGroup v.c (fun g => { g.stalled h with hold := .arming w false }))
      | some t, _ => .trap s1 t
      | none, _ => .trap s1 { cause := 0x0A, addr := va })

/-! ### Arming (R351, R356) -/

/-- A group of a block, resident or suspended, or of a supervisor slot. -/
def State.groupAny (s : State) (c : Ctx) : Option Group :=
  match s.group? c, c with
  | some g, _ => some g
  | none, .grp bid g => (s.images.find? (fun im => im.block.bid = bid)).bind (fun im => im.block.groups[g]?)
  | none, .sup _ _ => none

/-- The state with a context's group changed, resident or suspended. -/
def State.onCtx (s : State) (c : Ctx) (f : Group → Group) : State := s.onGroupAny (cmdOwner c).1 (cmdOwner c).2 f

/-- Spilled entries of a die's table. -/
def State.spilledOn (s : State) (d : Nat) : Nat := (s.watches.filter (fun w => w.die = d && w.spilled)).length

/-- The overflow list of a die is full (R356). -/
def State.listFull (s : State) (d : Nat) : Bool := (Cells.get 0 s.wovln d).toNat ≤ s.spilledOn d

/-- The lowest free place of a die's overflow list. -/
def State.listPlace (s : State) (d : Nat) : Nat :=
  let used := (s.watches.filter (fun w => w.die = d && w.spilled)).map (·.place)
  ((List.range (used.length + 1)).find? (fun k => !used.contains k)).getD 0

/-- A spilled entry written to its 64-byte place of the die's overflow list; how an entry is laid out there is not stated, so its
bytes are free (R356, Table 19-3, assumption 106). -/
def State.writeSpill (s : State) (d k : Nat) : State :=
  { s with fresh := s.fresh + 64 }.homeWriteBytes .other 0 ((Cells.get 0 s.wovlb d).toNat + 64 * k)
    ((List.range 64).map (fun i => (Config.freeBits (s.fresh + i)).setWidth 8))

/-- An entry inserted, its bucket's oldest entry spilled when the bucket is full; none while the overflow list
is full, or its traffic is at its cap (R356, R454). -/
def State.insertWatch (s : State) (w : Watch) : Option State :=
  let here := s.watches.filter (fun x => x.die = w.die && !x.spilled && watchBucket x.w.pa = watchBucket w.w.pa)
  let add (s : State) : State := { s with watches := s.watches ++ [{ w with seq := s.watchSeq }], watchSeq := s.watchSeq + 1 }
  match here with
  | old :: _ =>
    if here.length < 8 then some (add s)
    else if s.listFull w.die then none
    else (s.paced 3 w.die 64).map (fun s =>
      let k := s.listPlace w.die
      let out := s.watches.map (fun x => if x.seq = old.seq then { x with spilled := true, everSpilled := true, place := k } else x)
      add ({ s with watches := out }.writeSpill w.die k))
  | [] => some (add s)

/-- An address lies on the old frame of a page in migration, whose entries end with MOVED (R352). -/
def State.onOldFrame (s : State) (pa : Nat) : Bool := s.migs.any (fun m => m.oldPa ≤ pa && pa < m.oldPa + m.size)

/-- `WATCH_ARM`: a `hold` reaches its home and is met, has expired, or is armed (R351, R356); one that
would be armed on a frame that a migration has left ends with MOVED instead (log entry 86). -/
def execWatchArm (c : Ctx) (s : State) : Host.Outcome State Fault Refusal :=
  match (s.groupAny c).map (fun (g : Group) => g.hold) with
  | some (.arming w full) =>
    let line := w.pa / 128
    let u := s.ctxUnit c
    let here := (s.group? c).isSome
    let s0 := if here && !isRoot u then s.l1WriteBack u line else s
    let s1 := s0.homeTouch { lid := w.lid, die := if here then dieOf u else s.homeDie w.pa, key := w.key } w.pa
    let ends (st cause : Nat) : State :=
      (s1.onCtx c (fun g => g.endHold w.sys (hstatOf st false cause))).readyImage (cmdOwner c).1
    if s1.homeBad line then .next (ends 5 0x0B)
    else if s1.watchMet w then .next (ends 1 0)
    else if w.deadline != 0 && w.deadline.toNat ≤ s1.now then .next (ends 3 0)
    else if s1.onOldFrame w.pa then .next (ends 6 0)
    else
      let d := s1.homeDie w.pa
      match s1.insertWatch { die := d, w, bid := (cmdOwner c).1, g := (cmdOwner c).2, seq := 0 } with
      | some s2 => .next (s2.onCtx c (fun g => { g with hold := .armed }))
      | none =>
        if full || !s1.listFull d then .next s1
        else
          .next (((s1.onCtx c (fun g => { g with hold := .arming w true })).pkgEvent 0x021 w.lid d).notifySup (s1.dieSupervisor d) 0 2)
  | _ => .next s

/-- `WATCH_TIMEOUT`: an armed entry's deadline has come (R354); spilled entries that the overflow list's cap kept back return
(R356, R454). -/
def execWatchTimeout (k : Nat) (s : State) : Host.Outcome State Fault Refusal :=
  match s.watches[k]? with
  | none => .next s
  | some w => .next ((if w.w.deadline != 0 && w.w.deadline.toNat ≤ s.now then s.endWatch w 3 0 else s).refillWatches)

/-! ### `hcancel` (R355) -/

/-- The group that an `hcancel` names; none where it raises ILLOPND. -/
def State.cancelTarget (s : State) (v : View) (t : Nat) : Option Ctx :=
  let rank := field t 8 3
  let b := s.blockOf v.c
  if field t 5 3 != 0 || field t 12 20 != 0 then none
  else
    let dest := if t.testBit 11 then (s.cluster b).find? (fun x => x.rank = rank) else if rank = 0 then some b else none
    dest.bind (fun b => if field t 0 5 < b.groups.length then some (.grp b.bid (field t 0 5)) else none)

/-- The context's group is arming a `hold`. -/
def State.isArming (s : State) (c : Ctx) : Bool :=
  match (s.group? c).map (fun (g : Group) => g.hold) with
  | some (.arming _ _) => true
  | _ => false

/-- `hcancel` (R354, R355, R359). -/
def execHcancel (h : Head) (a : Operand) (s : State) : Host.Outcome State Fault Refusal :=
  s.issue h { noRoot := true, parks := true } [numSlot .a a] (fun s v =>
    match s.cancelTarget v (s.num v .a) with
    | none => .trap s { cause := 0x02 }
    | some t =>
      if s.isArming t then .wait
      else match s.watches.find? (fun w => ownerCtx w.bid w.g = t) with
        | some w => .done ((s.endWatch w 4 0).onGroup v.c (fun g => { g with hstat := hstatOf 4 w.everSpilled 0 }))
        | none => .done (s.onGroup v.c (fun g => { g with hstat := hstatOf 9 false 0 })))

/-! ### The phase drain (R346 to R349) -/

/-- C of a destination after an arrival of `n` (R347). -/
def arrived (c : Int) (n : Nat) : Int := max (c - n) (-(2 ^ 31 : Nat))

/-- `parr` (R347). -/
def execParr (h : Head) (a b : Operand) (s : State) : Host.Outcome State Fault Refusal :=
  s.issue h { parks := true } [numSlot .a a, numSlot .b b] (fun s v =>
    let id := s.num v .a
    let n := s.num v .b
    let lid := (s.blockOf v.c).lid
    if n = 0 || 2 ^ 31 ≤ n then .trap s { cause := 0x02, addr := w64 n }
    else if !((s.launch? lid).any (fun l => l.r.phaseva != 0 && l.dests.any (fun d => d.1 = id))) then
      .trap s { cause := 0x12, addr := w64 id }
    else if s.unperformed v.c then .wait
    else .done ((s.release v.c .dev).onLaunch lid (fun l =>
      { l with dests := l.dests.map (fun d => if d.1 = id then (d.1, d.2.1, arrived d.2.2 n) else d) })))

/-- `pdrain` (R349). -/
def execPdrain (h : Head) (s : State) : Host.Outcome State Fault Refusal :=
  s.issue h { parks := true } [] (fun s v =>
    match s.launch? (s.blockOf v.c).lid with
    | none => .trap s { cause := 0x12 }
    | some l =>
      if l.r.phaseva = 0 then .trap s { cause := 0x12 }
      else if l.phase ≤ v.g.drain.toNat then .wait
      else .done ((s.acquire v.c .dev).onGroup v.c (fun g => { g with drain := g.drain + 1 })))

/-- `PHASE_END`: every line of a launch's tree reads high (R348). -/
def execPhaseEnd (lid : Nat) (s : State) : Host.Outcome State Fault Refusal :=
  match s.launch? lid with
  | none => .next s
  | some l =>
    if l.tree.isNone || l.dests.isEmpty || l.dests.any (fun d => 0 < d.2.2) then .next s
    else
      .next ((s.flushLaunch lid).onLaunch lid (fun l =>
        { l with
          dests := l.dests.map (fun d => (d.1, d.2.1, (d.2.1 : Int) + min d.2.2 0))
          phase := l.phase + 1 }))

/-! ### Dependent launches and ranges (R57, R360, R361, R363) -/

/-- `lwait` (R56, R359, R361). -/
def execLwait (h : Head) (s : State) : Host.Outcome State Fault Refusal :=
  s.issue h { parks := true } [] (fun s v =>
    let ps := ((s.launch? (s.blockOf v.c).lid).map (fun l => l.prods)).getD []
    if ps.any (· = .waiting) then .held (s.onGroup v.c (fun g => { g.stalled h with hold := .lwait }))
    else .done ((s.acquire v.c .dev).onGroup v.c (fun g => { g with hstat := prodStat ps })))

/-- `ltrig` (R54, R56, R360); it has no effect on a root core (R310). -/
def execLtrig (h : Head) (s : State) : Host.Outcome State Fault Refusal :=
  s.issue h { parks := true } [] (fun s v =>
    match v.c with
    | .sup _ _ => .done s
    | .grp bid _ =>
      if s.onRoot v.c || v.g.ltrig then .done s
      else if s.unperformed v.c then .wait
      else .done (((s.release v.c .dev).onGroup v.c (fun g => { g with ltrig := true })).testTrig bid))

/-- The chunk that a range unit hands out next: start and count (R57). -/
def Launch.chunk (l : Launch) : Nat × Nat :=
  if l.rem = 0 then (l.r.rtotal, 0)
  else (l.r.rtotal - l.rem, min (max l.r.rmin (ceilDiv l.rem (l.r.rdiv * l.blockCount))) l.rem)

/-- The destination slots of `range`: sn and sn+1, or four registers (R363). -/
def rangeSlots (d : Operand) : List Slot :=
  let x : Slot := { pos := .d, op := d, wide := true, run := 2, okP := false, okSp := false, okK := false, dst := true }
  match d with
  | .s n => if n = 63 then [{ x with okS := false }] else [x, { x with op := .s (n + 1) }]
  | _ => [x]

/-- `range` (R57, R363). -/
def execRange (h : Head) (d : Operand) (s : State) : Host.Outcome State Fault Refusal :=
  s.issue h { noRoot := true, parks := true, ld := true } (rangeSlots d) (fun s v =>
    let lid := (s.blockOf v.c).lid
    let (start, count) := ((s.launch? lid).map Launch.chunk).getD (0, 0)
    let elems : List PendElem := match v.op .d with
      | .s n => [{ dst := .sreg n.toNat, v := w64 start, tag := false }, { dst := .sreg (n.toNat + 1), v := w64 count, tag := false }]
      | .v n => v.act.flatMap (fun l =>
          let slot (k : Nat) : Nat := v.g.slotOf (v.g.lane l).depth (n.toNat + k)
          [{ dst := .vpair (slot 0) l, v := w64 start, tag := false }, { dst := .vpair (slot 2) l, v := w64 count, tag := false }])
      | _ => []
    .done ((s.onLaunch lid (fun l => { l with rem := l.rem - count })).counted v.c true elems 0))

end Sys2Proof.Machine
end

