-- ==== Sys2Proof/Machine/Launching.lean ====
section
/-! DEFINITION. Device-side `launch`, the launch arbiter with the checks of Table 2-5 (R27 to R45, R50, R362),
the stage sample (R59), and the end of blocks and launches (R60, R424, R425, R391). -/

namespace Sys2Proof.Machine

/-! ### Reads of the device itself through a launch's translation (R33, R41) -/

/-- Where the device's own access goes: memory, the host or a peer, a scratchpad or accumulator window (R192), and for a read
the configuration block. -/
def State.deviceSpot (s : State) (part : Nat) (k : AccKind) (y : Xl) : Option Spot :=
  match s.spot y.pa with
  | .memory d =>
    match (if isHbm y.pa then s.perStackOf y.pa else none) with
    | some st => if (s.part part).phbm.getLsbD st then some (.memory d) else none
    | none => some (.memory d)
  | .host => some .host
  | .peer a => some (.peer a)
  | .config o => if k = .read then some (.config o) else none
  | .spad u o => some (.spad u o)
  | .accum u o => some (.accum u o)
  | _ => none

/-- A translation for the device itself; an address it cannot reach fails with PROT. -/
def State.deviceXl (s : State) (x : XCtx) (part : Nat) (k : AccKind) (va : W64) : State × Except Nat (Xl × Spot) :=
  match s.translate x 1 k va with
  | (s1, .error e) => (s1, .error e)
  | (s1, .ok y) => match s1.deviceSpot part k y with
    | some sp => (s1, .ok (y, sp))
    | none => (s1, .error 0x0A)

/-- `n` bytes of one line that the device reads; none where they are uncorrectable. -/
def State.deviceGet (s : State) (y : Xl) (sp : Spot) (n : Nat) : State × Option (List Byte) :=
  match sp with
  | .config o => (s, some (regBytes s.configWord o n))
  | .spad u o => (s.wakeCore u, if (s.proc u).spBad o n then none else some ((s.proc u).spRead o n))
  | .accum u o => (s.wakeCore u, if ((s.proc u).accBadAt o n).isSome then none else some ((s.proc u).accRead o n))
  | _ =>
    let s1 := s.homeTouch { die := s.homeDie y.pa, key := leafKey y.leaf } y.pa
    (s1, if s1.homeBad (y.pa / 128) then none else some (s1.bytesUnder (leafKey y.leaf) y.pa n))

/-- Bytes of one line that the device writes. -/
def State.devicePut (s : State) (y : Xl) (sp : Spot) (bs : List Byte) : State :=
  match sp with
  | .spad u o => (s.wakeCore u).spFill u o bs
  | .accum u o => (s.wakeCore u).onProc u (fun p => p.accWrite o bs)
  | _ => s.homeWriteBytes .other (leafKey y.leaf) y.pa bs

/-- Bytes read line by line; none when one of them cannot be read. -/
def State.deviceReadAll (s : State) (x : XCtx) (part : Nat) : List (W64 × Nat × Nat) → State × Option (List Byte)
  | [] => (s, some [])
  | (va, _, n) :: r =>
    match s.deviceXl x part .read va with
    | (s1, .error _) => (s1, none)
    | (s1, .ok (y, sp)) =>
      match s1.deviceGet y sp n with
      | (s2, none) => (s2, none)
      | (s2, some b) => match s2.deviceReadAll x part r with
        | (s3, some bs) => (s3, some (b ++ bs))
        | (s3, none) => (s3, none)

/-- `n` bytes read by the device (R33). -/
def State.deviceRead (s : State) (x : XCtx) (part : Nat) (va : W64) (n : Nat) : State × Option (List Byte) :=
  s.deviceReadAll x part (pieces128 va n)

/-- Pages that `n` bytes from `va` touch. -/
def pagesOf (va : W64) (n : Nat) : Nat := if n = 0 then 0 else (va.toNat % 4096 + n + 4095) / 4096

/-- Every page of a range of `n` pages from `va` may be accessed. -/
def State.deviceRange (s : State) (x : XCtx) (part : Nat) (k : AccKind) (va : W64) : Nat → State × Bool
  | 0 => (s, true)
  | n + 1 =>
    match s.deviceXl x part k va with
    | (s1, .error _) => (s1, false)
    | (s1, .ok _) => s1.deviceRange x part k ((va &&& 0xFFFFFFFFFFFFF000) + 4096) n

/-! ### Records and headers (Tables 2-2 to 2-7) -/

/-- Field of `n` bytes at byte offset `o` of little-endian bytes read as a number. -/
def at8 (v o n : Nat) : Nat := field v (8 * o) (8 * n)

/-- The fields of a launch record (Table 2-4). -/
def recordOf (v : Nat) : LaunchRec :=
  { imageva := w64 (at8 v 0 8), ext := [at8 v 0x08 4, at8 v 0x0C 4, at8 v 0x10 4]
    shape := [at8 v 0x14 1, at8 v 0x15 1, at8 v 0x16 1], stagecnt := at8 v 0x17 1, groups := at8 v 0x18 1
    window := at8 v 0x19 1, scalars := at8 v 0x1A 1, lflags := at8 v 0x1B 1, scratchb := at8 v 0x1C 4
    accumb := at8 v 0x20 4, prio := at8 v 0x24 1, part := at8 v 0x25 1, keyslot := at8 v 0x26 2
    argva := w64 (at8 v 0x28 8), arglen := at8 v 0x30 4, prod0 := at8 v 0x34 4, prod1 := at8 v 0x38 4
    doneva := w64 (at8 v 0x40 8), doneval := w64 (at8 v 0x48 8), rtotal := at8 v 0x50 8, rmin := at8 v 0x58 4
    rdiv := at8 v 0x5C 4, phaseva := w64 (at8 v 0x60 8), stageva := w64 (at8 v 0x68 8), taskva := w64 (at8 v 0x70 8) }

/-- The fields of an image header (Table 2-2). -/
def headerOf (v : Nat) : ImageHdr :=
  { needfeat := w64 (at8 v 0x08 8), codeoff := at8 v 0x10 4, codelen := at8 v 0x14 4, dataoff := at8 v 0x18 4
    datalen := at8 v 0x1C 4, entry := at8 v 0x20 4, handler := at8 v 0x24 4, groups := at8 v 0x28 1
    window := at8 v 0x29 1, scalars := at8 v 0x2A 1, nqueue := at8 v 0x2B 1, scratch := at8 v 0x2C 4
    accum := at8 v 0x30 4, stages := at8 v 0x34 1, iflags := at8 v 0x35 1, imglen := at8 v 0x38 4
    queues := (List.range (at8 v 0x2B 1)).map (fun i => w64 (at8 v (0x80 + 8 * i) 8)) }

/-- An entry offset lies on a word of the code range (R29). -/
def ImageHdr.entryOk (m : ImageHdr) (e : Nat) : Bool :=
  m.codeoff ≤ e && e < m.codeoff + m.codelen && (e - m.codeoff) % 12 = 0

/-- A named queue descriptor within its limits (Table 2-3). -/
def queueOk (d : W64) : Bool :=
  let n := d.toNat
  let slots := field n 0 16
  let allow := field n 24 8
  1 ≤ slots && slots ≤ 1024 && [8, 16, 32, 64].contains (field n 16 8) && 1 ≤ allow && allow ≤ slots && field n 32 32 = 0

/-- A header whose code and data ranges R34 tests: within the limits of R28, its ranges those of R29. -/
def headerNamed (v : Nat) : Bool :=
  let m := headerOf v
  at8 v 0 4 = 0x4C4E4F42 && at8 v 4 2 = 1 && at8 v 6 2 = 0 && at8 v 0x36 2 = 0 && at8 v 0x3C 68 = 0
    && m.codeoff % 4 = 0 && 0x100 ≤ m.codeoff && m.codelen != 0 && m.codelen % 12 = 0 && m.codeoff + m.codelen ≤ m.imglen
    && (m.datalen = 0 || (0x100 ≤ m.dataoff && m.dataoff + m.datalen ≤ m.imglen
      && !overlaps m.codeoff m.codelen m.dataoff m.datalen))
    && 1 ≤ m.groups && m.groups ≤ 32 && 1 ≤ m.window && m.window ≤ 16 && 1 ≤ m.scalars && m.scalars ≤ 64 && m.nqueue ≤ 16
    && m.scratch % 16 = 0 && m.accum % 4096 = 0 && m.stages ≤ 8 && m.iflags ≤ 1

/-- A header that R28 to R30 accept. -/
def headerOk (v : Nat) : Bool :=
  let m := headerOf v
  headerNamed v && m.entryOk m.entry && (m.handler = 0 || m.entryOk m.handler)
    && (List.range 16).all (fun i => let d := at8 v (0x80 + 8 * i) 8; if i < m.nqueue then queueOk (w64 d) else d = 0)

/-- A field that takes the image's value when it is 0 (R31). -/
def fromImage (x img : Nat) : Nat := if x = 0 then img else x

/-- The record with its image fields taken (R31). -/
def LaunchRec.taken (r : LaunchRec) (m : ImageHdr) : LaunchRec :=
  { r with
    groups := fromImage r.groups m.groups, window := fromImage r.window m.window, scalars := fromImage r.scalars m.scalars
    scratchb := fromImage r.scratchb m.scratch, accumb := fromImage r.accumb m.accum }

/-- The stage entries of a table of bytes (Table 2-6). -/
def stagesOf (v : Nat) (n : Nat) : List StageRec :=
  (List.range n).map (fun i =>
    let o := 32 * i
    { sentry := at8 v o 4, itemb := at8 v (o + 4) 2, qva := w64 (at8 v (o + 8) 8), qcap := at8 v (o + 0x10) 4
      minc := at8 v (o + 0x14) 2, maxc := at8 v (o + 0x16) 2, initc := at8 v (o + 0x18) 2 })

/-- The destination pairs of a phase header (R36). -/
def pairsOf (v n : Nat) : List (Nat × Nat × Int) :=
  (List.range n).map (fun i => (at8 v (8 + 8 * i) 4, at8 v (12 + 8 * i) 4, (at8 v (12 + 8 * i) 4 : Int)))

/-- A tile set within its limits (R365). -/
def tileSetOk (v : Nat) : Bool := field v 0 26 + field v 26 6 ≤ 2 ^ 26

/-- A task record of 64 bytes that R365 accepts for an image. -/
def taskOk (m : ImageHdr) (v : Nat) : Bool :=
  m.entryOk (at8 v 8 4) && at8 v 0x0C 4 ≤ 1 && tileSetOk (at8 v 0x38 4) && tileSetOk (at8 v 0x3C 4)

/-- A task record's fields, with its spawn sequence and its parent's plus 1 (Table 18-1). -/
def taskOf (v n parent : Nat) : TaskRec :=
  { n, ts := at8 v 0 8, entry := at8 v 8 4, nospec := at8 v 0x0C 4 % 2 = 1, parent
    args := (List.range 4).map (fun i => w64 (at8 v (0x18 + 8 * i) 8)), rtiles := BitVec.ofNat 32 (at8 v 0x38 4)
    wtiles := BitVec.ofNat 32 (at8 v 0x3C 4), st := .spilled }

/-! ### What the arbiter reads (R33, R34) -/

/-- A submission: its source's translation, and what was read of it. -/
structure Submission where
  v : Nat
  r : LaunchRec
  ptroot : W64
  hdr : Nat := 0
  stages : Nat := 0
  phase : Nat := 0
  root : Nat := 0
  tasks : List Nat := []
  /-- every range that R34 tests could be read -/
  access : Bool := true

/-- The image's header. -/
def Submission.img (x : Submission) : ImageHdr := headerOf x.hdr

/-- The header was read, and its code and data ranges are to be tested (R34). -/
def Submission.ranged (x : Submission) : Bool := x.r.imageva.toNat % 256 = 0 && headerNamed x.hdr

/-- The translation of a launch of the submission. -/
def Submission.xctx (x : Submission) : XCtx :=
  { lid := 0, ptroot := x.ptroot, keyslot := x.r.keyslot, sup := false, cfgmap := x.r.lflags / 2 % 2 = 1 }

/-- A range read when `cond` holds: the bytes as a number. -/
def State.subRead (s : State) (x : Submission) (cond : Bool) (va : W64) (n : Nat) : State × Option Nat :=
  if !cond then (s, some 0)
  else match s.deviceRead x.xctx x.r.part va n with
    | (s1, some bs) => (s1, some (leNat bs))
    | (s1, none) => (s1, none)

/-- A range tested when `cond` holds. -/
def State.subTest (s : State) (x : Submission) (cond : Bool) (va : W64) (n : Nat) : State × Bool :=
  if !cond then (s, true) else s.deviceRange x.xctx x.r.part .read va (pagesOf va n)

/-- The submission with one more range read. -/
def Submission.with (x : Submission) (o : Option Nat) (f : Submission → Nat → Submission) : Submission :=
  match o with
  | some v => f x v
  | none => { x with access := false }

/-- The header and the tables of a record read, as far as their naming fields are within limits (R34). -/
def State.gather (s : State) (x : Submission) : State × Submission :=
  let r := x.r
  let (s1, h) := s.subRead x (r.imageva.toNat % 256 = 0) r.imageva 256
  let x1 := x.with h (fun x v => { x with hdr := v })
  let m := x1.img
  let (s2, code) := s1.subTest x1 x1.ranged (r.imageva + w64 m.codeoff) m.codelen
  let (s3, data) := s2.subTest x1 x1.ranged (r.imageva + w64 m.dataoff) m.datalen
  let (s4, args) := s3.subTest x1 (r.argva.toNat % 8 = 0 && r.arglen ≤ 65536 && r.arglen % 8 = 0 && r.argva != 0) r.argva r.arglen
  let (s5, st) := s4.subRead x1 (2 ≤ r.stagecnt && r.stagecnt ≤ 8 && m.stages ≤ r.stagecnt && r.stageva != 0 && r.stageva.toNat % 32 = 0) r.stageva
    (32 * r.stagecnt)
  let phased : Bool := r.phaseva != 0 && r.phaseva.toNat % 8 = 0
  let (s6, p0) := s5.subRead x1 phased r.phaseva 8
  let n := at8 (p0.getD 0) 0 4
  let (s7, p1) := s6.subRead x1 (phased && 1 ≤ n && n ≤ 4096) r.phaseva (8 + 8 * n)
  let rooted : Bool := r.lflags % 2 = 1 && r.taskva != 0 && r.taskva.toNat % 64 = 0
  let (s8, root) := s7.subRead x1 rooted r.taskva 64
  let rv := root.getD 0
  let k := at8 rv 8 4
  let (s9, init) := s8.subRead x1 (rooted && 1 ≤ k && k ≤ 4096 && at8 rv 0 8 % 64 = 0) (w64 (at8 rv 0 8)) (64 * k)
  let x2 := { x1 with access := x1.access && code && data && args }
  let x3 := x2.with st (fun x v => { x with stages := v })
  let x4 := (x3.with p0 (fun x v => { x with phase := v })).with p1 (fun x v => if v = 0 then x else { x with phase := v })
  (s9, (x4.with root (fun x v => { x with root := v })).with init (fun x v =>
    { x with tasks := (List.range (min k 4096)).map (fun i => at8 v (64 * i) 64) }))

/-! ### The checks of Table 2-5 -/

/-- RECORD. -/
def Submission.recordBad (x : Submission) : Bool :=
  let r := x.r
  at8 x.v 0x3C 4 != 0 || at8 x.v 0x78 8 != 0 || 8 ≤ r.lflags || r.imageva.toNat % 256 != 0 || r.argva.toNat % 8 != 0
    || r.doneva.toNat % 8 != 0 || r.phaseva.toNat % 8 != 0 || r.stageva.toNat % 32 != 0 || r.taskva.toNat % 64 != 0
    || 65536 < r.arglen || r.arglen % 8 != 0 || (r.argva = 0 && r.arglen != 0)

/-- SHAPE. -/
def LaunchRec.shapeBad (r : LaunchRec) : Bool :=
  r.ext.any (· = 0) || r.shape.any (· = 0) || (r.ext.zip r.shape).any (fun e => 2 ^ 32 ≤ e.1 * e.2)
    || 8 < takeAt 1 r.shape 0 * takeAt 1 r.shape 1 * takeAt 1 r.shape 2
    || (2 ≤ r.stagecnt && r.stagecnt ≤ 8 && (r.shape != [1, 1, 1] || r.lflags % 2 = 1))

/-- A nonzero field below the image's value (R31). -/
def below (x img : Nat) : Bool := x != 0 && x < img

/-- RESOURCE; so is an ACCUMB that is no multiple of 4,096, for which no status is named (assumption 109). -/
def LaunchRec.resourceBad (r : LaunchRec) (m : ImageHdr) : Bool :=
  let t := r.taken m
  below r.groups m.groups || below r.window m.window || below r.scalars m.scalars || below r.scratchb m.scratch
    || below r.accumb m.accum || 32 < t.groups || 16 < t.window || 64 < t.scalars || t.accumb % 4096 != 0
    || Config.accBytes < t.accumb || Config.scratchBytes < scratchNeed t.scratchb m.queues || 256 < t.groups * segOf t.window

/-- The rings of a stage table that another stage's ring overlaps. -/
def ringsMeet : List StageRec → Bool
  | [] => false
  | q :: r => r.any (fun p => overlaps q.qva.toNat (q.qcap * q.itemb) p.qva.toNat (p.qcap * p.itemb)) || ringsMeet r

/-- Every page of a ring is writable HBM. -/
def State.ringOk (s : State) (x : XCtx) (part : Nat) (va : W64) : Nat → State × Bool
  | 0 => (s, true)
  | n + 1 =>
    match s.deviceXl x part .watch va with
    | (s1, .ok (y, .memory _)) =>
      if isHbm y.pa && !leafStb y.leaf then s1.ringOk x part ((va &&& 0xFFFFFFFFFFFFF000) + 4096) n else (s1, false)
    | (s1, _) => (s1, false)

/-- The rings of the stages that have one. -/
def State.ringsOk (s : State) (x : XCtx) (part : Nat) : List StageRec → State × Bool
  | [] => (s, true)
  | [_] => (s, true)
  | q :: r =>
    match s.ringOk x part q.qva (pagesOf q.qva (q.qcap * q.itemb)) with
    | (s1, true) => s1.ringsOk x part r
    | (s1, false) => (s1, false)

/-- One stage entry, the `i`-th of `n`, within the limits of Table 2-6. -/
def stageOk (m : ImageHdr) (v n i : Nat) (q : StageRec) : Bool :=
  m.entryOk q.sentry && 8 ≤ q.itemb && q.itemb ≤ 4096 && q.itemb % 8 = 0 && at8 v (32 * i + 6) 2 = 0
    && at8 v (32 * i + 0x1A) 6 = 0 && 1 ≤ q.minc && q.minc ≤ q.initc && q.initc ≤ q.maxc
    && (if i + 1 = n then q.qva = 0 && q.qcap = 0
      else q.qva.toNat % 128 = 0 && 2 ≤ q.qcap && q.qcap ≤ 65536)

/-- STAGE. -/
def State.stageBad (s : State) (x : Submission) : State × Bool :=
  let r := x.r
  if 8 < r.stagecnt || r.stagecnt < x.img.stages || (2 ≤ r.stagecnt) != (r.stageva != 0) then (s, true)
  else if r.stagecnt < 2 then (s, false)
  else
    let qs := stagesOf x.stages r.stagecnt
    let cores := ((List.range Config.cores).filter (fun c => s.coreEnabled c && (s.part r.part).has c)).length
    if !qs.zipIdx.all (fun q => stageOk x.img x.stages r.stagecnt q.2 q.1) || ringsMeet qs || cores < (qs.map (·.minc)).sum then
      (s, true)
    else match s.ringsOk x.xctx r.part qs with
      | (s1, ok) => (s1, !ok)

/-- PHASE (R36). -/
def Submission.phaseBad (x : Submission) : Bool :=
  let n := at8 x.phase 0 4
  x.r.phaseva != 0 && (n = 0 || 4096 < n || at8 x.phase 4 4 != 0 ||
    (let ps := pairsOf x.phase n
     let ids := ps.map (·.1)
     ps.any (fun p => p.1 = 2 ^ 32 - 1 || p.2.1 = 0) || ids.eraseDups.length != ids.length))

/-- TASK (R37); so too a TASKVA other than R31 asks of the TASK flag, for which Table 2-5 names no status (DESIGN CHOICE, log
entry 89). -/
def Submission.taskBad (x : Submission) : Bool :=
  let task : Bool := x.r.lflags % 2 = 1
  let k := at8 x.root 8 4
  task != (x.r.taskva != 0) || (task && (x.img.iflags % 2 = 0 || x.r.rtotal != 0 || at8 x.root 0 8 % 64 != 0 || k = 0 || 4096 < k
    || at8 x.root 0x0C 4 != 0 || at8 x.root 0x10 8 % 4096 != 0 || at8 x.root 0x18 8 = 0 || at8 x.root 0x18 8 % 4096 != 0
    || at8 x.root 0x20 32 != 0))

/-- The status of a submission; 0 when every check passes (Table 2-5). -/
def State.launchStatus (s : State) (x : Submission) (placeBad : Bool) : State × Nat :=
  if !x.access then (s, 1)
  else if x.recordBad then (s, 2)
  else if !headerOk x.hdr then (s, 3)
  else if x.img.needfeat &&& ~~~s.cfg.feat != 0 then (s, 4)
  else if x.r.shapeBad then (s, 5)
  else if x.r.resourceBad x.img then (s, 6)
  else
    let (s1, bad) := s.stageBad x
    if bad then (s1, 7)
    else if x.phaseBad then (s1, 8)
    else if x.taskBad then (s1, 9)
    else if x.r.rtotal != 0 && (x.r.rmin = 0 || x.r.rdiv = 0) then (s1, 0x0A)
    else if 3 < x.r.prio || 1023 < x.r.keyslot || placeBad then (s1, 0x0B)
    else (s1, 0)

/-! ### Acceptance (R38, R42, R43) -/

/-- How a producer stands at acceptance (R54). -/
def State.prodAt (s : State) (id : Nat) : ProdSt :=
  match s.launch? id with
  | some l => if l.triggered then .triggered else .waiting
  | none => .triggered

/-- The launch id after another (R43). -/
def nextLid (n : Nat) : Nat := if n = 2 ^ 32 - 1 then 1 else n + 1

/-- The code range of a submission invalidated in the instruction caches of its partition's cores and of the root cores
(R80, log entry 90). -/
def State.dropCode (s : State) (x : Submission) : State :=
  let (s1, lines) := s.linesInRange x.xctx (x.r.imageva + w64 x.img.codeoff) x.img.codelen
  { s1 with units := s1.units.map (fun u =>
      (u.1, if isRoot u.1 || (s1.part x.r.part).has u.1 then u.2.icacheDrop lines else u.2)) }

/-- A submission becomes a live launch (R42, R43). -/
def State.accept (s0 : State) (x : Submission) (queue : Option Nat) (issuer : Option (Nat × Nat)) (vector : Nat) : State :=
  let s := s0.dropCode x
  let r := x.r.taken x.img
  let stages := if 2 ≤ r.stagecnt then r.stagecnt else 1
  let l : Launch :=
    { lid := s.arb.nextLid, r, img := x.img, ptroot := x.ptroot, queue, issuer, vector, order := s.arb.accepted
      next := List.replicate stages 0, exited := List.replicate stages 0
      prods := ([r.prod0, r.prod1].filter (· != 0)).map s.prodAt, rem := r.rtotal
      dests := if r.phaseva = 0 then [] else pairsOf x.phase (at8 x.phase 0 4)
      stages := if 2 ≤ r.stagecnt then stagesOf x.stages r.stagecnt else []
      ringva := w64 (at8 x.root 0x10 8), ringb := at8 x.root 0x18 8
      initial := x.tasks.zipIdx.map (fun t => taskOf t.1 t.2 0), initialBad := x.tasks.any (fun t => !taskOk x.img t)
      nextSeq := x.tasks.length }
  { s with
    launches := s.launches ++ [l]
    arb := { s.arb with nextLid := nextLid s.arb.nextLid, accepted := s.arb.accepted + 1 } }

/-! ### The arbiter (R42, R44, R45) -/

/-- A physical address that the arbiter can read or write untranslated: memory, the host and a peer. It reaches nothing of the map of
the chip itself, a choice of the model's (R41; DESIGN CHOICE, log entry 120). -/
def State.arbReach (s : State) (pa : Nat) : Bool :=
  match s.spot pa with
  | .memory _ | .host | .peer _ => true
  | _ => false

/-- The result word of a decision (R42). -/
def resultWord (lid status : Nat) : W64 := w64 (lid + status * 2 ^ 32)

/-- PLACE of a record from a host queue (R50). -/
def State.placeBad (s : State) (q : Nat) (r : LaunchRec) : Bool :=
  let p := s.part r.part
  !p.valid || !p.qmask.getLsbD q || r.prio != q / 16 || r.prio < p.maxprio.toNat

/-- A queue's page-table node can be read (R41). -/
def State.nodeReadable (s : State) (ptroot : W64) : Bool :=
  let pa := field ptroot.toNat 12 40 * 4096
  s.walkable pa && !s.homeBad (pa / 128)

/-- The arbiter takes the next record of a host queue (R42): its record, header and tables in one step, so a write that races
with it is seen whole or not at all (DESIGN CHOICE, log entry 87). -/
def State.takeQueue (s : State) (q : Nat) : State :=
  let hq := s.queue q
  let slot := hq.qci.toNat % 2 ^ hq.logn
  let pa := hq.qbase.toNat + 128 * slot
  let res := hq.qres.toNat + 8 * slot
  let s1 := if s.arbReach pa then s.homeTouch { die := s.homeDie pa } pa else s
  let ok := s.arbReach pa && !s1.homeBad (pa / 128)
  let v := if ok then leNat (s1.bytesUnder 0 pa 128) else 0
  let x : Submission := { v, r := recordOf v, ptroot := hq.qptr, access := ok && s1.nodeReadable hq.qptr }
  let (s2, x2) := if ok then s1.gather x else (s1, x)
  let (s3, st) := s2.launchStatus x2 (s2.placeBad q x.r)
  let lid := if st = 0 then s.arb.nextLid else 0
  if !s3.arbReach res then s3.setQueue q { hq with qerr := hq.qerr ||| 0x200, en := false }
  else
    let s4 := s3.homeWriteBytes .other 0 res (leBytes (resultWord lid st).toNat 8)
    let hq' := { s4.queue q with qci := hq.qci + 1 }
    if st = 0 then (s4.setQueue q hq').accept x2 (some q) none q
    else s4.setQueue q { hq' with qerr := (hq'.qerr &&& 0x300) ||| BitVec.ofNat 10 st }

/-- An operation whose elements all take one value has its answer. -/
def Group.answer (id : Nat) (v : W64) (g : Group) : Group :=
  { g with pend := g.pend.map (fun p =>
      if p.id = id then { p with blocked := p.blocked - 1, elems := p.elems.map (fun e => { e with v }) } else p) }

/-- The arbiter takes the oldest record of a device-launch FIFO (R45, R362). -/
def State.takeFifo (s : State) (level : Nat) : State :=
  match takeAt [] s.arb.fifos level with
  | [] => s
  | f :: rest =>
    let s0 := { s with arb := { s.arb with fifos := modifyAt s.arb.fifos level (fun _ => rest) } }
    let v := leNat f.bytes
    let r := recordOf v
    let (s1, x) := s0.gather { v, r, ptroot := f.ptroot }
    let (s2, st) := s1.launchStatus x (r.prio < f.prio || r.part != f.part || r.keyslot != f.keyslot)
    let lid := if st = 0 then s.arb.nextLid else 0
    let s3 := if st = 0 then s2.accept x none (some (f.bid, f.g)) f.vector else s2
    s3.onGroupAny f.bid f.g (Group.answer f.pend (resultWord lid st))

/-- The sources of a level that have a record: 0 to 15 its host queues, 16 its FIFO (R44). -/
def State.candidates (s : State) (level : Nat) : List Nat :=
  (List.range 17).filter (fun i =>
    if i = 16 then !(takeAt [] s.arb.fifos level).isEmpty
    else if s.dead.contains .host then false
    else
      let q := s.queue (16 * level + i)
      q.en && !q.pause && q.pending != 0)

/-- `ARBITER_DECISION`: one decision of the launch arbiter (R27, R43, R44). -/
def execArbiterDecision (s : State) : Host.Outcome State Fault Refusal :=
  if 1024 ≤ s.launches.length then .next s
  else match (List.range 4).find? (fun l => !(s.candidates l).isEmpty) with
    | none => .next s
    | some level =>
      let last := takeAt 16 s.arb.last level
      let c := s.candidates level
      let src := ((c.find? (fun i => last < i)).orElse (fun _ => c.head?)).getD 0
      let s1 := { s with arb := { s.arb with last := modifyAt s.arb.last level (fun _ => src) } }
      .next (if src = 16 then s1.takeFifo level else s1.takeQueue (16 * level + src))

/-! ### `launch` (R45, R362) -/

/-- The 128 bytes of a record as an instruction reads them; none where a word cannot be read (R45). -/
def State.recordBytes (s : State) (c : Ctx) (va : W64) : State × Option (List Byte) :=
  match s.engXl c 1 .read va with
  | (s1, .error _) => (s1, none)
  | (s1, .ok (y, sp)) =>
    let (s2, bs) := s1.engRead c y sp 128
    (s2, if bs.length = 128 && !bs.any (·.2) then some (bs.map (·.1)) else none)

/-- `launch` (R33, R45, R362). -/
def execLaunch (h : Head) (d a : Operand) (s : State) : Host.Outcome State Fault Refusal :=
  s.issue h { noRoot := true, parks := true, ld := true }
    [{ pos := .d, op := d, wide := true, okP := false, okSp := false, dst := true }, scalarSlot .a a] (fun s v =>
    let va := s.wide v .a
    match misaligned 128 [(v.low, va)] with
    | some t => .trap s t
    | none =>
      let (s1, got) := s.recordBytes v.c va
      let elems (w : W64) : List PendElem := match v.op .d with
        | .k _ => []
        | .s n => [{ dst := .sreg n.toNat, v := w, tag := false }]
        | _ => v.act.map (fun l => { dst := v.loadDest true l 0, v := w, tag := false })
      match got, s1.ctxLaunch? v.c with
      | some bs, some l =>
        let level := min 3 (recordOf (leNat bs)).prio
        if 256 ≤ (takeAt [] s1.arb.fifos level).length then .wait
        else
          let (bid, g) := cmdOwner v.c
          let f : FifoRec :=
            { bytes := bs, bid, g, pend := v.g.nextId, ptroot := l.ptroot, prio := l.r.prio, part := l.r.part
              keyslot := l.r.keyslot, vector := l.vector }
          let s2 := s1.counted v.c true (elems 0) 1
          .done { s2 with arb := { s2.arb with fifos := modifyAt s2.arb.fifos level (fun q => q ++ [f]) } }
      | _, _ => .done (s1.counted v.c true (elems (resultWord 0 1)) 0))

/-! ### The stage sample (R59) -/

/-- Occupancy of a stage's output queue, of 256. -/
def StageRec.occupancy (q : StageRec) : Nat := 256 * q.counted / max 1 q.qcap

/-- I of a stage. -/
def Launch.stageIn (l : Launch) (st : Nat) : Nat :=
  if st = 0 then (if l.stageOver 0 then 0 else 256) else ((l.stages[st - 1]?).map StageRec.occupancy).getD 0

/-- O of a stage. -/
def Launch.stageOut (l : Launch) (st : Nat) : Nat :=
  if st + 1 = l.stages.length then 0 else ((l.stages[st]?).map StageRec.occupancy).getD 0

/-- The donor's condition. -/
def Launch.donates (l : Launch) (st : Nat) (q : StageRec) : Bool :=
  q.minc < q.cores.length && (224 ≤ l.stageOut st || l.stageIn st ≤ 32)

/-- The taker's condition. -/
def Launch.takes (l : Launch) (st : Nat) (q : StageRec) : Bool :=
  q.cores.length < q.maxc && 128 ≤ l.stageIn st && l.stageOut st ≤ 128

/-- The number with the greatest key, ties to the lowest number. -/
def greatestBy (key : Nat → Int) : List Nat → Option Nat
  | [] => none
  | n :: r => match greatestBy key r with
    | none => some n
    | some m => if key n < key m then some m else some n

/-- The core of a donor that moves: the one held longest, moved none within 16,000 ns, the 16,000th counted (DESIGN CHOICE,
log entry 88). -/
def StageRec.mover (now : Nat) (q : StageRec) : Option Nat :=
  let free := q.cores.filter (fun c => match c.2.2 with | some t => t + 16000 < now | none => true)
  ((sortBy (fun c => c.2.1) (sortBy (fun c => c.1) free)).head?).map (fun c => c.1)

/-- Blocks of a launch's stage on a core pre-empted; none when an image does not fit, and then no core moves in that sample, a choice
of the model's (DESIGN CHOICE, log entry 119). -/
def State.clearCore (s : State) (lid st c : Nat) : Option State :=
  ((s.blocks.filter (fun b => b.lid = lid && b.stage = st && b.unit = c)).map (·.cidx)).foldl
    (fun o k => o.bind (fun s => s.saveCluster lid st k false)) (some s)

/-- One pipelined launch sampled (R59). -/
def State.sampleLaunch (s : State) (lid : Nat) : State :=
  match s.launch? lid with
  | none => s
  | some l =>
    let idx := l.stages.zipIdx
    let donors := (idx.filter (fun q => l.donates q.2 q.1 && q.1.wasDonor)).map (·.2)
    let takers := (idx.filter (fun q => l.takes q.2 q.1 && q.1.wasTaker)).map (·.2)
    let s1 := s.onLaunch lid (fun l =>
      { l with stages := l.stages.mapIdx (fun i q => { q with wasDonor := l.donates i q, wasTaker := l.takes i q }) })
    match greatestBy (fun i => (l.stageIn i : Int)) takers with
    | none => s1
    | some t =>
      match greatestBy (fun i => (l.stageOut i : Int) - l.stageIn i) (donors.filter (· != t)) with
      | none => s1
      | some d =>
        match (l.stages[d]?).bind (StageRec.mover s.now) with
        | none => s1
        | some c =>
          match s1.clearCore lid d c with
          | none => s1
          | some s2 =>
            (s2.onLaunch lid (fun l =>
              { l with stages := l.stages.mapIdx (fun i q =>
                  if i = d then { q with cores := q.cores.filter (fun x => x.1 != c) }
                  else if i = t then { q with cores := q.cores ++ [(c, s.now, some s.now)] } else q) })).trimHeld

/-- `STAGE_SAMPLE`: at a TIME that is a multiple of 4,000 (R59). -/
def execStageSample (s : State) : Host.Outcome State Fault Refusal :=
  if s.now % 4000 != 0 || s.sampledAt = s.now then .next s
  else .next (((s.launches.filter (fun l => !l.stages.isEmpty)).map (·.lid)).foldl State.sampleLaunch { s with sampledAt := s.now })

/-! ### The end of a block (R424) -/

/-- A block whose exit can complete (R424). -/
def State.exitReady (s : State) (b : Block) : Bool :=
  let p := s.proc b.unit
  b.groups.all (fun g => g.ended && g.pend.isEmpty && !g.item)
    && !p.cmds.any (fun c => c.bid = b.bid) && !p.mx.any (fun c => c.bid = b.bid) && !p.abuf.any (fun a => a.bid = b.bid)
    && !s.calls.any (fun c => c.caller = b.bid)

/-- A crown-die block's exit completes (R54, R56, R58, R424). -/
def State.exitBlock (s : State) (b : Block) : State :=
  let s1 := ((s.l1Clean b.unit).freeBlock b).onLaunch b.lid (fun l =>
    { l with exited := modifyAt l.exited b.stage (· + 1), stagesFixed := true })
  if b.cause.isNone then s1.blockTriggered b else s1

/-- `BLOCK_EXIT_COMPLETE` (R66, R424). -/
def execBlockExitComplete (bid : Nat) (s : State) : Host.Outcome State Fault Refusal :=
  match s.block? bid with
  | none => .next s
  | some b => .next (if !isRoot b.unit && s.exitReady b then s.exitBlock b else s)

/-! ### The end of a launch (R60, R425) -/

/-- Every block of every stage has exited or been terminated, or, for a task launch, no record is left (R38,
R60, R391, R426); and the launch's last call has returned (R320). -/
def State.launchOver (s : State) (l : Launch) : Bool :=
  let mine := s.blocks.filter (fun b => b.lid = l.lid && !isRoot b.unit)
  let images := s.images.filter (fun im => im.block.lid = l.lid)
  let idle (b : Block) : Bool := b.groups.all (fun g => g.pend.isEmpty && g.task.isNone)
  !s.calls.any (fun c => c.lid = l.lid) &&
    (if l.r.lflags % 2 = 1 then
      l.tasks.isEmpty && l.initial.isEmpty && images.all (fun im => idle im.block) && mine.all (fun b =>
        idle b && s.exitReady { b with groups := b.groups.map (fun g => { g with ended := true, item := false }) })
    else mine.isEmpty && images.isEmpty && (l.cancelled || (List.range l.stageCount).all l.stageOver))

/-- The word stored to DONEVA (R60 step 2). -/
def Launch.doneWord (l : Launch) : W64 :=
  match l.cause with
  | none => l.r.doneval
  | some c => w64 (0xFFFF000000000000 + c.toNat * 2 ^ 32 + l.lid)

/-- The store to DONEVA, or its DONEFAULT record (R60, R428). -/
def State.storeDone (s : State) (l : Launch) : State :=
  if l.r.doneva = 0 then s
  else match s.deviceXl (l.xctx none) l.r.part .write l.r.doneva with
    | (s1, .ok (y, sp)) => s1.devicePut y sp (leBytes l.doneWord.toNat 8)
    | (s1, .error e) =>
      s1.report { kind := 2, cause := BitVec.ofNat 8 e, write := true, lid := BitVec.ofNat 32 l.lid, core := 0xFFFFFFFF
                  addr := l.r.doneva, value := l.doneWord }

/-- The worker blocks of a task launch end and leave (R391, R424). -/
def State.endWorkers (s : State) (lid : Nat) : State :=
  let s0 := { s with images := s.images.filter (fun im => im.block.lid != lid) }
  ((s0.blocks.filter (fun b => b.lid = lid && !isRoot b.unit)).map (fun b => (b.bid, b.groups.length))).foldl (fun s b =>
    let s1 := (List.range b.2).foldl (fun s g =>
      if ((s.group? (.grp b.1 g)).map (fun g => g.ended)).getD true then s
      else (s.onGroup (.grp b.1 g) (fun g =>
        { g with lanes := g.lanes.map (fun l => { l with live := false }), asyncs := [] })).groupEnded b.1 g) s
    match s1.block? b.1 with
    | some x => s1.exitBlock x
    | none => s1) s0

/-- The cause of a trap that is pending on a worker group when its launch retires (R230, R410). -/
def State.pendingCause (s : State) (lid : Nat) : Option (BitVec 8) :=
  (s.blocks.filter (fun b => b.lid = lid && !isRoot b.unit)).findSome? (fun b =>
    b.groups.findSome? (fun g => (g.asyncs.head?).map (fun a => a.cause)))

/-- A launch retires; the cores that it had reserved become free (R47, R58, R60, R228, R425). -/
def State.retire (s : State) (lid : Nat) : State :=
  let s1 := s.flushLaunch lid
  let s2 := match s1.pendingCause lid with
    | some c => s1.onLaunch lid (fun l => l.setCause c.toNat)
    | none => s1
  let s3 := ((s2.blocks.filter (fun b => b.lid = lid && !isRoot b.unit)).map (fun b => b.unit)).foldl State.l1Clean s2
  match s3.launch? lid with
  | none => s3
  | some l =>
    let s4 := s3.storeDone l
    let s5 := if l.r.lflags / 4 % 2 = 1 then s4.msi l.vector else s4
    let s6 := s5.endWorkers lid
    let s7 := s6.triggerLaunch lid (match l.cause with | none => .triggered | some c => .failed c s.now)
    let s8 := { s7 with
      launches := s7.launches.filter (fun x => x.lid != lid)
      versions := s7.versions.filter (fun v => v.lid != lid)
      units := s7.units.map (fun u => (u.1, { u.2 with stb := u.2.stb.filter (fun x => x.lid != lid) })) }
    (l.stages.flatMap (fun q => q.cores.map (fun x => x.1))).foldl (fun s c => s.haunt (wholeCore lid c)) s8

/-- `LAUNCH_RETIRE` (R38, R60, R425). -/
def execLaunchRetire (lid : Nat) (s : State) : Host.Outcome State Fault Refusal :=
  match s.launch? lid with
  | none => .next s
  | some l => .next (if s.launchOver l then s.retire lid else s)

end Sys2Proof.Machine
end

