-- ==== Sys2Proof/Machine/Tasks.lean ====
section
/-! DEFINITION. Timestamp-ordered tasks: the task instructions and the steps of the task system (R364 to
R395). -/

namespace Sys2Proof.Machine

/-! ### Banks and the ring (R368, R369, R384) -/

/-- The record is queued in bank `k`. -/
def TaskRec.inBank (k : Nat) (t : TaskRec) : Bool := t.st = .queued k

/-- The record is spilled. -/
def TaskRec.inRing (t : TaskRec) : Bool := t.st = .spilled

/-- Records of a launch in bank `k`. -/
def Launch.bankCount (l : Launch) (k : Nat) : Nat := (l.tasks.filter (TaskRec.inBank k)).length

/-- Records of a launch in its ring. -/
def Launch.ringCount (l : Launch) : Nat := (l.tasks.filter TaskRec.inRing).length

/-- Records that a ring holds. -/
def Launch.ringRoom (l : Launch) : Nat := l.ringb / 64 - l.ringCount

/-- A record earlier in the key order. -/
def earlier (t u : TaskRec) : Bool := keyLt t.key u.key

/-- A record placed by key. -/
def placeRec (t : TaskRec) : List TaskRec → List TaskRec
  | [] => [t]
  | u :: r => if earlier t u then t :: u :: r else u :: placeRec t r

/-- Records in key order. -/
def byKey (l : List TaskRec) : List TaskRec := l.foldl (fun acc t => placeRec t acc) []

/-! ### The instructions (R389 to R394) -/

/-- The row of a task instruction. -/
def taskRow : RowInfo := { noRoot := true, feat := 0x40 }

/-- QERR with TRAPA `n`. -/
def taskTrap (n : Nat) : TrapInfo := { cause := 0x12, addr := w64 n }

/-- The launch and the running record of a context; none outside a task launch (R389). -/
def State.currentTask (s : State) (c : Ctx) : Option (Launch × TaskRec) :=
  match s.ctxLaunch? c with
  | none => none
  | some l => if l.r.lflags % 2 = 0 then none else ((s.group? c).bind (·.task)).bind (fun n => (l.task? n).map (fun t => (l, t)))

/-- A new record enters its bank; none when the bank has no room (R368, R384, R390). -/
def State.enterRecord (s : State) (l : Launch) (k : Nat) (t : TaskRec) : Option State :=
  if 4096 ≤ l.bankCount k then none
  else
    let d := dieOfCluster k
    let t' := fileTable d (s.tableRoom d) [{ t with st := .queued k, home := k }]
    some (s.onLaunch l.lid (fun l => { l with tasks := l.tasks ++ t', nextSeq := l.nextSeq + 1 }))

/-- The checks of `tspawn` on the record at an offset of the block's run, in order (R390). -/
def State.spawnTrap (s : State) (b : Block) (l : Launch) (p : TaskRec) (a off : Nat) : Option TrapInfo :=
  match (s.proc b.unit).spBadAt (b.spBase + off) 64 with
  | some g => some { cause := 0x0B, addr := spAddrOf (16 * g - b.spBase) }
  | none =>
    let v := leNat (s.spBytes b off 64)
    if !taskOk l.img v then some { cause := 0x02, addr := w64 a }
    else if at8 v 0 8 < p.ts then some { cause := 0x0E, addr := w64 (at8 v 0 8) }
    else none

/-- `tspawn` (R365, R366, R384, R390); its record is read as by `ldsp`, after the lane's own granule accesses of the same bytes
(R212). -/
def execTspawn (h : Head) (d a : Operand) (s : State) : Host.Outcome State Fault Refusal :=
  s.issue h taskRow [{ pos := .d, op := d, okP := false, okSp := false, dst := true }, { spadSlot a with low := true }] (fun s v =>
    let b := s.blockOf v.c
    let rec_ := s.num v .a
    match s.currentTask v.c with
    | none => .trap s (taskTrap 0)
    | some (l, p) =>
      if rec_ % 64 != 0 then .trap s { cause := 0x08, addr := w64 rec_ }
      else if rec_.testBit 27 then .trap s { cause := 0x02 }
      else match s.spTarget b rec_ 64 with
        | none => .trap s (boundAt rec_)
        | some (_, off) =>
          if s.behindGranule v.c 64 [(v.low, b.unit, b.spBase + off)] then .wait
          else match s.spawnTrap b l p rec_ off with
          | some t => .trap s t
          | none =>
            let n := l.nextSeq
            match s.enterRecord l (clusterOf b.unit) (taskOf (leNat (s.spBytes b off 64)) n (p.n + 1)) with
            | none => .waitIn (s.onGroup v.c (fun g => { g with spawnWait := decide (l.ringRoom = 0) }))
            | some s1 =>
              .done (((s1.orders v.c).onGroup v.c (fun g => { g with spawnWait := false })).dst v.c (v.op .d) false
                (v.act.map (fun l => (l, ⟨w64 (taskIdOf n), false⟩)))))

/-- `tend` (R391). -/
def execTend (h : Head) (s : State) : Host.Outcome State Fault Refusal :=
  s.issue h taskRow [] (fun s v =>
    match s.currentTask v.c, v.c with
    | some _, .grp bid g => if v.g.ldcnt != 0 || v.g.stcnt != 0 then .wait else .goto (s.finishTask bid g)
    | _, _ => .trap s (taskTrap 0))

/-- `tnspec` (R392). -/
def execTnspec (h : Head) (s : State) : Host.Outcome State Fault Refusal :=
  s.issue h taskRow [] (fun s v =>
    match s.currentTask v.c with
    | none => .trap s (taskTrap 0)
    | some (_, t) => if t.ns then .done (s.acquire v.c .dev) else .wait)

/-- `tabort` (R381, R393). -/
def execTabort (h : Head) (s : State) : Host.Outcome State Fault Refusal :=
  s.issue h taskRow [] (fun s v =>
    match s.currentTask v.c with
    | none => .trap s (taskTrap 0)
    | some (l, t) =>
      if t.ns then .trap s (taskTrap 1)
      else .goto ((abortTasks s l.lid [t.n] 0x045).onLaunch l.lid (fun l => l.onTask t.n (fun t => { t with unready := true }))))

/-! ### Dispatch (R370 to R372) -/

/-- Tile sets that meet. -/
def tilesMeet (a b : BitVec 32) : Bool := overlaps (field a.toNat 0 26) (field a.toNat 26 6) (field b.toNat 0 26) (field b.toNat 26 6)

/-- A record that an earlier one's declared writes hold back (R372). -/
def Launch.heldByTiles (l : Launch) (t : TaskRec) : Bool :=
  t.table.isSome && l.tasks.any (fun u => u.table.isSome && earlier u t && tilesMeet u.wtiles t.rtiles
    && (match u.st with | .queued _ | .running _ _ => true | _ => false))

/-- A queued record is ready (R370). -/
def Launch.ready (l : Launch) (t : TaskRec) : Bool :=
  (match t.st with | .queued _ => true | _ => false) && !t.unready && !l.heldByTiles t && (!t.nospec || l.front = some t.key)

/-- The lowest-key ready record of a launch. -/
def Launch.nextReady (l : Launch) : Option TaskRec := (byKey (l.tasks.filter l.ready)).head?

/-- A group of a worker block is free for dispatch (R370, R381). -/
def Group.freeWorker (g : Group) : Bool := g.task.isNone && !g.ended && !g.alive && g.pend.isEmpty && g.hold = .none

/-- A worker's group with its key of R370: when it became free, its block's index, its number. -/
abbrev FreeKey := Nat × Nat × Nat × Nat

/-- Key order of free groups. -/
def freeBefore (a b : FreeKey) : Bool :=
  if a.1 != b.1 then a.1 < b.1 else if a.2.1 != b.2.1 then a.2.1 < b.2.1 else a.2.2.1 < b.2.2.1

/-- The free groups of a launch: key, and block last. -/
def State.freeGroups (s : State) (lid : Nat) : List FreeKey :=
  (s.blocks.filter (fun b => b.lid = lid && !isRoot b.unit)).flatMap (fun b =>
    (b.groups.zipIdx.filter (fun g => g.1.freeWorker)).map (fun g => (g.1.freeSince, b.index, g.2, b.bid)))

/-- The group that a dispatch takes. -/
def firstFree : List FreeKey → Option FreeKey
  | [] => none
  | a :: r => match firstFree r with
    | none => some a
    | some b => if freeBefore b a then some b else some a

/-- A group begins a task (R75, R371): its vector registers keep what its previous task left, and the table their tags' origins. -/
def Group.startTask (g : Group) (l : Launch) (t : TaskRec) : Group :=
  { win := g.win, nscal := g.nscal, sched := g.sched, slot := g.slot, regs := g.regs, nextId := g.nextId, ordered := g.ordered
    origins := g.origins, originNext := g.originNext
    wsarea := g.wsarea, lastIssue := g.lastIssue, issueNo := g.issueNo, freeSince := g.freeSince, drain := g.drain, ltrig := g.ltrig
    lanes := List.replicate 32 { pc := l.r.imageva + w64 t.entry }, scal := entryScalars l t.args
    ts := w64 t.ts, taskid := BitVec.ofNat 32 (taskIdOf t.n), task := some t.n }

/-- Stopped groups whose counts have fallen to 0 are free from now (R381). -/
def State.settleStopped (s : State) : State :=
  { s with blocks := s.blocks.map (fun b => { b with groups := b.groups.map (fun g =>
      if g.stopping && g.pend.isEmpty then { g with stopping := false, freeSince := s.now } else g) }) }

/-- `TASK_DISPATCH`: one decision for a launch (R370, R371). -/
def execTaskDispatch (lid : Nat) (s0 : State) : Host.Outcome State Fault Refusal :=
  let s := s0.settleStopped
  match s.launch? lid with
  | none => .next s
  | some l =>
    match firstFree (s.freeGroups lid), l.nextReady with
    | some k, some t =>
      .next ((s.onLaunch lid (fun l => l.onTask t.n (fun t =>
        { t with
          st := .running k.2.2.2 k.2.2.1, ns := decide (l.front = some t.key)
          home := ((s.block? k.2.2.2).map (fun b => clusterOf b.unit)).getD t.home }))).onGroup (.grp k.2.2.2 k.2.2.1)
          (fun g => g.startTask l t))
    | _, _ => .next s

/-- `tyield` (R394). -/
def execTyield (h : Head) (s : State) : Host.Outcome State Fault Refusal :=
  s.issue h taskRow [] (fun s v =>
    match s.currentTask v.c with
    | none => .trap s (taskTrap 0)
    | some (l, t) =>
      if !t.ns && (s.freeGroups l.lid).isEmpty && l.tasks.any (fun u => l.ready u && earlier u t) then
        .goto (abortTasks s l.lid [t.n] 0x045)
      else .done s)

/-! ### The frontier and commits (R367, R374, R380, R385) -/

/-- A task's versions written into their lines and its marks dropped (R380, R385). -/
def State.publishVersions (s : State) (lid n : Nat) : State :=
  let mine := s.versions.filter (fun v => v.lid = lid && v.n = n)
  let s1 := { s with versions := s.versions.filter (fun v => !(v.lid = lid && v.n = n)) }
  let s2 := if mine.isEmpty then s1 else s1.unstall
  mine.foldl (fun s v => match v.ver with
    | some (d, m) =>
      (if v.bad then (s.noteBad v.line 3 lid).homeWriteBad else s.homeWrite) (.publish lid) v.key v.line
        (((List.range 128).filter (fun i => m.getLsbD i)).map (fun i => (i, lineByte d i)))
    | none => s) s2

/-- A deferred trap is delivered once its task is non-speculative (R386). -/
def State.releaseDeferred (s : State) (bid g : Nat) : State :=
  match s.group? (.grp bid g) with
  | some gr => if gr.hold = .deferred then s.deliverTrap (.grp bid g) else s
  | none => s.onGroupAny bid g (fun x => if x.hold = .deferred then { x with hold := .svWait } else x)

/-- A running task becomes non-speculative (R374, R380, R386). -/
def State.becomeNs (s : State) (lid : Nat) (t : TaskRec) : State :=
  match t.st with
  | .running bid g =>
    if t.ns then s
    else
      let s1 := s.onLaunch lid (fun l => l.onTask t.n (fun t => { t with ns := true, stalled := none }))
      (s1.publishVersions lid t.n).releaseDeferred bid g
  | _ => s

/-- `eccPublish`: a version of the task that is to commit meets an uncorrectable error as it is written into its line (R385). -/
def State.spoilPublish (s : State) (lid n line : Nat) : State :=
  match (s.launch? lid).bind (fun l => (l.task? n).filter (fun t => t.isFinished && l.front = some t.key)) with
  | none => s
  | some _ => { s with versions := s.versions.map (fun v =>
      if v.lid = lid && v.n = n && v.line = line && v.ver.isSome then { v with bad := true } else v) }

/-- `FRONTIER_PUBLISH`: the frontier tree publishes the lowest key of a launch's uncommitted records (R367, R374). -/
def execFrontierPublish (lid : Nat) (s : State) : Host.Outcome State Fault Refusal :=
  match s.launch? lid with
  | none => .next s
  | some l =>
    if l.r.lflags % 2 = 0 then .next s
    else
      let k := l.lowest
      let s1 := s.onLaunch lid (fun l => { l with front := k })
      match l.tasks.find? (fun t => some t.key = k) with
      | none => .next s1
      | some t => .next (s1.becomeNs lid t)

/-- The release of a commit writes back the L1s of the cluster where the task ran (R259). -/
def State.commitRelease (s : State) (k : Nat) : State := (List.range 8).foldl (fun s i => s.l1Clean (8 * k + i)) s

/-- `TASK_COMMIT`: the finished task whose key is published commits (R385). -/
def execTaskCommit (lid : Nat) (s : State) : Host.Outcome State Fault Refusal :=
  match s.launch? lid with
  | none => .next s
  | some l =>
    match l.tasks.find? (fun t => l.front = some t.key) with
    | none => .next s
    | some t =>
      match t.st with
      | .finished k =>
        let s1 := ((s.publishVersions lid t.n).commitRelease k).taskEvent 0x040 lid
        .next (s1.onLaunch lid (fun l =>
          { l with tasks := (l.tasks.filter (fun u => u.n != t.n)).map (fun u => { u with unready := false }) }))
      | _ => .next s

/-! ### The spill engine (R369) -/

/-- The 64 bytes of a record as the task system keeps it (Table 18-1). -/
def TaskRec.image (t : TaskRec) : List Byte :=
  leBytes t.ts 8 ++ leBytes t.entry 4 ++ leBytes (if t.nospec then 1 else 0) 4
    ++ leBytes (if t.parent = 0 then 0 else taskIdOf (t.parent - 1)) 4 ++ leBytes (t.n % 2 ^ 32) 4
    ++ t.args.flatMap (fun a => leBytes a.toNat 8) ++ leBytes t.rtiles.toNat 4 ++ leBytes t.wtiles.toNat 4

/-- A record's image written at its place in the launch's ring, as far as that can be written (R364, R369). -/
def State.putImage (s : State) (l : Launch) (t : TaskRec) : State :=
  match s.deviceXl (l.xctx none) l.r.part .write (l.ringva + w64 (64 * t.ring)) with
  | (s1, .ok (y, sp)) => s1.devicePut y sp t.image
  | (s1, .error _) => s1

/-- Records with the lowest free places of a ring. -/
def ringPlaces (used : List Nat) : List TaskRec → List TaskRec
  | [] => []
  | t :: r =>
    let k := ((List.range (used.length + 1)).find? (fun i => !used.contains i)).getD 0
    { t with st := .spilled, table := none, ring := k } :: ringPlaces (k :: used) r

/-- Records of a launch moved to its ring, and what they become there. -/
def Launch.spill (l : Launch) (ts : List TaskRec) : Launch × List TaskRec :=
  let out := ringPlaces ((l.tasks.filter TaskRec.inRing).map (·.ring)) ts
  ({ l with tasks := l.tasks.map (fun t => (out.find? (fun u => u.n = t.n)).getD t) }, out)

/-- Records of a launch spilled, with their images (R369). -/
def State.spillRecords (s : State) (l : Launch) (ts : List TaskRec) : State :=
  let (l', out) := l.spill ts
  out.foldl (fun s t => s.putImage l t) (s.onLaunch l.lid (fun x => { x with tasks := l'.tasks }))

/-- Records moved from the ring into bank `k`, with `room` entries left in its die's dependence table. -/
def Launch.refill (l : Launch) (k room : Nat) (ts : List TaskRec) : Launch :=
  let filed := fileTable (dieOfCluster k) room (ts.map (fun t => { t with st := .queued k, home := k }))
  { l with tasks := l.tasks.map (fun t => (filed.find? (fun u => u.n = t.n)).getD t) }

/-- Each moved record is counted. -/
def State.countMoves (s : State) (ev lid n : Nat) : State := (List.range n).foldl (fun s _ => s.taskEvent ev lid) s

/-- The bank of a launch with the most free room, ties to the lowest cluster. -/
def Launch.roomiest (l : Launch) : Option Nat := greatestBy (fun k => -(l.bankCount k : Int)) l.banks

/-- Records refilled into a bank; the ring is to be rescanned (R369). -/
def State.refillInto (s : State) (l : Launch) (k : Nat) (ts : List TaskRec) : State :=
  (s.onLaunch l.lid (fun x => { x.refill k (s.tableRoom (dieOfCluster k)) ts with
    ringOld := lowestKey (x.tasks.filter TaskRec.inRing) })).countMoves 0x049 l.lid ts.length

/-- The record that holds the frontier, when the ring holds it and a bank has room for it. -/
def Launch.frontierRefill (l : Launch) : Option (Nat × TaskRec) :=
  match l.tasks.find? (fun t => t.inRing && some t.key = l.lowest), l.roomiest with
  | some t, some k => if l.bankCount k < 4096 then some (k, t) else none
  | _, _ => none

/-- Records that the spill engine of a bank's die may still move in this 10,000 ns (R454). -/
def State.moveRoom (s : State) (k : Nat) : Nat := s.paceRoom 2 (dieOfCluster k) / 64

/-- `n` records moved by the spill engine of a bank's die, under its cap (R454): nothing moves while it is used up. -/
def State.moveRecords (s : State) (k n : Nat) (f : State → State) : State :=
  if n = 0 then s else ((s.paced 2 (dieOfCluster k) (64 * n)).map f).getD s

/-- Bank `k` in a list of broken-off moves, or out of it. -/
def setMoving (l : List Nat) (k : Nat) (on : Bool) : List Nat := if on then NatSet.insert l k else l.filter (· != k)

/-- Records of bank `k` that a spill has still to move: it begins above 3,840 and goes down to 3,584 (R369). -/
def Launch.toSpill (l : Launch) (k : Nat) : Nat :=
  if 3840 < l.bankCount k || l.spilling.contains k then min (l.bankCount k - 3584) l.ringRoom else 0

/-- Records that a refill of bank `k` has still to move: it begins below 1,024 and goes up to 2,048 (R369). -/
def Launch.toRefill (l : Launch) (k : Nat) : Nat :=
  if l.bankCount k < 1024 || l.refilling.contains k then min (2048 - l.bankCount k) l.ringCount else 0

/-- The highest-key records of bank `k` spilled, as many of `n` as the cap lets through. -/
def State.spillBank (s : State) (l : Launch) (k n : Nat) : State :=
  let out := ((byKey (l.tasks.filter (TaskRec.inBank k))).reverse).take (min n (s.moveRoom k))
  (s.moveRecords k out.length (fun s => (s.spillRecords l out).countMoves 0x048 l.lid out.length)).onLaunch l.lid
    (fun l => { l with spilling := setMoving l.spilling k (out.length < n) })

/-- The ring's lowest-key records refilled into bank `k`, as many of `n` as the cap lets through. -/
def State.refillBank (s : State) (l : Launch) (k n : Nat) : State :=
  let ts := (byKey (l.tasks.filter TaskRec.inRing)).take (min n (s.moveRoom k))
  (s.moveRecords k ts.length (fun s => s.refillInto l k ts)).onLaunch l.lid
    (fun l => { l with refilling := setMoving l.refilling k (ts.length < n) })

/-- A launch whose broken-off moves with nothing left to move are over. -/
def Launch.settleMoves (l : Launch) : Launch :=
  { l with spilling := l.spilling.filter (fun k => l.toSpill k != 0), refilling := l.refilling.filter (fun k => l.toRefill k != 0) }

/-- `TASK_SPILL_ENGINE`: the spill engine's next move for a launch: the frontier record's refill first, then the end of a rescan,
then a spill, then a refill (R369). -/
def execTaskSpillEngine (lid : Nat) (s0 : State) : Host.Outcome State Fault Refusal :=
  let s := s0.onLaunch lid Launch.settleMoves
  match s.launch? lid with
  | none => .next s
  | some l =>
    match l.frontierRefill with
    | some (k, t) => .next (s.moveRecords k 1 (fun s => s.refillInto l k [t]))
    | none =>
      if l.ringOld.isSome then .next (s.onLaunch lid (fun l => { l with ringOld := none }))
      else match l.banks.find? (fun k => l.toSpill k != 0) with
      | some k => .next (s.spillBank l k (l.toSpill k))
      | none =>
        match l.banks.find? (fun k => l.toRefill k != 0) with
        | some k => .next (s.refillBank l k (l.toRefill k))
        | none => .next s

/-! ### Capacity (R383, R384) -/

/-- A stalled record: the TIME since which it stalls, its launch, and the record. -/
abbrev Stall := Nat × Nat × TaskRec

/-- The stalls of every launch. -/
def State.stalls (s : State) : List Stall :=
  s.launches.flatMap (fun l => l.tasks.filterMap (fun t => t.stalled.map (fun x => (x.1, l.lid, t))))

/-- The oldest stall; of two that began together, that of the earlier record. -/
def oldestStall : List Stall → Option Stall
  | [] => none
  | a :: r => match oldestStall r with
    | none => some a
    | some b => if b.1 < a.1 || (b.1 = a.1 && earlier b.2.2 a.2.2) then some b else some a

/-- `CAPACITY_ABORT`: the oldest stall is a task of this launch that has waited 65,536 ns (R383). -/
def execCapacityAbort (lid : Nat) (s : State) : Host.Outcome State Fault Refusal :=
  match oldestStall s.stalls with
  | some (x, l, t) => .next (if l = lid && x + 65536 ≤ s.now then abortTasks s lid [t.n] 0x044 else s)
  | none => .next s

/-- A non-speculative task of the launch waits in `tspawn` for room in bank and ring (R384). -/
def State.spawnStuck (s : State) (l : Launch) : Bool :=
  l.ringRoom = 0 && l.tasks.any (fun t => t.ns && (match t.st with
    | .running bid g => (s.group? (.grp bid g)).any (fun x => x.spawnWait)
        && (s.block? bid).any (fun b => 4096 ≤ l.bankCount (clusterOf b.unit))
    | _ => false))

/-- `SPAWN_CAPACITY_ABORT`: the last running speculative task makes room, or the launch ends (R384). -/
def execSpawnCapacityAbort (lid : Nat) (s : State) : Host.Outcome State Fault Refusal :=
  match s.launch? lid with
  | none => .next s
  | some l =>
    if !s.spawnStuck l || l.spawnAbort.any (fun t => s.now < t + 1000) then .next s
    else match youngest l.tasks with
      | some t => .next ((abortTasks s lid [t.n] 0x044).onLaunch lid (fun l => { l with spawnAbort := some s.now }))
      | none => .next (s.killLaunch lid 0x12).trimHeld

end Sys2Proof.Machine
end

