-- ==== Sys2Proof/Machine/Root.lean ====
section
/-! DEFINITION. Calls of root blocks (R311 to R321), near-bank commands (R322 to R327) and landings (R328 to
R333, R438, R439). -/

namespace Sys2Proof.Machine

/-! ### `rcall` at issue (R311 to R314) -/

/-- The bytes of a range page by page. -/
def pageRuns (va : W64) (n : Nat) : List (W64 × Nat) :=
  (List.range (pagesOf va n)).map (fun i =>
    let off := if i = 0 then 0 else 4096 * i - va.toNat % 4096
    let at_ := va + w64 off
    (at_, min (n - off) (4096 - at_.toNat % 4096)))

/-- One page's part of a range: its address, its place, its length, and whether it is of a write range. -/
structure RangePart where
  va : W64
  pa : Nat
  n : Nat
  wr : Bool
  /-- the stack that holds it, when the launch may reach one there -/
  stack : Option Nat
  /-- the level of its leaf, and whether that is global -/
  level : Nat := 1
  glob : Bool := false

/-- The stack of a translated access (R308, R52). -/
def State.stackAt (s : State) (c : Ctx) (x : Xl) : Option Nat :=
  match s.reach c x with
  | .memory _ => if isHbm x.pa then (s.hbmPlace x.pa).map (fun e => e.1 / 64) else none
  | _ => none

/-- Parts of ranges translated in order; the first that fails names its cause and address. -/
def State.translateParts (s : State) (c : Ctx) : List (W64 × Nat × Bool) → State × Except TrapInfo (List RangePart)
  | [] => (s, .ok [])
  | (va, n, wr) :: r =>
    match s.translate (s.xctx c) 1 (if wr then .write else .read) va with
    | (s1, .error e) => (s1, .error { cause := e, addr := va, write := wr })
    | (s1, .ok x) =>
      match s1.translateParts c r with
      | (s2, .error t) => (s2, .error t)
      | (s2, .ok ps) =>
        let p : RangePart :=
          { va, pa := x.pa, n, wr, stack := s1.stackAt c x, level := s1.leafLevel (s1.xctx c) 1 va, glob := leafGlobal x.leaf }
        (s2, .ok (p :: ps))

/-- The limits of Table 16-2 on a message, as a number. -/
def messageOk (m : Nat) : Bool :=
  let groups := at8 m 0 1
  let win := at8 m 1 1
  let nr := at8 m 3 1
  let sram := at8 m 4 4
  1 ≤ groups && groups ≤ 8 && 1 ≤ win && win ≤ 16 && groups * segOf win ≤ 128 && 1 ≤ at8 m 2 1 && at8 m 2 1 ≤ 64
    && 1 ≤ nr && nr ≤ 8 && sram % 4096 = 0 && 4096 ≤ sram && sram ≤ 524288 && at8 m 8 8 = 0
    && (List.range nr).all (fun i => 1 ≤ at8 m (0x18 + 16 * i) 4 && at8 m (0x1C + 16 * i) 4 ≤ 1)

/-- The ranges of a message, page by page. -/
def messageParts (m : Nat) : List (W64 × Nat × Bool) :=
  (List.range (at8 m 3 1)).flatMap (fun i =>
    (pageRuns (w64 (at8 m (0x10 + 16 * i) 8)) (at8 m (0x18 + 16 * i) 4)).map (fun p =>
      (p.1, p.2, at8 m (0x1C + 16 * i) 4 = 1)))

/-- The lines that parts of ranges overlap. -/
def partLines (ps : List RangePart) : List Nat :=
  ps.flatMap (fun p => (List.range ((p.pa + p.n - 1) / 128 - p.pa / 128 + 1)).map (fun i => p.pa / 128 + i))

/-- The message's place (Table 16-3 check 1): MISAL, then BOUND. -/
def State.messageAt (s : State) (b : Block) (a : Nat) : Except TrapInfo (Block × Nat) :=
  if a % 16 != 0 then .error { cause := 0x08, addr := w64 a }
  else if a.testBit 27 then .error (boundAt a)
  else match s.spTarget b a 256 with
    | none => .error (boundAt a)
    | some t => .ok t

/-- `rcall` (R257, R311 to R314). A message in a poison-marked granule raises POISON with TRAPA the granule, before the ILLOPND of
Table 16-3: a choice of the model's (DESIGN CHOICE, log entry 126). -/
def execRcall (h : Head) (a b c : Operand) (m : OrdMod) (s : State) : Host.Outcome State Fault Refusal :=
  s.issue h { noRoot := true, st := true, parks := true, feat := 0x100 }
    [numSlot .a a, numSlot .b b, scalarSlot .c c] (fun s v =>
    let blk := s.blockOf v.c
    let addr := s.num v .a
    let entry := (s.wide v .c).toNat
    match s.messageAt blk addr, s.barAt v (s.num v .b) with
    | .error t, _ => .trap s t
    | _, .error t => .trap s t
    | .ok (mb, off), .ok (bb, boff) =>
      let msg := s.spBytes mb off 256
      let n := leNat msg
      match (s.proc mb.unit).spBadAt (mb.spBase + off) 256, s.ctxLaunch? v.c with
      | some g, _ => .trap s { cause := 0x0B, addr := w64 (16 * g - mb.spBase) }
      | none, none => .trap s { cause := 0x02, addr := w64 addr }
      | none, some l =>
        if !messageOk n || !l.img.entryOk entry then .trap s { cause := 0x02, addr := w64 addr }
        else match s.translateParts v.c (messageParts n) with
          | (_, .error t) => .trap s t
          | (s1, .ok ps) =>
            let home := ps.head?.bind (fun p => p.stack)
            match ps.find? (fun p => home.isNone || p.stack != home) with
            | some p => .trap s { cause := 0x0A, addr := p.va }
            | none => s1.engineAcquire v m.acq (fun s =>
                let s2 := s.counted v.c false [] 1
                let (bid, g) := cmdOwner v.c
                .done { s2 with
                  nextCall := s2.nextCall + 1
                  calls := s2.calls ++ [
                    { id := s2.nextCall, lid := l.lid, caller := bid, g, pend := v.g.nextId
                      owner := ((ps.head?.bind (fun p => s2.ownerOf p.pa)).getD 0), msg, entry
                      barBid := bb.bid, barOff := boff, rel := m.rel, pages := ps.map (fun p => (p.va, p.level, p.glob))
                      rlines := partLines (ps.filter (fun p => !p.wr)), wlines := partLines (ps.filter (fun p => p.wr))
                      index := blk.index, coords := blk.blk ++ blk.clu, stage := blk.stage, part := s2.partOf v.c }] }))

/-! ### Delivery, placement and return (R314 to R316, R319) -/

/-- The state with a call changed. -/
def State.onCall (s : State) (id : Nat) (f : RCall → RCall) : State :=
  { s with calls := s.calls.map (fun c => if c.id = id then f c else c) }

/-- A dirty line of a crown-die L2 written back to memory, where it stays (R314). -/
def State.cleanL2 (s : State) (line : Nat) : State :=
  match Cells.find s.l2 line with
  | some l => if l.st = .dt then s.evictL2 line else s
  | none => s

/-- `RCALL_DELIVER`: call `k`, not yet delivered, has its ranges' lines written back, and dropped for a write range,
and enters its owner's inbox when it has room (R311, R314). -/
def execRcallDeliver (k : Nat) (s : State) : Host.Outcome State Fault Refusal :=
  match s.calls[k]? with
  | none => .next s
  | some c =>
    if c.st != .issued then .next s
    else
      let s1 := c.wlines.foldl State.evictL2 (c.rlines.foldl State.cleanL2 s)
      let u := 0x8000 + c.owner
      if 32 ≤ (s1.proc u).inbox.length then .next s1
      else
        let s2 := (s1.onProc u (fun p => { p with inbox := p.inbox ++ [c.id] })).onCall c.id (fun c => { c with st := .inbox })
        .next (s2.onGroupAny c.caller c.g (fun g => g.complete c.pend))

/-- The scalars of a root block at entry (R316). -/
def rootScalars (n lid index : Nat) : Cells Scal :=
  ([0, 256, lid, index].zipIdx.filter (fun v => v.2 < n)).foldl (fun m v => Cells.put {} m v.2 ⟨w64 v.1, false⟩) []

/-- A root block at entry (R316). -/
def rootBlock (l : Launch) (c : RCall) (bid now : Nat) (f : Fit) : Block :=
  let m := leNat c.msg
  let win := at8 m 1 1
  { bid, lid := c.lid, stage := c.stage, blk := c.coords.take 3, clu := c.coords.drop 3, index := c.index
    unit := 0x8000 + c.owner, segBase := f.seg, segLen := at8 m 0 1 * segOf win, spBase := f.sp, spLen := at8 m 4 4
    accBase := 0, accLen := 0, call := some c.id
    groups := f.slots.map (fun x =>
      { width := 16, win, nscal := at8 m 2 1, sched := x.1, slot := x.2, freeSince := now
        lanes := List.replicate 16 { pc := l.r.imageva + w64 c.entry }
        scal := rootScalars (at8 m 2 1) c.lid c.index }) }

/-- `ROOT_CALL_PLACE`: the head call of root core `r`'s inbox is placed when it fits (R307, R315, R316). -/
def execRootCallPlace (r : Nat) (s : State) : Host.Outcome State Fault Refusal :=
  let u := 0x8000 + r
  match (s.proc u).inbox with
  | [] => .next s
  | id :: rest =>
    match s.calls.find? (fun c => c.id = id) with
    | none => .next (s.onProc u (fun p => { p with inbox := rest }))
    | some c =>
      let m := leNat c.msg
      let need : Need := { segs := at8 m 0 1 * segOf (at8 m 1 1), sp := at8 m 4 4, acc := 0, groups := at8 m 0 1 }
      if !s.rootEnabled r || (s.proc u).halted || c.st != .inbox then .next s
      else match s.launch? c.lid, fitOn u (s.blocksOn u) need with
        | some l, some f =>
          let b := rootBlock l c s.nextBid s.now f
          let s1 := s.onProc u (fun p =>
            let p1 := { p.enterRuns b.bid (b.owner c.part) with power := .c0, inbox := rest }
            p1.spWrite b.spBase c.msg true)
          .next ({ s1 with blocks := s1.blocks ++ [b], nextBid := s1.nextBid + 1 }.onCall id (fun c => { c with st := .running b.bid }))
        | _, _ => .next s

/-- `rret` (R318). -/
def execRret (h : Head) (a : Operand) (s : State) : Host.Outcome State Fault Refusal :=
  s.issue h { rootOnly := true, feat := 0x100 }
    [{ pos := .a, op := a, okP := false, okSp := false, consumed := true, low := true }] (fun s v =>
    let leave (s : State) : State := s.onGroup v.c (fun g => g.leave v.act v.others)
    match v.c with
    | .sup _ _ => .goto (leave s)
    | .grp bid g =>
      let r : BitVec 32 := (s.src v.c v.g (v.op .a) false none v.low).v.setWidth 32
      let s1 := leave (s.onBlock bid (fun b => { b with result := some (b.result.getD r) }))
      .goto (if (v.g.leave v.act v.others).alive then s1 else s1.groupEnded bid g))

/-- A root block all of whose work is done (R319 step 1). -/
def State.rootDone (s : State) (b : Block) : Bool :=
  let p := s.proc b.unit
  isRoot b.unit && b.groups.all (fun g => g.ended && g.pend.isEmpty) && !p.cmds.any (fun c => c.bid = b.bid)
    && !p.bnk.any (fun c => c.bid = b.bid)

/-- A root block returns: its write ranges leave every L2, and the arrival is made, after which its runs become free, or held
(R319 to R321). -/
def State.rootReturn (s : State) (b : Block) : State :=
  match s.calls.find? (fun c => some c.id = b.call) with
  | none => s.freeBlock b
  | some c =>
    if c.st = .returned then s
    else
    let s1 := c.wlines.foldl State.evictL2 s
    let err : BitVec 8 := b.cause.getD 0
    let result : BitVec 32 := if b.cause.isSome then 0 else b.result.getD 0
    (s1.onCall c.id (fun x => { x with st := .returned, result, err })).makeReturns

/-- `ROOT_BLOCK_RETURN` (R319, R321, R414). -/
def execRootBlockReturn (bid : Nat) (s : State) : Host.Outcome State Fault Refusal :=
  match s.block? bid with
  | none => .next s
  | some b => .next (if s.rootDone b then s.rootReturn b else s)

/-! ### Near-bank commands (R322 to R326) -/

/-- Width of a near-bank element. -/
def bnkWidth (ty : Ty) : Nat := tyBytes ty

/-- The operations of Table 16-4, by number, that read A and B: `dot` 0, `axpy` 1, `scale` 2, `fill` 3, `copy` 4,
`red` 5. -/
def bnkTwo (op : Nat) : Bool := op = 0 || op = 1 || op = 2 || op = 4

/-- The operation writes vector A. -/
def bnkWrites (op : Nat) : Bool := 1 ≤ op && op ≤ 4

/-- One operand vector: its address and its pages. -/
structure BnkVec where
  va : W64
  parts : List (Xl × Nat)

/-- The pages of an operand translated; none when one fails (reason 1). -/
def State.bnkPages (s : State) (c : Ctx) (k : AccKind) : List (W64 × Nat) → State × Option (List (Xl × Nat))
  | [] => (s, some [])
  | (va, n) :: r =>
    match s.translate (s.xctx c) 1 k va with
    | (s1, .error _) => (s1, none)
    | (s1, .ok x) =>
      match s1.bnkPages c k r with
      | (s2, none) => (s2, none)
      | (s2, some l) => (s2, some ((x, n) :: l))

/-- The physical start of an operand. -/
def BnkVec.pa (x : BnkVec) : Nat := ((x.parts.head?).map (fun p => p.1.pa)).getD 0

/-- A control word's VAL obeys R323 for an operation. -/
def State.bnkValOk (s : State) (b : Block) (op val : Nat) : Bool :=
  if op = 0 || op = 5 then val % 4 = 0 && !val.testBit 27 && (s.spTarget b val 4).isSome
  else if op = 4 then val = 0
  else true

/-- The reason of Table 16-5 for which a command is rejected, after reason 1; 0 when it is accepted. -/
def State.bnkReason (s : State) (c : Ctx) (op : Nat) (ty : Ty) (ctl : Nat) (vs : List BnkVec) : Nat :=
  let n := field ctl 0 24
  let bytes := n * bnkWidth ty
  let st := stackOf (s.ctxUnit c)
  let pas := vs.map BnkVec.pa
  let x := takeAt 0 pas 0
  let y := takeAt 0 pas 1
  let two := vs.length = 2
  if vs.any (fun v => v.parts.any (fun p => !leafNb p.1.leaf)) then 2
  else if vs.any (fun v => v.parts.any (fun p =>
      s.perStackOf p.1.pa != some st || s.stackAt c p.1 != some st)) then 3
  else if vs.any (fun v => 2 ^ 21 < v.va.toNat % 2 ^ 21 + bytes) then 4
  else if vs.any (fun v => v.va.toNat % 32 != 0) || bytes % 32 != 0 then 5
  else if two && (max x y - min x y) % (4096 * s.stackPchans st) != 0 then 6
  else if two && ((x != y && overlaps x bytes y bytes) || (x = y && (op = 0 || op = 1 || op = 4))) then 7
  else if n = 0 || 2 ^ 20 < n || field ctl 24 8 != 0 || !s.bnkValOk (s.blockOf c) op (field ctl 32 32) then 8
  else 0

/-- A `bnk` operand B: a scalar, or the immediate 0 of `fill` and `red` (R323). -/
def bnkSlotB (op : Nat) (b : Operand) : Slot :=
  if bnkTwo op then scalarSlot .b b
  else { scalarSlot .b b with okS := false, okK := match b with | .k v => v = 0 | _ => false }

/-- PROT of the first page of a command's operands that lies in a peer window (R436). -/
def bnkPeer (runs : List (W64 × Nat)) (l : List (Xl × Nat)) : Option TrapInfo :=
  ((runs.zip l).find? (fun p => isPeerWin p.2.1.pa)).map (fun p => { cause := 0x0A, addr := p.1.1 })

/-- The pages of an operand with the levels of their leaves, and whether those are global (R418). -/
def State.pagesUsed (s : State) (c : Ctx) (runs : List (W64 × Nat)) (l : List (Xl × Nat)) : List (W64 × Nat × Bool) :=
  (runs.zip l).map (fun p => (p.1.1, s.leafLevel (s.xctx c) 1 p.1.1, leafGlobal p.2.1.leaf))

/-- A near-bank command at issue (R322 to R325, R436). -/
def State.bnk (s : State) (h : Head) (op : Nat) (ty : Ty) (a b c : Operand) : Host.Outcome State Fault Refusal :=
  s.issue h { rootOnly := true, feat := 0x100, st := true } [scalarSlot .a a, bnkSlotB op b, scalarSlot .c c] (fun s v =>
    let va := s.wide v .a
    let vb := s.wide v .b
    let ctl := (s.wide v .c).toNat
    let bytes := max 1 (field ctl 0 24 * bnkWidth ty)
    let (s1, pa) := s.bnkPages v.c (if bnkWrites op then .write else .read) (pageRuns va bytes)
    let (s2, pb) := if bnkTwo op then s1.bnkPages v.c .read (pageRuns vb bytes) else (s1, some [])
    match pa, pb with
    | some la, some lb =>
      let vs : List BnkVec := ⟨va, la⟩ :: (if bnkTwo op then [⟨vb, lb⟩] else [])
      let reason := s2.bnkReason v.c op ty ctl vs
      let u := s.ctxUnit v.c
      let (bid, g) := cmdOwner v.c
      match (bnkPeer (pageRuns va bytes) la).orElse (fun _ => bnkPeer (pageRuns vb bytes) lb) with
      | some t => .trap s t
      | none =>
      if reason != 0 then .trap s { cause := 0x14, addr := w64 reason }
      else if 16 ≤ (s2.proc u).bnk.length then .wait
      else
        .done ((s2.counted v.c false [] 1).onProc u (fun p => { p with bnk := p.bnk ++ [
          { bid, g, pend := v.g.nextId, op, ty, apa := takeAt 0 (vs.map BnkVec.pa) 0, bpa := takeAt 0 (vs.map BnkVec.pa) 1
            pages := s2.pagesUsed v.c (pageRuns va bytes) la ++ s2.pagesUsed v.c (pageRuns vb bytes) lb
            n := field ctl 0 24, val := BitVec.ofNat 32 (field ctl 32 32) }] }))
    | _, _ => .trap s { cause := 0x14, addr := 1 })

/-- `bnk.dot` (R322 to R325). -/
def execBnkDot (h : Head) (ty : Ty) (a b c : Operand) (s : State) : Host.Outcome State Fault Refusal := s.bnk h 0 ty a b c
/-- `bnk.axpy` (R322 to R325). -/
def execBnkAxpy (h : Head) (ty : Ty) (a b c : Operand) (s : State) : Host.Outcome State Fault Refusal := s.bnk h 1 ty a b c
/-- `bnk.scale` (R322 to R325). -/
def execBnkScale (h : Head) (ty : Ty) (a b c : Operand) (s : State) : Host.Outcome State Fault Refusal := s.bnk h 2 ty a b c
/-- `bnk.fill` (R322 to R325). -/
def execBnkFill (h : Head) (ty : Ty) (a b c : Operand) (s : State) : Host.Outcome State Fault Refusal := s.bnk h 3 ty a b c
/-- `bnk.copy` (R322 to R325). -/
def execBnkCopy (h : Head) (ty : Ty) (a b c : Operand) (s : State) : Host.Outcome State Fault Refusal := s.bnk h 4 ty a b c
/-- `bnk.red` (R322 to R325). -/
def execBnkRed (h : Head) (ty : Ty) (a b c : Operand) (s : State) : Host.Outcome State Fault Refusal := s.bnk h 5 ty a b c

/-- The elements of a vector as a BAU reads them, an uncorrectable column's as the poison NaN (R326). -/
def State.bnkRead (s : State) (pa n : Nat) (ty : Ty) : List Nat :=
  let w := bnkWidth ty
  (List.range n).map (fun i =>
    let at_ := pa + w * i
    if s.dramBad at_ then ((fmtOf ty).poison).getD 0 else leNat (s.dramBytes 0 at_ w))

/-- The uncorrectable columns of a vector's bytes, ascending (R326). -/
def State.bnkBad (s : State) (pa bytes : Nat) : List Nat :=
  ((List.range (bytes / 32)).map (fun i => pa + 32 * i)).filter s.dramBad

/-- The result element of a near-bank operation that writes a vector (Table 16-4, R323). -/
def bnkElem (op : Nat) (ty : Ty) (a : Nat) (x y : Nat) : Nat :=
  let f := fmtOf ty
  let va := fF32.decode a
  let vx := f.decode x
  let vy := f.decode y
  match op with
  | 1 => (f.dotOut {} [va, vx, vy] [(va, vx)] [vy] 0).bits
  | 2 => (f.dotOut {} [va, vx] [(va, vx)] [] 0).bits
  | 3 => (f.dotOut {} [va] [] [va] 0).bits
  | _ => x

/-- The result of `dot` and `red` (Table 16-4, R323). -/
def bnkSum (op : Nat) (ty : Ty) (xs ys : List Nat) : Nat :=
  let f := fmtOf ty
  let vx := xs.map f.decode
  let vy := ys.map f.decode
  if op = 0 then (fF32.dotOut {} (vx ++ vy) (vx.zip vy) [] 0).bits else (fF32.dotOut {} vx [] vx 0).bits

/-- The vectors a command reads: x for `dot`, `red`; y and x for `axpy`; x for `scale` and `copy`. -/
def BnkCmd.reads (k : BnkCmd) : List Nat :=
  match k.op with
  | 0 | 1 => [k.apa, k.bpa]
  | 5 => [k.apa]
  | 3 => []
  | _ => [k.bpa]

/-- The register that records a column's failure (R327). -/
def State.berrOf (s : State) (pa : Nat) : W64 :=
  match s.hbmPlace pa with
  | none => 0
  | some (e, o) => Cells.get 0 (s.proc (0x8000 + e / 2)).berr (32 * (e % 2) + ((dramPlace (o / 32)).extractLsb' 0 5).toNat)

/-- A command's effect on memory and on local SRAM, where the granule of a sum over a failing column is marked (R286, R323,
R326). -/
def State.bnkPerform (s : State) (k : BnkCmd) (bad : Bool) : State :=
  let w := bnkWidth k.ty
  let rd (pa : Nat) : List Nat := s.bnkRead pa k.n k.ty
  if bnkWrites k.op then
    let xs := if k.op = 3 then List.replicate k.n 0 else rd k.bpa
    let ys := if k.op = 1 then rd k.apa else List.replicate k.n 0
    s.dramWriteBytes 0 k.apa ((xs.zip ys).flatMap (fun e => leBytes (bnkElem k.op k.ty k.val.toNat e.1 e.2) w))
  else
    let r := bnkSum k.op k.ty (rd k.apa) (if k.op = 0 then rd k.bpa else [])
    match s.block? k.bid with
    | some b =>
      let off := field k.val.toNat 0 21
      s.spFill b.unit (b.spBase + off) (leBytes r 4) (if bad then granulesOf (b.spBase + off) 4 else [])
    | none => s

/-- `BNK_COMMAND_COMPLETE`: the head command of root core `r` is performed by every BAU and completes (R325, R326,
R327, R483). -/
def execBnkCommandComplete (r : Nat) (s : State) : Host.Outcome State Fault Refusal :=
  let u := 0x8000 + r
  match (s.proc u).bnk with
  | [] => .next s
  | k :: rest =>
    let s := k.reads.foldl (fun s pa => s.dramTouchAll pa (k.n * bnkWidth k.ty)) s
    let bad := sortBy (fun c => c) (k.reads.flatMap (fun pa => s.bnkBad pa (k.n * bnkWidth k.ty))).eraseDups
    let s1 := (bad.foldl (fun s c => s.berrAdd c 0) (s.bnkPerform k !bad.isEmpty)).onProc u (fun p => { p with bnk := rest })
    let s2 := s1.onGroupAny k.bid k.g (fun g => g.complete k.pend)
    .next (match bad.head? with
      | none => s2
      | some c => s2.trapAsync k.bid k.g { cause := 0x15, addr := s2.berrOf c })

/-! ### Landings (R328 to R333) -/

/-- An open landing of a root die. -/
def State.landing? (s : State) (stack id : Nat) : Option Landing := s.lands.find? (fun l => l.stack = stack && l.id = id)

/-- The state with a landing changed. -/
def State.onLanding (s : State) (stack id : Nat) (f : Landing → Landing) : State :=
  { s with lands := s.lands.map (fun l => if l.stack = stack && l.id = id then f l else l) }

/-- The limits of Table 16-7 on a descriptor's fields. -/
def descOk (n : Nat) : Bool :=
  at8 n 0 8 % 128 = 0 && at8 n 8 8 != 0 && at8 n 8 8 % 128 = 0 && at8 n 0x10 1 ≤ 1 && 1 ≤ at8 n 0x11 1
    && at8 n 0x12 6 = 0 && at8 n 0x20 32 = 0

/-- The region of a descriptor translated; its pages (R328). -/
def State.landPages (s : State) (c : Ctx) : List (W64 × Nat) → State × Except TrapInfo (List (Xl × Nat))
  | [] => (s, .ok [])
  | (va, n) :: r =>
    match s.translate (s.xctx c) 1 .write va with
    | (s1, .error e) => (s1, .error { cause := e, addr := va, write := true })
    | (s1, .ok x) =>
      match s1.landPages c r with
      | (s2, .error t) => (s2, .error t)
      | (s2, .ok l) => (s2, .ok ((x, n) :: l))

/-- `land.open` (R328, R329). Its descriptor, into which `land.close` writes, is translated as for a write, and raises POISON where it is
uncorrectable: choices of the model's (DESIGN CHOICE, log entry 127). -/
def execLandOpen (h : Head) (a b : Operand) (s : State) : Host.Outcome State Fault Refusal :=
  s.issue h { rootOnly := true, feat := 0x10 } [scalarSlot .a a, numSlot .b b] (fun s v =>
    let va := s.wide v .a
    let id := s.num v .b
    let st := stackOf (s.ctxUnit v.c)
    if va.toNat % 64 != 0 then .trap s { cause := 0x08, addr := va }
    else match s.translate (s.xctx v.c) 1 .write va with
      | (_, .error e) => .trap s { cause := e, addr := va, write := true }
      | (s1, .ok x) =>
        if s1.stackAt v.c x != some st then .trap s { cause := 0x0A, addr := va }
        else match s1.readDram (leafKey x.leaf) x.pa 64 1 with
          | (_, none) => .trap (s.readDram (leafKey x.leaf) x.pa 64 1).1 { cause := 0x0B, addr := va }
          | (s2, some bs) =>
            let n := leNat bs
            if 16 ≤ id || !descOk n then .trap s { cause := 0x02 }
            else match s2.landPages v.c (pageRuns (w64 (at8 n 0 8)) (at8 n 8 8)) with
              | (_, .error t) => .trap s t
              | (s3, .ok ps) =>
                if ps.any (fun p => s3.perStackOf p.1.pa != some st || s3.stackAt v.c p.1 != some st || leafKey p.1.leaf != 0) then
                  .trap s { cause := 0x02 }
                else
                  let lines := ps.flatMap (fun p => (List.range (p.2 / 128)).map (fun i => p.1.pa / 128 + i))
                  if (s3.landing? st id).isSome || s3.lands.any (fun l => l.stack = st && l.lines.any (fun x => lines.contains x.line)) then
                    .trap s { cause := 0x14, addr := 8 }
                  else
                    let s4 := lines.foldl State.evictL2 s3
                    .done { s4 with lands := s4.lands ++ [
                      { stack := st, id, lid := (s.blockOf v.c).lid, desc := x.pa, descKey := leafKey x.leaf
                        x64 := at8 n 0x10 1 = 1, srcs := at8 n 0x11 1, lines := lines.map (fun k => { line := k }) }] })

/-- STATUS of a landing (R333). -/
def Landing.status (l : Landing) : W64 :=
  w64 (256 * l.ovf.toNat + 512 * l.corrupt.toNat + 1024 * l.duprank.toNat + 2048 * l.lost.toNat + l.applied * 2 ^ 32)

/-- A landing has settled (R333). -/
def Landing.settled (l : Landing) : Bool := l.lines.all (fun x => x.settled)

/-- `land.close` (R333). -/
def execLandClose (h : Head) (a : Operand) (s : State) : Host.Outcome State Fault Refusal :=
  s.issue h { rootOnly := true, feat := 0x10 } [numSlot .a a] (fun s v =>
    let st := stackOf (s.ctxUnit v.c)
    let id := s.num v .a
    match s.landing? st id with
    | none => .trap s { cause := 0x14, addr := 8 }
    | some l =>
      if !l.settled then .wait
      else
        let s1 := (l.lines.map (fun x => x.line)).foldl State.evictL2 s
        let s2 := s1.dramWriteBytes l.descKey (l.desc + 0x18) (leBytes l.status.toNat 8)
        .done { s2 with lands := s2.lands.filter (fun x => !(x.stack = st && x.id = id)) })

/-! ### Packets at a landing (R330 to R332, R438, R439) -/

/-- A packet refused: its command ends and the sender takes PROT (R294, R330). -/
def State.refusePacket (s : State) (p : Packet) : State :=
  match p.cmd.bind s.cmd? with
  | none => s
  | some c => ((s.dropCmdAny c 0x0A).trapAsync c.bid c.g (c.fault 0x0A p.va)).cmdPoison c

/-- Element `i` of a packet of `w` bytes an element. -/
def Packet.elem (p : Packet) (w i : Nat) : W64 := w64 (field (p.data.toNat >>> (8 * w * i)) 0 (8 * w))

/-- A packet's elements fail a check of R135 or R438. -/
def Packet.broken (p : Packet) : Bool :=
  p.corrupt || (p.x64 && (List.range 16).any (fun i => takeAt 256 p.residues i != residue (p.elem 8 i).toInt))

/-- The `n` elements of a line as a landing reads them, in one read that records BERR with SRC 3; one that is uncorrectable
reads as none (R327). -/
def State.landElems (s : State) (line w n : Nat) : State × List (Option Nat) :=
  let s1 := s.dramTouchAll (128 * line) (w * n)
  (s1.berrRead 3 [(128 * line, w * n)], (List.range n).map (fun i => (s1.dramGet 0 (128 * line + w * i) w).map leNat))

/-- The sums of an `.x64` packet and a line; an element that cannot be read takes a free value (assumption 24). -/
def State.x64Sums (s : State) (p : Packet) : List (Nat × Option Nat) → State × List W64
  | [] => (s, [])
  | (i, some m) :: r =>
    let (s1, vs) := s.x64Sums p r
    (s1, x64Sum (w64 m) (p.elem 8 i) :: vs)
  | (_, none) :: r =>
    let (f, s0) := s.free
    let (s1, vs) := s0.x64Sums p r
    (s1, f :: vs)

/-- An `.x64` packet added into its line (R135, R223, R331), and whether an element saturated. -/
def State.applyX64 (s : State) (line : Nat) (p : Packet) : State × Bool :=
  let (s1, es) := s.landElems line 8 16
  let (s2, vs) := s1.x64Sums p (es.zipIdx.map (fun e => (e.2, e.1)))
  (s2.dramWriteBytes 0 (128 * line) (vs.flatMap (fun v => leBytes v.toNat 8)), vs.any (fun v => (x64Read v).2))

/-- The elements of an `.f32` line that packets add into; one that cannot be read takes a free value (assumption 24). -/
def State.f32Starts (s : State) : List (Option Nat) → State × List Nat
  | [] => (s, [])
  | some m :: r => let (s1, vs) := s.f32Starts r; (s1, m :: vs)
  | none :: r =>
    let (f, s0) := s.free
    let (s1, vs) := s0.f32Starts r
    (s1, wrap 32 f.toNat :: vs)

/-- A held `.f32` line applied in rank order (R331). -/
def State.applyF32 (s : State) (line : Nat) (ps : List Packet) : State :=
  let (s1, es) := s.landElems line 4 32
  let (s2, start) := s1.f32Starts es
  let sums := start.zipIdx.map (fun e => ps.foldl (fun m p => (fAdd fF32 {} m (p.elem 4 e.2).toNat).bits) e.1)
  s2.dramWriteBytes 0 (128 * line) (sums.flatMap (fun v => leBytes v 4))

/-- The landing whose region holds a packet's line, on the line's root die (R330). -/
def State.landingFor (s : State) (p : Packet) : Option Landing :=
  s.lands.find? (fun l => l.lines.any (fun x => x.line = p.pa / 128))

/-- The line of a landing. -/
def Landing.lineOf (l : Landing) (k : Nat) : LandLine := (l.lines.find? (fun x => x.line = k)).getD { line := k, settled := true }

/-- The landing with a line replaced. -/
def Landing.setLine (l : Landing) (x : LandLine) : Landing :=
  { l with lines := l.lines.map (fun y => if y.line = x.line then x else y) }

/-- A rank's place of a line filled. -/
def LandLine.fill (x : LandLine) (rank : Nat) (p : Option Packet) : LandLine := { x with got := x.got ++ [(rank, p)] }

/-- A line all of whose places are filled, with its packets in rank order when every place holds one that may be
applied. -/
def LandLine.full (x : LandLine) (srcs : Nat) : Option (Option (List Packet)) :=
  if x.got.length < srcs then none
  else
    let ps := sortBy (fun g : Nat × Option Packet => g.1) x.got
    if ps.all (fun g => (g.2.map (fun p => !p.corrupt)).getD false) then some (some (ps.filterMap (fun g => g.2))) else some none

/-- An `.f32` line whose last place has been filled is applied or marked failed, and its packets' commands reach the
applied point (R331, R439). -/
def State.finishLine (s : State) (l : Landing) (k : Nat) : State :=
  match s.landing? l.stack l.id with
  | none => s
  | some l =>
    let x := l.lineOf k
    match x.full l.srcs with
    | none => s
    | some r =>
      let s1 := match r with
        | some ps => (s.applyF32 k ps).onLanding l.stack l.id (fun l => { l with applied := l.applied + ps.length })
        | none => s
      let s2 := s1.onLanding l.stack l.id (fun l => l.setLine { x with got := x.got.map (fun g => (g.1, none)), settled := true })
      ((x.got.filterMap (fun g => g.2)).filter (fun p => p.rel)).foldl State.packetOver s2

/-- A packet that an open landing accepts (R330, R331, R438, R439). -/
def State.landPacket (s : State) (l : Landing) (p0 : Packet) : State :=
  let k := p0.pa / 128
  let e := l.e.getD p0.e
  let p := { p0 with corrupt := p0.broken || p0.e != e }
  let s1 := (s.onLanding l.stack l.id (fun l => { l with e := some e, corrupt := l.corrupt || p.corrupt }))
  let s2 := if p.rel then s1 else s1.packetOver p
  if l.x64 then
    let (s3, ovf) := if p.corrupt then (s2, false) else s2.applyX64 k p
    let s4 := s3.onLanding l.stack l.id (fun l =>
      let x := (l.lineOf k).fill p.rank none
      { l.setLine { x with settled := x.settled || l.srcs ≤ x.got.length } with
        ovf := l.ovf || (!p.corrupt && (ovf || p.ovf)), applied := l.applied + (if p.corrupt then 0 else 1) })
    if p.rel then s4.packetOver p else s4
  else (s2.onLanding l.stack l.id (fun l => l.setLine ((l.lineOf k).fill p.rank (some p)))).finishLine l k

/-- A packet checked at its line's root die: accepted by an open landing, or refused; a refused one keeps a place
it was first to take (R330, R331). -/
def State.judgePacket (s : State) (p : Packet) : State :=
  match s.landingFor p with
  | none => s.refusePacket p
  | some l =>
    let x := l.lineOf (p.pa / 128)
    let inRange : Bool := p.rank < l.srcs
    let dup := x.got.any (fun g => g.1 = p.rank)
    if !inRange then s.refusePacket p
    else if dup then (s.onLanding l.stack l.id (fun l => { l with duprank := true })).refusePacket p
    else if x.settled then s.refusePacket p
    else if p.x64 != l.x64 then
      let s1 := s.onLanding l.stack l.id (fun l =>
        let x := (l.lineOf (p.pa / 128)).fill p.rank none
        l.setLine { x with settled := l.x64 && decide (l.srcs ≤ x.got.length) })
      ((if l.x64 then s1 else s1.finishLine l (p.pa / 128))).refusePacket p
    else s.landPacket l p

/-- Bytes of staging that a landing's held lines take (R332). -/
def Landing.staged (l : Landing) : Nat :=
  if l.x64 then 0 else 128 * l.srcs * (l.lines.filter (fun x => !x.got.isEmpty && !x.settled)).length

/-- The staging kept for the lowest line of a landing that some source has not yet sent, when it has no slot and is not
line `k` (R332). -/
def Landing.kept (l : Landing) (k : Nat) : Nat :=
  match if l.x64 then none else l.lines.find? (fun x => !x.settled) with
  | some x => if x.got.isEmpty && x.line != k then 128 * l.srcs else 0
  | none => 0

/-- A packet need not wait for staging at its root die (R332). -/
def State.stagingRoom (s : State) (p : Packet) : Bool :=
  match s.landingFor p with
  | none => true
  | some l =>
    let k := p.pa / 128
    let mine := s.lands.filter (fun x => x.stack = l.stack)
    l.x64 || !(l.lineOf k).got.isEmpty
      || (mine.map Landing.staged).sum + (mine.map (fun x => x.kept k)).sum + 128 * l.srcs ≤ 2 ^ 21

/-- `LANDING_PACKET_ARRIVAL`: packet `k` reaches its line's root die, or crosses UALink to a peer, which takes it
with the address in its own map (R330, R331, R435, R437 to R439);
an `.f32` packet for a line without a slot waits when staging is full (R332). -/
def execLandingPacketArrival (k : Nat) (s : State) : Host.Outcome State Fault Refusal :=
  match s.packets[k]? with
  | none => .next s
  | some p =>
    let rest : State := { s with packets := s.packets.eraseIdx k }
    if p.waiting then .next s
    else if isPeerWin p.pa then .next { rest.packetOver p with sent := rest.sent ++ [((p.pa - 2 ^ 51) / 2 ^ 40, { p with pa := p.pa % 2 ^ 40 })] }
    else if !s.stagingRoom p then
      .next { s with packets := modifyAt s.packets k (fun p => { p with waiting := true }) }
    else .next (rest.judgePacket p)

/-- `LANDING_STAGING_ADMIT`: the first packet that waits at a root die and now finds a slot is admitted (R332). -/
def execLandingStagingAdmit (stack : Nat) (s : State) : Host.Outcome State Fault Refusal :=
  let here (p : Packet) : Bool := p.waiting && (s.hbmPlace p.pa).map (fun e => e.1 / 64) = some stack && s.stagingRoom p
  match s.packets.findIdx? here with
  | none => .next s
  | some k => match s.packets[k]? with
    | none => .next s
    | some p => .next ({ s with packets := s.packets.eraseIdx k }.judgePacket { p with waiting := false })

end Sys2Proof.Machine
end

