-- ==== Sys2Proof/Machine/Memside.lean ====
section
/-! DEFINITION. What the caches, the fill and scrub engines, the counters of outstanding operations and the
schedulers do by themselves (R89 to R94, R195, R202, R262, R397, R407, R410, R436, R454). -/

namespace Sys2Proof.Machine

/-- `L1_WRITEBACK` (R195, R261). -/
def execL1Writeback (core line : Nat) (s : State) : Host.Outcome State Fault Refusal := .next (s.l1WriteBack core line)

/-- `L2_EVICTION`: a line that is not locked leaves its home L2, or the bridge, which keeps a line that an armed watch needs
(R262, R353, R433); the L2 of a dead die has halted (R448). -/
def execL2Eviction (line : Nat) (s : State) : Host.Outcome State Fault Refusal :=
  if isHostWin (128 * line) then
    .next (if s.watches.any (fun w => w.w.pa / 128 = line) then s else s.evictHost line)
  else match Cells.find s.l2 line with
    | some l => .next (if l.st = .lk || !s.dieAlive (s.homeDie (128 * line)) then s else s.evictL2 line)
    | none => .next s

/-- `MIGRATION_FILL`: the next unfilled line of the oldest page in migration on a die, under the engine's cap (R202, R454). -/
def execMigrationFill (die : Nat) (s : State) : Host.Outcome State Fault Refusal :=
  match s.migs.find? (fun m => m.die = die), s.paced 0 die 128 with
  | some m, some s1 =>
    match (List.range (m.size / 128)).find? (fun i => !m.filled.contains i && s.dieAlive die) with
    | none => .next s
    | some i => .next (s1.firstTouch (m.newPa / 128 + i) false)
  | _, _ => .next s

/-- An outstanding operation of a resident context completed: its elements are written and its count falls (R93,
R94); a tensor record it loads is in its slot (R296). -/
def State.completeOp (s : State) (c : Ctx) (p : Pending) : State :=
  let s1 := s.onGroup c (fun g => g.complete p.id)
  match c with
  | .grp bid g => s1.onBlock bid (fun b => if b.trecs.isEmpty then b else b.landTrecs (TrecSlot.loads g p.id))
  | .sup _ _ => s1

/-- Outstanding operation `k` of a context, of one kind, completes unless it still waits for another step. -/
def State.completeNth (s : State) (c : Ctx) (load : Bool) (k : Nat) : State :=
  match ((s.group? c).getD {}).pend[k]? with
  | none => s
  | some p => if p.load = load && p.blocked = 0 then s.completeOp c p else s

/-- `LOAD_COMPLETE` of outstanding operation `k` of a context (R93, R94). -/
def execLoadComplete (c : Ctx) (k : Nat) (s : State) : Host.Outcome State Fault Refusal := .next (s.completeNth c true k)

/-- `STORE_PERFORMED` of outstanding operation `k` of a context (R93). -/
def execStorePerformed (c : Ctx) (k : Nat) (s : State) : Host.Outcome State Fault Refusal := .next (s.completeNth c false k)

/-- `STALL_EXPIRY` (R89, R91). -/
def execStallExpiry (c : Ctx) (s : State) : Host.Outcome State Fault Refusal :=
  .next (s.onGroup c (fun g => { g with stall := 0 }))

/-- `TRAP_DELIVERY`: a raised trap that waits for its scheduler's supervisor slot, or the oldest pending asynchronous
trap of a group at an issue boundary, is delivered (R397, R410). -/
def execTrapDelivery (c : Ctx) (s : State) : Host.Outcome State Fault Refusal :=
  match s.group? c with
  | none => .next s
  | some g =>
    if g.hold = .svWait then .next (s.deliverTrap c)
    else if !s.canIssue c g then .next s
    else match g.dueAsync with
      | some a => .next ((s.settleHold c g).takeAsync c a)
      | none => .next s

/-- The lowest line of a stack with a column that DRAM cannot correct and that no agent has recorded; none in a stack that a dead agent
took with it (R441, R448). -/
def State.scrubLine (s : State) (stack : Nat) : Option Nat :=
  leastOf ((s.colErr.map (· / 4)).filter (fun l =>
    !s.reported.contains l && s.hbmBacked (128 * l) && (s.hbmPlace (128 * l)).map (fun e => e.1 / 64) = some stack))

/-- `PATROL_SCRUB`: the scrub engine of a stack meets its next uncorrectable line, which is logged, counted and stored
poisoned, under its cap (R407, R454). -/
def execPatrolScrub (stack : Nat) (s : State) : Host.Outcome State Fault Refusal :=
  match s.scrubLine stack, s.paced 1 stack 128 with
  | some l, some s0 =>
    let d := s0.homeDie (128 * l)
    let s1 := (s0.logError d (128 * l) 2 (s0.lineClass l)).pkgEvent 0x022 0 d
    let s2 := { s1 with reported := NatSet.insert s1.reported l }
    .next (match Cells.find s2.l2 l with
      | some x => { s2 with l2 := Cells.set s2.l2 l { x with dramPoison := true } }
      | none => { s2 with poison := NatSet.insert s2.poison l })
  | _, _ => .next s

/-- A tensor record slot that operation `id` of group `g` loads, when the read is refused (R190, R436). -/
def TrecSlot.refused (g id : Nat) : TrecSlot → TrecSlot
  | .loading g' p va r cause =>
    if g' = g && p = id then .loading g' p va none (cause.or (some (0x0A, va))) else .loading g' p va r cause
  | x => x

/-- An operation reads a line of a peer window. -/
def Pending.fromPeer (p : Pending) : Bool := p.sectors.any (fun k => isPeerWin (32 * k))

/-- What operation `id` of a context loads from a peer window is refused: its elements and a tensor record are poisoned with PROT
(R190, R436). -/
def State.refuseLoads (s : State) (c : Ctx) (id : Nat) : State :=
  let rec_ : Bool := ((s.group? c).getD {}).pend.any (fun p => p.id = id && p.fromPeer)
  let s1 := s.onGroup c (fun g => g.failLoads 0x0A (fun p x => p.id = id && x.sector.any (fun k => isPeerWin (32 * k))))
  if rec_ then s1.onBlock (cmdOwner c).1 (fun b => { b with trecs := b.trecs.map (fun x => (x.1, x.2.refused (cmdOwner c).2 id)) })
  else s1

/-- The address that a copy or a walk reads from next. -/
def EngCmd.nextRead (k : EngCmd) : Option W64 :=
  match k.kind with
  | .copy _ src len => if k.done < len then some (src + w64 k.done) else none
  | .walk t cs _ =>
    let (lo, hi) := rowSpan t cs k.done
    if k.done < t.rows && lo < hi then some (rowByteVa t cs k.done (lo * recBits t.fmt / 8)) else none
  | _ => none

/-- The copy or walk that operation `id` of a context counts, when it reads from a peer window next; with its unit and that
address. -/
def State.peerReader (s : State) (c : Ctx) (id : Nat) : Option (Nat × EngCmd × W64) :=
  s.units.findSome? (fun u => (u.2.cmds.find? (fun k => ownerCtx k.bid k.g = c && k.pend = id && u.2.cmdReady k)).bind (fun k =>
    k.nextRead.bind (fun va => match (s.engXl c (if k.kind.walker then 2 else 1) .read va).2 with
      | .ok (x, _) => if isPeerWin x.pa then some (u.1, k, va) else none
      | .error _ => none)))

/-- `peerRefusal`: a peer refuses what operation `id` of a context reads: a load's elements are poisoned, and an engine command stops
as at an unbacked address (R190, R284, R436). -/
def State.peerRefuses (s : State) (c : Ctx) (id : Nat) : State :=
  match s.peerReader c id with
  | some (u, k, va) => ((s.dropCmd u k 0x0A).trapAsync k.bid k.g (k.fault 0x0A va)).cmdPoison k
  | none => s.refuseLoads c id

/-- `PEER_WRITE_REFUSAL`: a peer refuses a write of a context to one of its addresses (R436). -/
def execPeerWriteRefusal (c : Ctx) (va : W64) (s : State) : Host.Outcome State Fault Refusal :=
  match c with
  | .sup u _ => .next (s.haltCore u)
  | .grp bid g => .next (s.trapAsync bid g { cause := 0x0A, addr := va })

end Sys2Proof.Machine
end

