-- ==== Sys2Proof/Machine/System.lean ====
section
/-! DEFINITION. System instructions (R416 to R423). -/

namespace Sys2Proof.Machine

/-! ### Ending a service (R397, R398, R400, R417) -/

/-- The held engine command that a trap was about runs on (R284 step 3). -/
def State.resumeHeld (s : State) (c : Ctx) : State :=
  match (s.group? c).bind (·.svcCmd) with
  | none => s
  | some id => (s.onCmd id (fun x => { x with held := false })).onGroup c (fun g => { g with svcCmd := none })

/-- RESUME: the trapping run continues at `svpc`; REPI is kept at the trapping PC alone (R104, R417). -/
def Group.resume (g : Group) (svpc : W64) : Group :=
  { g.onLanes g.trapRun (fun l => { l with pc := svpc }) with
    hold := .none, asked := false, repi := if svpc = g.trappc then g.repi else 0 }

/-- A handler that the group of a launch may enter for its trap (R398, R399). -/
def Launch.handlerFor (l : Launch) (g : Group) : Option W64 :=
  if l.img.handler != 0 && g.handlerFits && !g.inHandler && g.trapc.extractLsb' 0 8 != 0x1A then
    some (l.r.imageva + w64 l.img.handler)
  else none

/-- The cause in TRAPC. -/
def Group.cause (g : Group) : Nat := g.trapc.toNat % 256

/-- HANDLER: the group enters its launch's handler, or its block is terminated (R398). -/
def State.toHandler (s : State) (c : Ctx) (bid : Nat) (g : Group) (svpc : W64) : State :=
  match (s.ctxLaunch? c).bind (fun l => l.handlerFor g) with
  | some pc => s.onGroup c (fun g => g.enterHandler svpc pc)
  | none => (s.terminateBlock bid g.cause).trimHeld

/-- SUSPEND: the cluster of a block is saved until READY, and the host is told (R417, R428); with no room for
its images the trap stays pending. -/
def State.suspend (s : State) (c : Ctx) (b : Block) : State :=
  match s.saveCluster b.lid b.stage b.cidx true with
  | none => s.onGroup c (fun g => { g with hold := .svWait })
  | some s1 =>
    s1.trimHeld.report {
      kind := 4, cause := BitVec.ofNat 8 (((s.group? c).map Group.cause).getD 0), write := false
      lid := BitVec.ofNat 32 b.lid, core := BitVec.ofNat 32 b.unit, addr := 0, value := w64 b.cidx }

/-- SVDISP applied to the group SVGRP names (R417); the return from a held command's own trap resumes the command (R284). -/
def State.dispose (s : State) (u sched : Nat) (p : SupSlot) : State :=
  match s.svTarget u sched with
  | some (.grp bid g) =>
    match s.block? bid, s.group? (.grp bid g) with
    | some b, some gr =>
      let c : Ctx := .grp bid g
      match p.svdisp.toNat with
      | 0 => if gr.hold = .trapped then (if gr.svcNow then s.resumeHeld c else s).onGroup c (fun g => g.resume p.svpc) else s
      | 1 => if gr.hold = .trapped then s.toHandler c bid gr p.svpc else s
      | 2 => (s.terminateBlock bid gr.cause).trimHeld
      | _ => s.suspend c b
    | _, _ => s
  | _ => s

/-- A supervisor slot ends its service, applies SVDISP, and takes its next event (R417). -/
def State.endService (s : State) (u sched : Nat) : State :=
  ((s.onSup u sched (fun p => { p with active := false })).dispose u sched (s.sup u sched)).startEvent u sched

/-- `rti` (R104, R284, R417). -/
def execRti (h : Head) (s : State) : Host.Outcome State Fault Refusal :=
  s.issue h { hdl := true } [] (fun s v =>
    match v.c with
    | .sup u sc => .goto (s.endService u sc)
    | .grp _ _ =>
      if v.act.any (fun l => (v.g.lane l).depth < v.g.rb + 2) then .trap s { cause := 0x05 }
      else
        let hits := v.act.filterMap (fun l => (v.g.consumedElem (.v 0) true l).map (fun w => (l, w)))
        match v.g.consumeTrap hits with
        | some t => .trap s t
        | none =>
          let s1 := s.onGroup v.c (fun g => g.leaveHandler v.act v.others)
          .goto (if ((s1.group? v.c).map Group.inHandler).getD false then s1 else s1.resumeHeld v.c))

/-! ### Translations and fetched words (R418 to R420) -/

/-- A translation is one that `tlbinv` drops, by its launch and page table, its virtual page and level, and whether it is
global: a global one belongs to every launch that uses its table (R185, R418). -/
def State.tlbHit (s : State) (a b : W64) (owner : Nat) (root : Option W64) (vpn level : Nat) (glob : Bool) : Bool :=
  let lid := field b.toNat 0 32
  let mine := owner = lid || (glob && root.isSome && (s.launch? lid).map (·.ptroot) = root)
  (lid = 0 || mine) && (b.getLsbD 32 || vpn = vpnAt a level) && (b.getLsbD 33 || !glob)

/-- An access that uses a dropped translation has not been performed (R418): a watch still arming, a call not
yet delivered, a near-bank command, a reduction packet, a contribution not yet applied (R242, R256; assumption 83). -/
def State.usesDropped (s : State) (a b : W64) : Bool :=
  let hit (lid : Nat) (va : W64) (level : Nat) (glob : Bool) : Bool :=
    s.tlbHit a b lid ((s.launch? lid).map (·.ptroot)) (vpnAt va level) level glob
  let used (lid : Nat) (ps : List (W64 × Nat × Bool)) : Bool := ps.any (fun p => hit lid p.1 p.2.1 p.2.2)
  let arming (g : Group) : Bool := match g.hold with
    | .arming w _ => hit w.lid w.va w.level w.glob
    | _ => false
  (s.blocks ++ s.images.map (·.block)).any (fun k => k.groups.any arming)
    || s.calls.any (fun k => k.st = .issued && used k.lid k.pages)
    || s.held.any (fun p => used p.lid p.pages)
    || s.units.any (fun u => u.2.sups.any (fun x => arming x.2.g) || u.2.abuf.any (fun p => used p.lid p.pages)
        || u.2.bnk.any (fun k => (s.lidOf k.bid).any (fun l => used l k.pages)))
    || s.packets.any (fun p => (p.cmd.bind (fun c => (s.cmd? c).bind (fun x => s.lidOf x.bid))).any (fun l => hit l p.va p.level p.glob))

/-- `tlbinv` (R418): the entries go at once, and the supervisor is held until every access that uses one is performed. -/
def execTlbinv (h : Head) (a b : Operand) (s : State) : Host.Outcome State Fault Refusal :=
  s.issue h { sup := true } [scalarSlot .a a, scalarSlot .b b] (fun s v =>
    let x := (s.src v.c v.g (v.op .a) true none v.low).v
    let y := (s.src v.c v.g (v.op .b) true none v.low).v
    if field y.toNat 34 30 != 0 then .held (s.haltCore (s.ctxUnit v.c))
    else
      let keep (t : List TlbEntry) : List TlbEntry :=
        t.filter (fun e => !s.tlbHit x y e.lid (some e.root) e.vpn e.level (leafGlobal e.leaf))
      let s1 := { s with units := s.units.map (fun u =>
        (u.1, { u.2 with itlb := keep u.2.itlb, dtlb := keep u.2.dtlb, wtlb := keep u.2.wtlb })) }
      if s1.usesDropped x y then .waitIn s1 else .done s1)

/-- `icinv` (R419). -/
def execIcinv (h : Head) (a b : Operand) (s : State) : Host.Outcome State Fault Refusal :=
  s.issue h {} [scalarSlot .a a, { pos := .b, op := b, okV := false, okP := false, okSp := false, consumed := true }] (fun s v =>
    let x := (s.src v.c v.g (v.op .a) true none v.low).v
    let n := (s.src v.c v.g (v.op .b) false none v.low).v.toNat
    let (s1, lines) := s.linesInRange (s.xctx v.c) x n
    .done (s1.icacheDropAll lines))

/-- `ifence` (R420). -/
def execIfence (h : Head) (s : State) : Host.Outcome State Fault Refusal :=
  s.issue h {} [] (fun s v => .done (s.onGroup v.c (fun g => { g with ahead := [] })))

/-! ### Context commands (R421) -/

/-- A context command (Table 19-7). -/
structure CtxCmd where
  op : Nat
  lid : Nat
  stage : Nat
  cidx : Nat
  base : Nat
  len : Nat
  /-- its must-be-0 bytes are 0 and its fields are within their limits -/
  ok : Bool
  deriving DecidableEq, Repr

/-- The command that 64 bytes hold. -/
def ctxCmdOf (n : Nat) : CtxCmd :=
  let op := field n 0 8
  let base := field n 192 64
  let len := field n 256 64
  { op, lid := field n 64 32, stage := field n 96 32, cidx := field n 128 64, base, len
    ok := 1 ≤ op && op ≤ 4 && field n 8 56 = 0 && field n 384 128 = 0
      && (if op = 4 then base % 4096 = 0 && len % 4096 = 0 && isHbm base && base + len ≤ 2 ^ 40 else field n 96 32 < 8) }

/-- The partition of a unit. -/
def State.unitPart (s : State) (u : Nat) : Nat :=
  ((s.parts.find? (fun p => p.2.valid && p.2.has u)).map (·.1)).getD 0

/-- SAVE: the resident cluster is pre-empted until READY (R421). -/
def State.ctxSave (s : State) (k : CtxCmd) : State × Nat :=
  if (s.blocksOf k.lid k.stage k.cidx).isEmpty then (s, 2)
  else match s.saveCluster k.lid k.stage k.cidx true with
    | none => (s, 3)
    | some s1 => (s1.trimHeld, 0)

/-- READY: a suspended cluster becomes restorable (R421). -/
def State.ctxReady (s : State) (k : CtxCmd) : State × Nat :=
  match s.launch? k.lid with
  | none => (s, 2)
  | some l =>
    if (s.imagesOf k.lid k.stage k.cidx).isEmpty then (s, 2)
    else if !s.someCoreHas l then (s, 4)
    else ({ s with images := s.images.map (fun (im : Image) =>
        if im.block.lid = k.lid && im.block.stage = k.stage && im.block.cidx = k.cidx then
          { im with ready := true, kept := false, told := false } else im) }, 0)

/-- DISCARD: a suspended cluster's blocks are terminated (R421), a task launch's with it (R387). -/
def State.ctxDiscard (s : State) (k : CtxCmd) : State × Nat :=
  let ims := s.imagesOf k.lid k.stage k.cidx
  if ims.isEmpty then (s, 2)
  else ((ims.foldl (fun s im => s.terminateImage im.block.bid (k.len % 256)) s).trimHeld, 0)

/-- POOL: a range joins the save pool of the partition of unit `u` (R411, R421). -/
def State.ctxPool (s : State) (u : Nat) (k : CtxCmd) : State × Nat :=
  ({ s with pool := s.pool ++ [(s.unitPart u, k.base, k.len)] }, 0)

/-- A context command executed on unit `u`. -/
def State.ctxCommand (s : State) (u : Nat) (k : CtxCmd) : State × Nat :=
  if !k.ok then (s, 1)
  else match k.op with
    | 1 => s.ctxSave k
    | 2 => s.ctxReady k
    | 3 => s.ctxDiscard k
    | _ => s.ctxPool u k

/-- `ctxsw` with its command executed by `run` (R421). -/
def State.contextSwitch (s : State) (h : Head) (a : Operand) (run : State → Nat → CtxCmd → State × Nat) :
    Host.Outcome State Fault Refusal :=
  s.issue h { sup := true } [scalarSlot .a a] (fun s v =>
    let u := s.ctxUnit v.c
    let pa := (s.src v.c v.g (v.op .a) true none v.low).v.toNat
    if pa % 64 != 0 || !isHbm pa || s.spot pa = .unbacked then .held (s.haltCore u)
    else
      let s1 := s.homeTouch { die := dieOf u } pa
      let k := ctxCmdOf (leNat (s1.bytesUnder 0 pa 64))
      let (s2, st) := if k.ok then run s1 u k else (s1, 1)
      .done (s2.homeWriteBytes .other 0 (pa + 0x28) (leBytes st 8)))

/-- `ctxsw` of a SAVE command, or of one that names no operation (R421). -/
def execCtxswSave (h : Head) (a : Operand) (s : State) : Host.Outcome State Fault Refusal :=
  s.contextSwitch h a (fun s _ k => if k.op = 1 then s.ctxSave k else (s, 1))

/-- `ctxsw` of a READY command (R421). -/
def execCtxswReady (h : Head) (a : Operand) (s : State) : Host.Outcome State Fault Refusal :=
  s.contextSwitch h a (fun s _ k => if k.op = 2 then s.ctxReady k else (s, 1))

/-- `ctxsw` of a DISCARD command (R421). -/
def execCtxswDiscard (h : Head) (a : Operand) (s : State) : Host.Outcome State Fault Refusal :=
  s.contextSwitch h a (fun s _ k => if k.op = 3 then s.ctxDiscard k else (s, 1))

/-- `ctxsw` of a POOL command (R421). -/
def execCtxswPool (h : Head) (a : Operand) (s : State) : Host.Outcome State Fault Refusal :=
  s.contextSwitch h a (fun s u k => if k.op = 4 then s.ctxPool u k else (s, 1))

/-! ### Tags and windows (R422, R423) -/

/-- A register operand of `ispsn` and `clrpsn`. -/
def tagSlot (pos : Pos) (op : Operand) (dst : Bool) : Slot :=
  { pos, op, okP := false, okSp := false, okK := false, dst }

/-- `ispsn` (R422). -/
def execIspsn (h : Head) (d a : Operand) (s : State) : Host.Outcome State Fault Refusal :=
  s.issue h { rpt := true } [slotP .d d true, tagSlot .a a false] (fun s v =>
    .done (s.dst v.c (v.op .d) false (v.act.map (fun l =>
      (l, ⟨if (s.src v.c v.g (v.op .a) false none l).tag then 1 else 0, false⟩)))))

/-- `clrpsn` (R422). -/
def execClrpsn (h : Head) (d : Operand) (s : State) : Host.Outcome State Fault Refusal :=
  s.issue h { rpt := true } [tagSlot .d d true] (fun s v =>
    .done (s.onGroup v.c (fun g =>
      match v.op .d with
      | .v n => v.act.foldl (fun g l => g.setVreg n.toNat l ⟨(g.vreg n.toNat l).v, false⟩) g
      | .s n => g.setSreg n.toNat ⟨(g.sreg n.toNat).v, false⟩
      | _ => g)))

/-- Bytes of a window's frame in the save area (R423). -/
def frameBytes (width : Nat) : Nat := 200 * width

/-- The stack register and lane of place `i` in a frame. -/
def framePlace (width rb i : Nat) : Nat × Nat := (48 * rb + i / width, i % width)

/-- Window RB of a group as a frame's bytes: registers, then tags (R423). -/
def Group.frame (g : Group) : List Byte :=
  let es := (List.range (48 * g.width)).map (fun i =>
    let p := framePlace g.width g.rb i
    g.elemAt (p.1 % g.cap) p.2)
  let tags := es.zipIdx.foldl (fun m e => if e.1.tag then m ||| (1 <<< e.2) else m) 0
  es.flatMap (fun e => leBytes e.v.toNat 4) ++ leBytes tags (8 * g.width)

/-- Window RB of a group taken from a frame's bytes. -/
def Group.unframe (g : Group) (bs : List Byte) : Group :=
  let tags := leNat (bs.drop (192 * g.width))
  (List.range (48 * g.width)).foldl (fun g i =>
    let p := framePlace g.width g.rb i
    g.setElemAt (p.1 % g.cap) p.2 ⟨BitVec.ofNat 32 (leNat ((bs.drop (4 * i)).take 4)), tags.testBit i⟩) g

/-- The frame of window `rb` of a group (R423). -/
def Group.frameAt (g : Group) (rb : Nat) : Nat := g.wsarea.toNat + frameBytes g.width * rb

/-- Window RB of a group moved to its save area (R70, R423). -/
def State.saveWindow (s : State) (t : Ctx) (g : Group) : State :=
  let s1 := if isRoot (s.ctxUnit t) then s.dramWriteBytes 0 (g.frameAt g.rb) g.frame
    else s.homeWriteBytes .other 0 (g.frameAt g.rb) g.frame
  s1.onGroup t (fun g => { g with rb := g.rb + 1 })

/-- The window below RB of a group brought back from its save area (R423). -/
def State.restWindow (s : State) (t : Ctx) (g : Group) : State :=
  let pa := g.frameAt (g.rb - 1)
  let n := frameBytes g.width
  let root := isRoot (s.ctxUnit t)
  let s1 := if root then s.dramTouchAll pa n else s.firstTouchAll pa n false
  let bs := if root then s1.dramBytes 0 pa n else s1.bytesUnder 0 pa n
  s1.onGroup t (fun g => { g with rb := g.rb - 1 }.unframe bs)

/-- Some live lane lies at depth RB, so no window can be moved out (R70). -/
def Group.pinned (g : Group) : Bool := g.lanes.any (fun l => l.live && l.depth = g.rb)

/-- `wsave` (R70, R423). -/
def execWsave (h : Head) (s : State) : Host.Outcome State Fault Refusal :=
  s.issue h { sup := true } [] (fun s v =>
    match v.c with
    | .grp _ _ => .done s
    | .sup u sc =>
      match s.svTarget u sc with
      | none => .done s
      | some t =>
        let g := (s.group? t).getD {}
        if g.pinned then .done s
        else if s.spot (g.frameAt g.rb) = .unbacked then .trap s { cause := 0x0A }
        else .done (s.saveWindow t g))

/-- `wrest` (R423). -/
def execWrest (h : Head) (s : State) : Host.Outcome State Fault Refusal :=
  s.issue h { sup := true } [] (fun s v =>
    match v.c with
    | .grp _ _ => .done s
    | .sup u sc =>
      match s.svTarget u sc with
      | none => .done s
      | some t =>
        let g := (s.group? t).getD {}
        .done (if g.rb = 0 then s else s.restWindow t g))

/-! ### What the resident supervisor does to give a handler room (R70, R398) -/

/-- A group's window save area, given by the supervisor when it has none: a block in HBM, 256-aligned (Table 19-3). -/
def State.giveArea (s : State) (c : Ctx) (bid g : Nat) : State :=
  s.onGroup c (fun x => if x.wsarea = 0 then
    { x with wsarea := BitVec.ofNat 64 ((Config.windowArea bid g).toNat % 2 ^ 40 / 256 * 256) } else x)

/-- Windows of a group moved out until its handler's window fits, as far as they can be (R70, R398). -/
def State.freeWindows (s : State) (c : Ctx) : Nat → State
  | 0 => s
  | n + 1 =>
    let g := (s.group? c).getD {}
    if g.handlerFits || g.pinned then s else (s.saveWindow c g).freeWindows c n

/-- The slot ends its service with a disposition. -/
def State.serveWith (s : State) (u sched : Nat) (d : BitVec 32) : State :=
  (s.onSup u sched (fun p => { p with svdisp := d })).endService u sched

/-- The group is sent to its handler, room being made for its window (R398, R399). -/
def State.serveHandler (s : State) (u sched bid g : Nat) : State :=
  let c : Ctx := .grp bid g
  let x := (s.group? c).getD {}
  let s1 := if x.handlerFits || x.inHandler then s else (s.giveArea c bid g).freeWindows c 8
  s1.serveWith u sched 1

end Sys2Proof.Machine
end

