-- ==== Sys2Proof/Machine/HostRegs.lean ====
section
/-! DEFINITION. The registers that the host and the supervisor write, and what the host reads at BAR0 (R7, R20, R21, R39, R40,
R50, R327, R426 to R430, R440, R450 to R454), the fault channel (R409, R428), and the accesses of the host and of peers (R433,
R434, R436). -/

namespace Sys2Proof.Machine

/-- The blocks of the host interface answer (R443 step 6). -/
def State.hostReady (s : State) : Bool := s.plat.state = 6

/-- A host register write, made only while its block answers. -/
def State.byHost (s : State) (f : State → State) : Host.Outcome State Fault Refusal := .next (if s.hostReady then f s else s)

/-! ### Configuration, queues, partitions -/

/-- `MEMCNT_WRITE` (R21). -/
def execMemcntWrite (v : W64) (s : State) : Host.Outcome State Fault Refusal := .next (s.memcntStore v)

/-- `QCTL_WRITE` (R39, R40). -/
def execQctlWrite (q : Nat) (v : W64) (s : State) : Host.Outcome State Fault Refusal :=
  s.byHost (fun s => if q < 64 then s.queueStore (64 * q + 0x10) v else s)

/-- `QPI_DOORBELL` (R40). -/
def execQpiDoorbell (q : Nat) (v : W64) (s : State) : Host.Outcome State Fault Refusal :=
  s.byHost (fun s => if q < 64 then s.queueStore (64 * q + 0x18) v else s)

/-- A write to the partition blocks by the host: of the registers that can be written (Table 3-3). -/
def State.partWrite (s : State) (p off : Nat) (v : W64) : State :=
  if p < 16 && off ≤ 0x38 && off % 8 = 0 then s.partStore p off v else s

/-- `PARTITION_WRITE` (R50 to R53). -/
def execPartitionWrite (p off : Nat) (v : W64) (s : State) : Host.Outcome State Fault Refusal :=
  s.byHost (fun s => s.partWrite p off v)

/-- `BERR_WRITE`: the supervisor writes BERR `i` of root core `r` (R327). -/
def execBerrWrite (r i : Nat) (v : W64) (s : State) : Host.Outcome State Fault Refusal :=
  .next (if r < Config.rootCores && i < 64 then s.controlStore (0x8000 + r) (0x1000 + 8 * i) v else s)

/-! ### Cancellation (R426) -/

/-- `LCANCEL` (R426). -/
def execLcancel (v : W64) (s : State) : Host.Outcome State Fault Refusal :=
  s.byHost (fun s =>
    let lid := field v.toNat 0 32
    let stat (s : State) (n : BitVec 2) : State := { s with host := { s.host with lcstat := n } }
    if (s.host.cancelling.bind s.launch?).isSome then stat s 2
    else match s.launch? lid with
      | none => stat s 1
      | some _ =>
        let s1 := (s.killLaunch lid 0xFE).trimHeld
        stat { s1 with host := { s1.host with cancelling := some lid } } 0)

/-! ### The fault channel (R409, R427, R428) -/

/-- An answer to a group's PFAULT: SUB is written, and the supervisor resumes the group or sends it to its handler, room being made for
that (R398, R409). -/
def State.answerFault (s : State) (c : Ctx) (mapped : Bool) : State :=
  match s.group? c with
  | none => s
  | some g =>
    if g.hold != .trapped || !g.asked then s
    else
      let u := s.ctxUnit c
      let sub : BitVec 32 := if mapped then 0x100 else 0x200
      let again : Bool := mapped && !g.trapc.getLsbD 16
      let s1 := s.onGroup c (fun g => { g with trapc := (g.trapc &&& 0xFFFF00FF) ||| sub, asked := false })
      let s2 := s1.onSup u g.sched (fun p => { p with svpc := g.trappc })
      match c with
      | .grp bid k => if again then s2.serveWith u g.sched 0 else s2.serveHandler u g.sched bid k
      | .sup _ _ => s2.serveWith u g.sched (if again then 0 else 1)

/-- Fault records that wait while the ring is disabled: a PFAULT is answered REFUSED, others are dropped (R428). -/
def State.dropWaiting (s : State) : State :=
  s.host.waiting.foldl (fun s r => match r.ctx with
    | some c => s.answerFault c false
    | none => s) { s with host := { s.host with waiting := [] } }

/-- A write of FCCTL (Table 20-1). -/
def State.fcctl (s : State) (v : W64) : State :=
  let n := field v.toNat 8 4
  let en := v.getLsbD 0
  if s.host.fcen then
    let s1 := { s with host := { s.host with fcen := en } }
    if en then s1 else s1.dropWaiting
  else if n < 4 || 12 < n then s
  else { s with host := { s.host with fcen := en, fclogn := n } }

/-- `FCCTL_WRITE` (R427). -/
def execFcctlWrite (v : W64) (s : State) : Host.Outcome State Fault Refusal := s.byHost (fun s => s.fcctl v)

/-- The 32 bytes of a fault record (Table 20-2). -/
def FaultRec.bytes (r : FaultRec) (seq : BitVec 32) : List Byte :=
  leBytes seq.toNat 4 ++ [r.kind, r.cause] ++ leBytes (if r.write then 1 else 0) 2 ++ leBytes r.lid.toNat 4
    ++ leBytes r.core.toNat 4 ++ leBytes r.addr.toNat 8 ++ leBytes r.value.toNat 8

/-- The host window's address of a host physical address (R432). -/
def hostPa (hpa : Nat) : Nat := 2 ^ 50 + hpa % 2 ^ 50

/-- The device's own write to host memory at system scope. -/
def State.hostWrite (s : State) (hpa : Nat) (bs : List Byte) : State := s.homeWriteBytes .other 0 (hostPa hpa) bs

/-- The 64-byte halves of `n` bytes at an address. -/
def halvesOf (pa n : Nat) : List Nat :=
  if n = 0 then [] else (List.range ((pa + n - 1) / 64 - pa / 64 + 1)).map (fun i => pa / 64 + i)

/-- A read of the device's own, or of the outside, at the homes of its lines (R261). -/
def State.touchHalves (s : State) (pa n : Nat) : State :=
  (halvesOf pa n).foldl (fun s h => s.homeTouch { die := s.homeDie (64 * h) } (64 * h)) s

/-- The device's own read of host memory. -/
def State.hostRead (s : State) (hpa n : Nat) : State × List Byte :=
  let s1 := s.touchHalves (hostPa hpa) n
  (s1, s1.bytesUnder 0 (hostPa hpa) n)

/-- Host memory answers. -/
def State.hostThere (s : State) (hpa : Nat) : Bool := s.spot (hostPa hpa) = .host

/-- `FAULT_RECORD_WRITE` (R428, R429). -/
def execFaultRecordWrite (s : State) : Host.Outcome State Fault Refusal :=
  let h := s.host
  match h.waiting with
  | [] => .next s
  | r :: rest =>
    let at_ := h.fcbase.toNat + 32 * (h.fcpi.toNat % 2 ^ h.fclogn)
    if !h.fcen || (h.fcpi - h.fcci).toNat = 2 ^ h.fclogn || !s.hostThere at_ then .next s
    else
      let s1 := s.hostWrite at_ (r.bytes h.seq)
      let asked := match r.ctx with
        | some c => s1.host.asked ++ [(h.seq, c)]
        | none => s1.host.asked
      .next ({ s1 with host := { s1.host with waiting := rest, asked, seq := h.seq + 1, fcpi := h.fcpi + 1 } }.msi 64)

/-- `FRESP` (R409, R428). -/
def execFresp (v : W64) (s : State) : Host.Outcome State Fault Refusal :=
  s.byHost (fun s =>
    let seq : BitVec 32 := v.setWidth 32
    let a := field v.toNat 32 2
    match s.host.asked.find? (fun x => x.1 = seq) with
    | some x =>
      if a = 1 || a = 2 then
        { s with host := { s.host with asked := s.host.asked.filter (fun y => y.1 != seq) } }.answerFault x.2 (a = 1)
      else s
    | none => s)

/-! ### Requests to the supervisor (R430) -/

/-- The core that serves host requests: the lowest-numbered enabled core of a VALID partition. -/
def State.requestCore (s : State) : Option Nat :=
  (List.range Config.cores).find? (fun c => s.coreEnabled c && s.parts.any (fun p => p.2.valid && p.2.has c))

/-- The pending request served by the supervisor of core `u`: executed, its STATUS written, BUSY cleared (R430). -/
def State.serveRequest (s : State) (u : Nat) : State :=
  match s.host.svreq with
  | none => s
  | some hpa =>
    let s0 := { s with host := { s.host with svreq := none } }
    if !s.hostThere hpa.toNat then s0
    else
      let (s1, bs) := s0.hostRead hpa.toNat 64
      let k := ctxCmdOf (leNat bs)
      let (s2, st) := if k.op = 4 then (s1, 1) else s1.ctxCommand u k
      s2.hostWrite (hpa.toNat + 0x28) (leBytes st 8)

/-- OP of the request at a host physical address. -/
def State.requestOp (s : State) (hpa : Nat) : Nat := (s.byteUnder 0 (hostPa hpa)).toNat

/-- A write of SVREQ: BUSY is set, SVEVT 4 raised, and the request served at once when the slot is free (R430). -/
def State.svreqWrite (s : State) (v : W64) : State :=
  if s.host.svreq.isSome then s
  else
    let s1 := { s with host := { s.host with svreq := some (v &&& 0x000FFFFFFFFFFFC0) } }
    match s1.requestCore with
    | none => s1
    | some u =>
      let busy := (s1.sup u 0).active
      let s2 := s1.notifySup u 0 4
      if busy then s2
      else ((s2.serveRequest u).onSup u 0 (fun p => { p with active := false })).startEvent u 0

/-- A write of SVREQ by the host whose request has operation `op`, or none of the three. -/
def State.request (s : State) (op : Nat) (v : W64) : Host.Outcome State Fault Refusal :=
  s.byHost (fun s =>
    let k := s.requestOp (v &&& 0x000FFFFFFFFFFFC0).toNat
    if 1 ≤ k && k ≤ 3 && k != op then s else s.svreqWrite v)

/-- `SVREQ_SAVE` (R430). -/
def execSvreqSave (v : W64) (s : State) : Host.Outcome State Fault Refusal := s.request 1 v
/-- `SVREQ_READY` (R430). -/
def execSvreqReady (v : W64) (s : State) : Host.Outcome State Fault Refusal := s.request 2 v
/-- `SVREQ_DISCARD` (R430). -/
def execSvreqDiscard (v : W64) (s : State) : Host.Outcome State Fault Refusal := s.request 3 v

/-! ### Watchdog and rates (R440, R454) -/

/-- A write of HBEAT. -/
def State.heartbeat (s : State) (v : W64) : State := { s with host := { s.host with hbeat := v, hbeatAt := s.now } }

/-- `HBEAT` (R440). -/
def execHbeat (v : W64) (s : State) : Host.Outcome State Fault Refusal := s.byHost (fun s => s.heartbeat v)

/-- The limits of Table 21-7. -/
def rateOk (i n : Nat) : Bool :=
  match i with
  | 0 => n ≤ 256
  | 1 => n ≤ 8000
  | 2 | 3 => 1 ≤ n && n ≤ 64
  | _ => false

/-- A write of a RATE register; it holds its cap, its other bits RSVD. -/
def State.rate (s : State) (i : Nat) (v : W64) : State :=
  if rateOk i v.toNat then { s with plat := { s.plat with rates := modifyAt s.plat.rates i (fun _ => v.toNat) } } else s

/-- The platform block answers: always but while no boot has run (R444). -/
def State.platformThere (s : State) : Bool := s.plat.state != 0

/-- `RATE_WRITE` (R454). -/
def execRateWrite (i : Nat) (v : W64) (s : State) : Host.Outcome State Fault Refusal :=
  .next (if s.platformThere then s.rate i v else s)

/-! ### Other registers (R7) -/

/-- A write to the host control block at an offset (Table 20-1). -/
def State.hostControl (s : State) (off : Nat) (v : W64) : State :=
  let h := s.host
  if off = 0x000 then (if h.fcen then s else { s with host := { h with fcbase := v &&& 0xFFFFFFFFFFFFF000 } })
  else if off = 0x018 then { s with host := { h with fcci := v.setWidth 32 } }
  else if off = 0x038 then { s with host := { h with hbto := v.setWidth 32 } }
  else if 0x100 ≤ off && off ≤ 0x178 then { s with host := { h with ulimp := Cells.put 0 h.ulimp ((off - 0x100) / 8) v } }
  else if off = 0x200 then { s with host := { h with ulid := v.setWidth 10 } }
  else if 0x1000 ≤ off && off ≤ 0x2FF8 then
    { s with host := { h with ulroute := Cells.put 0 h.ulroute ((off - 0x1000) / 8) (v &&& 0x800000000003FFFF) } }
  else s

/-- A write of 0 to one word of an error log's records (R452). -/
def ErrLog.free (e : ErrLog) (off : Nat) : ErrLog :=
  let j := (off - 16) / 16
  let old := Cells.get (0, 0) e.recs j
  { e with recs := Cells.put (0, 0) e.recs j (if off % 16 < 8 then (0, old.2) else (old.1, 0)) }

/-- A write to the platform block at an offset (Table 21-2). -/
def State.platformStore (s : State) (off : Nat) (v : W64) : State :=
  let p := s.plat
  if 0x1000 ≤ off && off < 0x2000 then
    let d := (off - 0x1000) / 0x400
    let o := off % 0x400
    if v = 0 && 16 ≤ o then { s with plat := { p with elogs := Cells.set p.elogs d ((Cells.get {} p.elogs d).free o) } } else s
  else if 0x2000 ≤ off && off < 0x2400 then
    let i := (off - 0x2000) / 16
    let c := Cells.get {} p.pctr i
    let c' := if off % 16 < 8 then c.writeCtl 0x0000FFFFFFFFF7FF v else { c with val := v.setWidth 48 }
    { s with plat := { p with pctr := Cells.put {} p.pctr i c' } }
  else if 0x3000 ≤ off && off < 0x3800 then
    { s with plat := { p with stale := Cells.put 0 p.stale ((off - 0x3000) / 8) (v.setWidth 48) } }
  else s

/-- A 64-bit aligned write by the host at a BAR0 offset to a register without a row of its own (R7, R39, R427). -/
def State.bar0 (s : State) (adr : Nat) (v : W64) : State :=
  if adr % 8 != 0 then s
  else if 0x40000 ≤ adr && adr < 0x44000 then (if s.platformThere then s.platformStore (adr - 0x40000) v else s)
  else if !s.hostReady then s
  else if 0x10000 ≤ adr && adr < 0x11000 then
    (if adr % 64 = 0x10 || adr % 64 = 0x18 then s else s.queueStore (adr - 0x10000) v)
  else if 0x30000 ≤ adr && adr < 0x34000 then s.hostControl (adr - 0x30000) v
  else s

/-- A 64-bit aligned write by the supervisor at a physical address to a register without a row of its own. -/
def State.deviceRegister (s : State) (adr : Nat) (v : W64) : State :=
  if adr % 8 != 0 then s
  else match s.spot adr with
    | .queueRegs off => if off % 64 = 0x10 || off % 64 = 0x18 then s else s.queueStore off v
    | .control u off => if isRoot u && 0x1000 ≤ off then s else s.controlStore u off v
    | _ => s

/-- `REGISTER_WRITE`: by the host at a BAR0 offset, or by the supervisor at a physical address (R7, R20, R39, R427). -/
def execRegisterWrite (byHost : Bool) (adr : Nat) (v : W64) (s : State) : Host.Outcome State Fault Refusal :=
  .next (if byHost then s.bar0 adr v else s.deviceRegister adr v)

/-! ### Accesses of the host and of peers (R434, R436, R444) -/

/-- The response to an access: its bytes with their poison, or an abort. -/
def State.respond (s : State) (r : Option (List Byte × Bool)) : State := { s with host := { s.host with response := r } }

/-- Every line of `n` bytes at an address is memory. -/
def State.allMemory (s : State) (pa n : Nat) : Bool :=
  (cellsByLine pa (List.replicate n 0)).all (fun l => match s.spot (128 * l.1) with | .memory _ => true | _ => false)

/-- The host shares the halves of lines that it reads under HDM-DB (R434). -/
def State.hostShares (s : State) (pa n : Nat) : State :=
  (cellsByLine pa (List.replicate n 0)).foldl (fun s l => match Cells.find s.l2 l.1 with
    | some x =>
      let h : BitVec 2 := (if l.2.any (fun c => c.1 < 64) then 1 else 0) ||| (if l.2.any (fun c => 64 ≤ c.1) then 2 else 0)
      { s with l2 := Cells.set s.l2 l.1 { x with hostHalves := x.hostHalves ||| h } }
    | none => s) s

/-- A read performed at the lines' homes under slot 0, and its poison. -/
def State.outerRead (s : State) (pa n : Nat) : State × List Byte × Bool :=
  let s1 := s.touchHalves pa n
  (s1, s1.bytesUnder 0 pa n, (halvesOf pa n).any (fun h => s1.homeBad (h / 2)))

/-- The bytes a bus atomic writes for the old value `o` (R431, R435). -/
def busResult (op : BusAtomic) (n : Nat) (o : Nat) (x y : W64) : Option Nat :=
  match op with
  | .add => some ((o + x.toNat) % 2 ^ (8 * n))
  | .swap => some (x.toNat % 2 ^ (8 * n))
  | .cas => if o = x.toNat % 2 ^ (8 * n) then some (y.toNat % 2 ^ (8 * n)) else none

/-- An access to memory that is there, with its response (R434, R436). -/
def State.outerAccess (s : State) : HostAccess → State
  | .read pa n =>
    let (s1, bs, bad) := s.outerRead pa n
    s1.respond (some (bs, bad))
  | .write pa bs => s.homeWriteBytes .other 0 pa bs
  | .atomic op wide pa x y =>
    let n := if wide then 8 else 4
    let (s1, bs, bad) := s.outerRead pa n
    let s2 := s1.respond (some (bs, bad))
    if bad then s2
    else match busResult op n (leNat bs) x y with
      | some v => s2.homeWriteBytes .other 0 pa (leBytes v n)
      | none => s2

/-- Address and length of an access. -/
def accessSpan : HostAccess → Nat × Nat
  | .read pa n => (pa, n)
  | .write pa bs => (pa, bs.length)
  | .atomic _ wide pa _ _ => (pa, if wide then 8 else 4)

/-- The access only writes. -/
def accessWrites : HostAccess → Bool
  | .write _ _ => true
  | _ => false

/-- `n` bytes without a value: free ones. -/
def State.freeBytes (s : State) (n : Nat) : State × List Byte :=
  ({ s with fresh := s.fresh + n }, (List.range n).map (fun i => (Config.freeBits (s.fresh + i)).setWidth 8))

/-- An access to what is not backed: dropped, aborted in PCIe mode, or answered with poison in CXL mode (R434). -/
def State.unbackedAccess (s : State) (a : HostAccess) : State :=
  if accessWrites a then s
  else if s.port = .pcie then s.respond none
  else
    let (s1, bs) := s.freeBytes (accessSpan a).2
    s1.respond (some (bs, true))

/-- BAR2 in RECOVERY: the staging area, with ones beyond it (R444). -/
def State.stagingAccess (s : State) : HostAccess → State
  | .read off n => s.respond (some ((List.range n).map (fun i =>
      if off + i < 2 ^ 26 then Cells.get 0 s.plat.staging (off + i) else 0xFF), false))
  | .write off bs =>
    { s with plat := { s.plat with staging := (laid off bs).foldl (fun m c =>
        if c.1 < 2 ^ 26 then Cells.put 0 m c.1 c.2 else m) s.plat.staging } }
  | .atomic _ _ _ _ _ => s

/-- What the host reaches: HBM, and in CXL mode LPDDR6 (Table 20-3). -/
def State.hostReaches (s : State) (pa n : Nat) : Bool :=
  let last := pa + n - 1
  (last < 2 ^ 40 || (s.port = .cxl && 2 ^ 42 ≤ pa && last < 2 ^ 42 + 2 ^ 41)) && s.allMemory pa n

/-- An AtomicOp outside HBM, of which the part is no completer (Table 20-3, assumption 93). -/
def strayAtomic : HostAccess → Bool
  | .atomic _ wide pa _ _ => 2 ^ 40 < pa + (if wide then 8 else 4)
  | _ => false

/-- `HOST_MEMORY_ACCESS` (R434, R444). -/
def execHostMemoryAccess (a : HostAccess) (s : State) : Host.Outcome State Fault Refusal :=
  let (pa, n) := accessSpan a
  if s.plat.state = 15 then .next (s.stagingAccess a)
  else if !s.hostReady || s.dead.contains .host || n = 0 then .next s
  else if !s.hostReaches pa n then .next (s.unbackedAccess a)
  else if strayAtomic a then .next (s.respond none)
  else
    let s1 := s.outerAccess a
    .next (if s.port = .cxl && !accessWrites a then s1.hostShares pa n else s1)

/-- ULIMP admits peers to an HBM address (Table 20-1). -/
def State.admitsPeers (s : State) (pa : Nat) : Bool :=
  isHbm pa && (Cells.get 0 s.host.ulimp (pa / 2 ^ 30 / 64)).getLsbD (pa / 2 ^ 30 % 64)

/-- `UALINK_INCOMING_REQUEST`: performed when ULIMP admits its address, and refused otherwise (R436). -/
def execUalinkIncomingRequest (r : PeerRequest) (s : State) : Host.Outcome State Fault Refusal :=
  let (pa, n) := accessSpan r.acc
  if !s.hostReady || s.dead.contains (.peer r.src) || n = 0 then .next s
  else if s.admitsPeers pa && s.admitsPeers (pa + n - 1) && s.allMemory pa n then .next (s.outerAccess r.acc)
  else .next (if accessWrites r.acc then s else s.respond none)

/-- The CXL.cache state of half `h` of a host-window line. -/
def HostLine.state (x : HostLine) (h : Nat) : HalfSt := if h = 0 then x.s0 else x.s1

/-- A half of a host-window line after a snoop that leaves it in `st`, host memory holding what it held; the copies on remote
dies go (R433). -/
def HostLine.snoop (x : HostLine) (h : Nat) (st : HalfSt) (line : BitVec 1024) : HostLine :=
  if h = 0 then { x with s0 := st, h0 := halfOf line 0, sharers := 0 }
  else { x with s1 := st, h1 := halfOf line 1, sharers := 0 }

/-- A host-window line with its halves' states; one with both halves in I is the host's own again. -/
def State.setHostLine (s : State) (line : Nat) (x : HostLine) : State :=
  if x.s0 = .i && x.s1 = .i then
    { s with
      hostLines := Cells.erase s.hostLines line, poison := s.poison.filter (· != line)
      reported := s.reported.filter (· != line) }
  else { s with hostLines := Cells.set s.hostLines line x }

/-- The response to a snoop of a half that the bridge holds: its bytes, poisoned when the line is; what was in M is in host
memory from then on (R433). -/
def State.snoopReturns (s : State) (half : Nat) (st : HalfSt) : State :=
  let bad := s.poison.contains (half / 2)
  let s1 := s.respond (some (s.bytesUnder 0 (64 * half) 64, bad))
  if st = .m && bad then { s1 with hostBad := NatSet.insert s1.hostBad half } else s1

/-- The host writes a half that it owns, whole. -/
def State.hostOwns (s : State) (half : Nat) : Option (BitVec 512) → State
  | none => s
  | some d =>
    { s.store 0 (half / 2) ((List.range 64).map (fun i => (64 * (half % 2) + i, d.extractLsb' (8 * i) 8))) with
      hostBad := s.hostBad.filter (· != half) }

/-- An armed watch needs the half: the bridge will read it again (R353). -/
def State.needsReread (s : State) (half : Nat) : State :=
  if s.watches.any (fun w => w.w.pa / 64 = half) then { s with rereads := NatSet.insert s.rereads half } else s

/-- `HOST_SNOOP` of half `half` of the host window, counted in 64-byte units of the physical address; after SnpInv the host
may write `data` there; the copies of the line on other dies go before the response (R353, R433). -/
def execHostSnoop (kind : SnoopKind) (half : Nat) (data : Option (BitVec 512)) (s : State) : Host.Outcome State Fault Refusal :=
  let line := half / 2
  let x := Cells.get {} s.hostLines line
  let st := x.state (half % 2)
  if !isHostWin (64 * half) || s.port = .pcie || s.dead.contains .host || st = .i then .next s
  else
    let s1 := s.snoopReturns half st
    match kind with
    | .cur => .next ((s.respond s1.host.response).soleHost line)
    | .data => .next (s1.setHostLine line (x.snoop (half % 2) .s (s.rawLine line)))
    | .inv => .next (((s1.setHostLine line (x.snoop (half % 2) .i (s.rawLine line))).hostOwns half data).needsReread half)

/-- `reread`: the bridge reads again a half that a snoop took from under an armed watch, and evaluates its entries against the
value it reads (R353). -/
def State.reread (s : State) (half : Nat) : State :=
  if !s.rereads.contains half || s.dead.contains .host then s
  else
    let s1 := { s with rereads := s.rereads.filter (· != half) }.homeTouch {} (64 * half)
    s1.evalWatches (s1.watches.filter (fun w => w.w.pa / 64 = half))

/-! ### What the host reads in BAR0 (R7, R20, R39, R427, R444) -/

/-- A register of the host control block; WO and RSVD read 0 (Table 20-1). -/
def HostCtl.word (h : HostCtl) (off : Nat) : W64 :=
  if 0x100 ≤ off && off ≤ 0x178 then Cells.get 0 h.ulimp ((off - 0x100) / 8)
  else if 0x1000 ≤ off && off ≤ 0x2FF8 then Cells.get 0 h.ulroute ((off - 0x1000) / 8)
  else match off with
    | 0x000 => h.fcbase
    | 0x008 => w64 (256 * h.fclogn + h.fcen.toNat)
    | 0x010 => h.fcpi.setWidth 64
    | 0x018 => h.fcci.setWidth 64
    | 0x030 => h.lcstat.setWidth 64
    | 0x038 => h.hbto.setWidth 64
    | 0x040 => h.hbeat
    | 0x050 => w64 h.svreq.isSome.toNat
    | 0x200 => h.ulid.setWidth 64
    | _ => 0

/-- BOOTSTAT (Table 21-3). -/
def Platform.bootstat (p : Platform) : W64 := w64 (p.fwver.toNat * 2 ^ 32 + p.err.toNat * 2 ^ 8 + p.state.toNat)

/-- A word of a die's error log: the write index and the records lost, or half of a record (R452). -/
def ErrLog.word (e : ErrLog) (off : Nat) : W64 :=
  if off = 0 then w64 (e.idx + 2 ^ 16 * e.lost)
  else if off < 16 then 0
  else
    let r := Cells.get (0, 0) e.recs ((off - 16) / 16)
    if off % 16 < 8 then r.1 else r.2

/-- A register of the platform block; WO and RSVD read 0 (Table 21-2). -/
def Platform.word (p : Platform) (off : Nat) : W64 :=
  if off = 0x000 then p.bootstat
  else if off = 0x018 then p.keystat.setWidth 64
  else if 0x100 ≤ off && off ≤ 0x118 then w64 (takeAt 0 p.rates ((off - 0x100) / 8))
  else if 0x1000 ≤ off && off < 0x2000 then (Cells.get {} p.elogs ((off - 0x1000) / 0x400)).word (off % 0x400)
  else if 0x2000 ≤ off && off < 0x2400 then
    let c := Cells.get {} p.pctr ((off - 0x2000) / 16)
    if off % 16 < 8 then c.ctl else c.val.setWidth 64
  else if 0x3000 ≤ off && off < 0x3800 then (Cells.get 0 p.stale ((off - 0x3000) / 8)).setWidth 64
  else 0

/-- A 64-bit word of BAR0 for the host; none where the block does not answer, and zeros between the blocks (R39, R443,
R444). -/
def State.barWord (s : State) (off : Nat) : Option W64 :=
  if 0x40000 ≤ off && off < 0x44000 then (if s.platformThere then some (s.plat.word (off - 0x40000)) else none)
  else if !s.hostReady then none
  else if off < 0x1000 then some (s.configWord off)
  else if 0x10000 ≤ off && off < 0x11000 then some ((s.queue ((off - 0x10000) / 64)).word (off % 64))
  else if 0x20000 ≤ off && off < 0x21000 then some ((s.part ((off - 0x20000) / 256)).word (off % 256))
  else if 0x30000 ≤ off && off < 0x34000 then some (s.host.word (off - 0x30000))
  else some 0

/-- `barRead`: the host reads `n` bytes at an offset of BAR0. An access that is not of 64 aligned bits reads all ones (R39,
assumption 92). -/
def State.barRead (s : State) (off n : Nat) : State :=
  if s.dead.contains .host then s
  else if n != 8 || off % 8 != 0 then s.respond (some (List.replicate n 0xFF, false))
  else s.respond ((s.barWord off).map (fun w => (leBytes w.toNat 8, false)))

end Sys2Proof.Machine
end

