-- ==== Sys2Proof/Machine/Lanes.lean ====
section
/-! DEFINITION. Lane instructions (R158 to R162). -/

namespace Sys2Proof.Machine

/-- `vote` (R159). -/
def execVote (h : Head) (vm : VoteOp) (d a : Operand) (s : State) : Host.Outcome State Fault Refusal :=
  s.issue h { coll := true } [{ slotD d false with okP := vm != .ballot }, slotP .a a false] (fun s v =>
    let on := v.act.filter (fun l => (s.src v.c v.g (v.op .a) false none l).v != 0)
    let r : W64 := match vm with
      | .any => truth (!on.isEmpty)
      | .all => truth (on.length = v.act.length)
      | .ballot => w64 (laneMask on)
    .done (s.dst v.c (v.op .d) false (v.act.map (fun l => (l, ⟨r, false⟩)))))

/-- Copied elements delivered; into a predicate, a tagged one is consumed (R405). -/
def View.deliver (v : View) (s : State) (wide : Bool) (res : List LaneRes) : Effect :=
  let hits := (res.filter (fun r => r.2.tag)).map (fun r => (r.1, r.2.v))
  match (match v.op .d with | .p _ => v.g.consumeTrap hits | _ => none) with
  | some t => .trap s t
  | none => .done (s.dst v.c (v.op .d) wide res)

/-- Copied 64-bit elements delivered; into a predicate, a tagged one is consumed (R405, R406). -/
def View.deliverPair (v : View) (s : State) (res : List PairRes) : Effect :=
  match v.op .d with
  | .p _ => v.deliver s true (res.map (fun r => (r.1, joined r.2.1 r.2.2)))
  | _ => .done (s.dstPair v.c (v.op .d) res)

/-- The lane that `shfl` copies from (R160). -/
def shflFrom (sm : ShflOp) (w l b : Nat) : Nat :=
  match sm with
  | .idx => b % w
  | .up => if l < b then l else l - b
  | .down => if w ≤ l + b then l else l + b
  | .xor => if w ≤ l ^^^ b then l else l ^^^ b

/-- `shfl` (R160). -/
def execShfl (h : Head) (sm : ShflOp) (d a b : Operand) (s : State) : Host.Outcome State Fault Refusal :=
  s.issue h { coll := true, rpt := true } [slotD d false,
      { pos := .a, op := a, okS := false, okP := false, okSp := false, okK := false }, slotS .b b false d] (fun s v =>
    v.deliver s false (v.act.map (fun l =>
      let k := (s.src v.c v.g (v.op .b) false none l).v.toNat
      (l, s.src v.c v.g (v.op .a) false none (shflFrom sm v.g.width l k)))))

/-- `bcast` (R161): the element of lane B mod W, whatever its state. -/
def execBcast (h : Head) (ty : Ty) (d a b : Operand) (s : State) : Host.Outcome State Fault Refusal :=
  let w := tyWide ty
  s.issue h { rpt := true } [slotD d w,
      { pos := .a, op := a, wide := w, okS := false, okP := false, okSp := false, okK := false },
      { slotS .b b false d with okV := false, okP := false, okSp := false }] (fun s v =>
    let n : Nat := match v.op .a with
      | .v n => n.toNat
      | _ => 0
    let from_ (k l : Nat) : Elem :=
      v.g.elemAt (v.g.slotOf v.g.depth (n + k)) ((s.src v.c v.g (v.op .b) false none l).v.toNat % v.g.width)
    if w then v.deliverPair s (v.act.map (fun l => (l, from_ 0 l, from_ 1 l)))
    else v.deliver s false (v.act.map (fun l => (l, ⟨(from_ 0 l).v.setWidth 64, (from_ 0 l).tag⟩))))

/-- One step of a lane reduction (Table 9-4). -/
def laneStep (op : LaneOp) (ty : Ty) (x y : W64) : W64 :=
  match ty with
  | .f32 =>
    match op with
    | .add => w64 (fAdd fF32 {} x.toNat y.toNat).bits
    | .min => w64 (fMinMax fF32 false {} x.toNat y.toNat).bits
    | .max => w64 (fMinMax fF32 true {} x.toNat y.toNat).bits
    | _ => 0
  | _ =>
    match op with
    | .add => w64 (wrap (tyBits ty) (val ty x + val ty y))
    | .min => if val ty y < val ty x then y else x
    | .max => if val ty x < val ty y then y else x
    | .and => x &&& y
    | .or => x ||| y
    | .xor => x ^^^ y

/-- `canon` of R162. -/
def canonOf (ty : Ty) (x : W64) : W64 :=
  match ty with
  | .f32 =>
    match fF32.decode x.toNat with
    | .nan _ => w64 fF32.canon
    | _ => x
  | _ => x

/-- The identity of Table 9-4. -/
def laneIdentity (op : LaneOp) (ty : Ty) : W64 :=
  match ty with
  | .f32 =>
    match op with
    | .add => 0x80000000
    | .min => 0x7F800000
    | .max => 0xFF800000
    | _ => 0
  | _ =>
    match op with
    | .min => w64 (wrap (tyBits ty) (tyHi ty))
    | .max => w64 (wrap (tyBits ty) (tyLo ty))
    | .and => w64 (2 ^ tyBits ty - 1)
    | _ => 0

/-- The fold of R162 from a partial result: the further ones. -/
def laneFold (op : LaneOp) (ty : Ty) (acc : W64) : List W64 → List W64
  | [] => []
  | x :: r => laneStep op ty acc x :: laneFold op ty (laneStep op ty acc x) r

/-- I[0], I[1], …, I[W − 1] of R162. -/
def laneInclusive (op : LaneOp) (ty : Ty) : List W64 → List W64
  | [] => []
  | x :: r => canonOf ty x :: laneFold op ty x r

/-- What each half of a 64-bit fold depends on in every lane it takes in (R404). -/
def laneDep : LaneOp → Dep
  | .add => .carry
  | .and | .or | .xor => .halves
  | .min | .max => .all

/-- The operation is one that Table 9-4 gives for the type. -/
def laneLegal (op : LaneOp) (ty : Ty) : Bool := ty != .f32 || [LaneOp.add, .min, .max].contains op

/-- The operands of `lred` and `lscan`: an illegal operation allows none (R162). -/
def laneSlots (op : LaneOp) (ty : Ty) (d a : Operand) : List Slot :=
  let w := tyWide ty
  let x := slotS .a a w d
  [slotD d w, if laneLegal op ty then x
    else { x with okV := false, okS := false, okP := false, okSp := false, okK := false }]

/-- The lanes' values of A. -/
def State.laneSources (s : State) (v : View) (ty : Ty) : List W64 :=
  v.act.map (fun l => s.raw v.c v.g (v.op .a) (tyWide ty) (if ty = .f32 then some fF32 else none) l)

/-- A fold over some lanes as two elements, each with the tag of the first lane's element it depends on (R404). -/
def View.folded (v : View) (op : LaneOp) (ty : Ty) (ls : List Nat) (x : W64) : Elem × Elem :=
  let half (hi : Bool) : Elem :=
    match ls.findSome? (v.g.halfTag (laneDep op) hi (v.op .a) (tyWide ty)) with
    | some b => ⟨b, true⟩
    | none => ⟨(if hi then x >>> 32 else x).setWidth 32, false⟩
  (half false, half true)

/-- Folds delivered, each lane's over the lanes given. -/
def State.dstFolds (s : State) (v : View) (op : LaneOp) (ty : Ty) (res : List (Nat × List Nat × W64)) : State :=
  let out := res.map (fun r => (r.1, v.folded op ty r.2.1 r.2.2))
  if tyWide ty then s.dstPair v.c (v.op .d) out
  else s.dst v.c (v.op .d) false (out.map (fun r => (r.1, ⟨r.2.1.v.setWidth 64, r.2.1.tag⟩)))

/-- `lred` (R162). -/
def execLred (h : Head) (ty : Ty) (d a : Operand) (op : LaneOp) (s : State) : Host.Outcome State Fault Refusal :=
  s.issue h { coll := true, rpt := true } (laneSlots op ty d a) (fun s v =>
    let r := (laneInclusive op ty (s.laneSources v ty)).getLastD 0
    .done (s.dstFolds v op ty (v.act.map (fun l => (l, v.act, r)))))

/-- `lscan` (R162). -/
def execLscan (h : Head) (ty : Ty) (d a : Operand) (op : LaneOp) (s : State) : Host.Outcome State Fault Refusal :=
  s.issue h { coll := true, rpt := true } (laneSlots op ty d a) (fun s v =>
    let i := laneInclusive op ty (s.laneSources v ty)
    let out := if h.mods.om then laneIdentity op ty :: i else i
    .done (s.dstFolds v op ty ((v.act.zip out).zipIdx.map (fun x =>
      (x.1.1, v.act.take (if h.mods.om then x.2 else x.2 + 1), x.1.2)))))

end Sys2Proof.Machine
end

