-- ==== Sys2Proof/Machine/Signing.lean ====
section
/-! DEFINITION. The signatures that R443 and R445 name, as their standards give them (assumption 13): the verification of
Ed25519 (RFC 8032), and the keys, signatures and verification of ML-DSA-65 (FIPS 204). Bytes are numbers below 256. -/

namespace Sys2Proof.Machine

/-! ### Ed25519 verification -/

/-- The point of 32 bytes; none where no point has them. -/
def edDecode (bs : List Nat) : Option (Nat × Nat × Nat × Nat) :=
  let p := p25519
  let n := octetsLe bs
  let y := n % 2 ^ 255
  let u := subMod (y * y) 1
  let v := (edD * (y * y) + 1) % p
  let x0 := u * v ^ 3 % p * powMod p (u * v ^ 7) ((p - 5) / 8) % p
  let vxx := v * (x0 * x0) % p
  let root : Option Nat :=
    if vxx = u then some x0 else if vxx = subMod 0 u then some (x0 * powMod p 2 ((p - 1) / 4) % p) else none
  if p ≤ y then none
  else root.bind (fun x =>
    if x = 0 && n / 2 ^ 255 % 2 = 1 then none
    else
      let x := if x % 2 = n / 2 ^ 255 % 2 then x else subMod 0 x
      some (x, y, 1, x * y % p))

/-- An Ed25519 signature of bytes verifies under a public key. -/
@[irreducible] def edVerify (key m sig : List Nat) : Bool :=
  match edDecode key with
  | none => false
  | some (x, y, z, t) =>
    let r := sig.take 32
    let s := octetsLe (sig.drop 32)
    let k := octetsLe (sha512 (r ++ key ++ m)) % edOrder
    let minus := (subMod 0 x, y, z, subMod 0 t)
    sig.length = 64 && s < edOrder && edEncode (edAdd (edTimes s edBase) (edTimes k minus)) = r

/-! ### Polynomials of ML-DSA -/

/-- The modulus. -/
def dsaQ : Nat := 8380417

/-- The low 8 bits of a number in reverse. -/
def rev8 (n : Nat) : Nat := rounds 8 (fun r i => 2 * r + n / 2 ^ i % 2) 0

/-- A power of 1753 modulo q. -/
def dsaZeta (e : Nat) : Nat := rounds e (fun r _ => 1753 * r % dsaQ) 1

/-- The transform of a polynomial. -/
def dsaNtt (p : List Nat) : List Nat :=
  rounds 8 (fun p l => nttLayer (128 / 2 ^ l) (fun a b k =>
    let t := dsaZeta (rev8 (2 ^ l + k)) * b % dsaQ
    ((a + t) % dsaQ, (a + dsaQ - t) % dsaQ)) p) p

/-- The inverse transform. -/
def dsaInv (p : List Nat) : List Nat :=
  (rounds 8 (fun p l => nttLayer (2 ^ l) (fun a b k =>
    ((a + b) % dsaQ, dsaZeta (rev8 (2 ^ (8 - l) - 1 - k)) * (b + dsaQ - a) % dsaQ)) p) p).map (fun x => 8347681 * x % dsaQ)

/-- The sum of two polynomials. -/
def dsaAdd (f g : List Nat) : List Nat := List.zipWith (fun a b => (a + b) % dsaQ) f g

/-- The difference of two polynomials. -/
def dsaSub (f g : List Nat) : List Nat := List.zipWith (fun a b => (a + dsaQ - b) % dsaQ) f g

/-- The product of two transforms. -/
def dsaMul (f g : List Nat) : List Nat := List.zipWith (fun a b => a * b % dsaQ) f g

/-- The product of a transform with each of some transforms, as polynomials. -/
def dsaTimes (c : List Nat) (ps : List (List Nat)) : List (List Nat) := ps.map (fun p => dsaInv (dsaMul c (dsaNtt p)))

/-- The product of a matrix and a vector of transforms. -/
def dsaApply (m : List (List (List Nat))) (v : List (List Nat)) : List (List Nat) :=
  m.map (fun row => (List.zipWith dsaMul row v).foldl dsaAdd (List.replicate 256 0))

/-- A number modulo `m`, nearest 0. -/
def centred (m x : Nat) : Int :=
  let r := x % m
  if m < 2 * r then (r : Int) - m else r

/-- The greatest magnitude of a coefficient. -/
def dsaNorm (ps : List (List Nat)) : Nat := (ps.flatMap (fun p => p.map (fun x => (centred dsaQ x).natAbs))).foldl max 0

/-- A coefficient as its high part and its low part around multiples of 2 γ2. -/
def dsaSplit (x : Nat) : Nat × Int :=
  let r := centred 523776 x
  if (x : Int) - r = dsaQ - 1 then (0, r - 1) else (((x : Int) - r).toNat / 523776, r)

/-! ### Sampling -/

/-- SHAKE256. -/
def shake256 (out : Nat) (m : List Nat) : List Nat := keccak 136 0x1F out m

/-- The public matrix of a seed. -/
def dsaMatrix (rho : List Nat) : List (List (List Nat)) :=
  (List.range 6).map (fun r => (List.range 5).map (fun s =>
    (((bitsDecode 24 448 (keccak 168 0x1F 1344 (rho ++ [s, r]))).map (· % 2 ^ 23)).filter (· < dsaQ)).take 256))

/-- A polynomial with coefficients of at most 4. -/
def dsaSmall (seed : List Nat) : List Nat :=
  (((bitsDecode 4 1088 (shake256 544 seed)).filter (· < 9)).take 256).map (fun b => (dsaQ + 4 - b) % dsaQ)

/-- The challenge polynomial, with 49 coefficients of 1 or −1. -/
def dsaBall (seed : List Nat) : List Nat :=
  let bs := shake256 544 seed
  let signs := octetsLe (bs.take 8)
  ((bs.drop 8).foldl (fun (s : List Nat × Nat) j =>
    if 256 ≤ s.2 || s.2 < j then s
    else
      let c := modifyAt s.1 s.2 (fun _ => octet s.1 j)
      (modifyAt c j (fun _ => if signs.testBit (s.2 - 207) then dsaQ - 1 else 1), s.2 + 1)) (List.replicate 256 0, 207)).1

/-! ### Keys and signatures of ML-DSA-65 -/

/-- A key pair, with what its signatures need. -/
structure DsaKey where
  rho : List Nat
  priv : List Nat
  pub : List Nat
  s1 : List (List Nat)
  s2 : List (List Nat)
  t0 : List (List Nat)

/-- The key pair of a 32-byte seed. -/
def dsaKey (seed : List Nat) : DsaKey :=
  let h := shake256 128 (seed ++ [6, 5])
  let rho := h.take 32
  let r := (h.drop 32).take 64
  let s1 := (List.range 5).map (fun i => dsaSmall (r ++ [i, 0]))
  let s2 := (List.range 6).map (fun i => dsaSmall (r ++ [i + 5, 0]))
  let t := List.zipWith dsaAdd ((dsaApply (dsaMatrix rho) (s1.map dsaNtt)).map dsaInv) s2
  let low (x : Nat) : Int := centred 8192 x
  { rho, priv := h.drop 96, s1, s2
    pub := rho ++ t.flatMap (fun p => bitsEncode 10 (p.map (fun (x : Nat) => ((x : Int) - low x).toNat / 8192)))
    t0 := t.map (fun p => p.map (fun x => ((low x) % dsaQ).toNat)) }

/-- The message representative of bytes with an empty context. -/
def dsaMu (pub m : List Nat) : List Nat := shake256 64 (shake256 64 pub ++ [0, 0] ++ m)

/-- The challenge of a message representative and the high parts of a vector. -/
def dsaChallenge (mu : List Nat) (high : List (List Nat)) : List Nat := shake256 48 (mu ++ high.flatMap (bitsEncode 4))

/-- The hints of a signature as bytes. -/
def hintEncode (hs : List (List Bool)) : List Nat :=
  let at_ (h : List Bool) : List Nat := (h.zipIdx.filter (·.1)).map (·.2)
  let all := hs.flatMap at_
  all ++ List.replicate (55 - all.length) 0 ++ (List.range 6).map (fun i => ((hs.take (i + 1)).flatMap at_).length)

/-- One attempt at a signature, with the mask of number `kappa`. -/
def dsaTry (k : DsaKey) (a : List (List (List Nat))) (mu mask : List Nat) (kappa : Nat) : Option (List Nat) :=
  let y := (List.range 5).map (fun r =>
    (bitsDecode 20 256 (shake256 640 (mask ++ leOctets (kappa + r) 2))).map (fun v => (dsaQ + 524288 - v) % dsaQ))
  let w := (dsaApply a (y.map dsaNtt)).map dsaInv
  let c := dsaChallenge mu (w.map (fun p => p.map (fun x => (dsaSplit x).1)))
  let ch := dsaNtt (dsaBall c)
  let z := List.zipWith dsaAdd y (dsaTimes ch k.s1)
  let r := List.zipWith dsaSub w (dsaTimes ch k.s2)
  let ct := dsaTimes ch k.t0
  let hs := List.zipWith (fun p q => List.zipWith (fun x t => decide ((dsaSplit x).1 ≠ (dsaSplit ((x + t) % dsaQ)).1)) p q) r ct
  let low := (r.flatMap (fun p => p.map (fun x => (dsaSplit x).2.natAbs))).foldl max 0
  if 524288 - 196 ≤ dsaNorm z || 261888 - 196 ≤ low || 261888 ≤ dsaNorm ct || 55 < (hs.flatten.filter id).length then none
  else some (c ++ z.flatMap (fun p => bitsEncode 20 (p.map (fun x => (524288 - centred dsaQ x).toNat))) ++ hintEncode hs)

/-- The first attempt that succeeds. -/
def dsaAttempts (k : DsaKey) (a : List (List (List Nat))) (mu mask : List Nat) : Nat → Nat → List Nat
  | 0, _ => []
  | n + 1, kappa =>
    match dsaTry k a mu mask kappa with
    | some s => s
    | none => dsaAttempts k a mu mask n (kappa + 5)

/-- The public key of a seed: 1,952 bytes. -/
@[irreducible] def dsaPublic (seed : List Nat) : List Nat := (dsaKey seed).pub

/-- The signature of bytes under a seed with 32 random bytes: 3,309 bytes. -/
@[irreducible] def dsaSign (seed rnd m : List Nat) : List Nat :=
  let k := dsaKey seed
  let mu := dsaMu k.pub m
  dsaAttempts k (dsaMatrix k.rho) mu (shake256 64 (k.priv ++ rnd ++ mu)) 1000 0

/-- The hints that 61 bytes stand for; none where no signer writes them. -/
def hintDecode (bs : List Nat) : Option (List (List Bool)) :=
  let ends := bs.drop 55
  let part (i : Nat) : List Nat :=
    let from_ := if i = 0 then 0 else octet ends (i - 1)
    ((bs.take (octet ends i)).drop from_)
  let rising (l : List Nat) : Bool := (l.zip (l.drop 1)).all (fun x => x.1 < x.2)
  let ok : Bool := (List.range 6).all (fun i => (i = 0 || octet ends (i - 1) ≤ octet ends i) && octet ends i ≤ 55 && rising (part i))
    && ((bs.take 55).drop (octet ends 5)).all (· = 0)
  if ok then some ((List.range 6).map (fun i => (List.range 256).map (part i).contains)) else none

/-- A high part corrected by its hint. -/
def useHint (h : Bool) (x : Nat) : Nat :=
  let (r1, r0) := dsaSplit x
  if !h then r1 else if 0 < r0 then (r1 + 1) % 16 else (r1 + 15) % 16

/-- An ML-DSA-65 signature of bytes verifies under a public key. -/
@[irreducible] def dsaVerify (pub m sig : List Nat) : Bool :=
  let c := sig.take 48
  let z := (List.range 5).map (fun i =>
    (bitsDecode 20 256 (((sig.drop 48).drop (640 * i)).take 640)).map (fun v => (dsaQ + 524288 - v) % dsaQ))
  match hintDecode (sig.drop 3248) with
  | none => false
  | some hs =>
    let t := (List.range 6).map (fun i => (bitsDecode 10 256 (((pub.drop 32).drop (320 * i)).take 320)).map (· * 8192))
    let ch := dsaNtt (dsaBall c)
    let w := List.zipWith dsaSub ((dsaApply (dsaMatrix (pub.take 32)) (z.map dsaNtt)).map dsaInv) (dsaTimes ch t)
    let high := List.zipWith (List.zipWith useHint) hs w
    pub.length = 1952 && sig.length = 3309 && dsaNorm z < 524288 - 196 && dsaChallenge (dsaMu pub m) high = c

end Sys2Proof.Machine
end

