-- ==== Sys2Proof/Machine/Platform.lean ====
section
/-! DEFINITION. Boot, recovery, attestation and keys (R443 to R446), power (R358, R447, R448), the detection of dead
agents (R440 to R442), and the links (R21, R431, R435). -/

namespace Sys2Proof.Machine

/-! ### Boot (R443, R444) -/

/-- R19: every crown die has an enabled core and an enabled pseudo-channel. -/
def PkgCfg.diesOk (c : PkgCfg) : Bool :=
  (List.range 4).all (fun d => (List.range 80).any (fun i => c.core (80 * d + i))
    && (List.range 256).any (fun i => !(fencedPchans c).contains (256 * d + i)))

/-- Boot ends in RECOVERY with an error code. -/
def State.bootFails (s : State) (err : BitVec 8) : State := { s with plat := { s.plat with state := 15, err } }

/-- The configuration record loaded: the units that it enables, and partition 0 with every enabled core (R8, R50). -/
def State.loadConfig (s : State) : State :=
  let c := s.plat.flashCfg
  let cores : BitVec 320 := BitVec.ofNat 320 ((List.range 320).foldl (fun m i => if c.core i then m + 2 ^ i else m) 0)
  { s with cfg := c, parts := [(0, { Partition.zero with pcore := cores })] }

/-- Boot moves on to the next step of Table 21-1. -/
def State.bootsTo (s : State) (state : BitVec 4) : State := { s with plat := { s.plat with state } }

/-- `boot`: the step that STATE names is run, and boot moves on to the next or ends in RECOVERY (Table 21-1). -/
def State.bootStep (s : State) : State :=
  let n := s.plat.attempts
  let fw := s.plat.booting
  match s.plat.state.toNat with
  | 1 => if Config.bootStepPasses 1 n then s.bootsTo 2 else s.bootFails 0x01
  | 2 =>
    if s.plat.flashCfg.signed && s.plat.flashCfg.diesOk then
      { s with plat := { s.plat with state := 3, booting := s.plat.flashFw } }
    else s.bootFails 0x02
  | 3 =>
    if !fw.signed then s.bootFails 0x03
    else
      let s1 := { s with plat := { s.plat with fwver := fw.version, fw := some fw } }
      if fw.version.toNat < s.plat.flashCfg.minfw.toNat then s1.bootFails 0x04 else s1.bootsTo 4
  | 4 => if Config.bootStepPasses 4 n then s.loadConfig.bootsTo 5 else s.loadConfig.bootFails 0x05
  | 5 => if Config.bootStepPasses 5 n then { s with plat := { s.plat with state := 6, err := 0 } } else s.bootFails 0x06
  | _ => s

/-- Host memory once the device has lost what it held modified (R433). -/
def State.hostMemory (s : State) : List Host.Cell :=
  let put (m : List Host.Cell) (line h : Nat) (d : BitVec 512) : List Host.Cell :=
    Memory.writeN m (128 * line + 64 * h) (leBytes d.toNat 64)
  s.hostLines.foldl (fun m x =>
    let m1 := if x.2.s0 = .m then put m x.1 0 x.2.h0 else m
    if x.2.s1 = .m then put m1 x.1 1 x.2.h1 else m1)
    (s.mem.filter (fun c => isHostWin c.1 || isPeerWin c.1))

/-- The part after module reset, boot at its first step: what is outside it, its flash, its links and its faults stay. -/
def State.moduleReset (s : State) : State :=
  { State.reset with
    turns := s.turns, fresh := s.fresh, mem := s.hostMemory, cxlGib := s.cxlGib, port := s.port, ulDown := s.ulDown
    host := { lanes := s.host.lanes, rate := s.host.rate }
    plat := { state := 1, flashFw := s.plat.flashFw, flashCfg := s.plat.flashCfg, attempts := s.plat.attempts + 1 }
    units := (s.units.filter (fun u => u.2.failing != 0)).map (fun u => (u.1, { failing := u.2.failing })) }

/-- `MODULE_RESET` (R443). -/
def execModuleReset (s : State) : Host.Outcome State Fault Refusal := .next s.moduleReset

/-- The numbers below `n` that an enable mask of a record fences. -/
def fencedBy (n : Nat) (mask : BitVec 1024) : List Nat := (List.range n).filter (fun i => !mask.getLsbD i)

/-- The bytes of a part of a signed object, by the numbers of `Config.objectPart`. -/
def objectPart (k : Nat) (b : Cells Byte) : List Nat :=
  let e := Config.objectPart k b
  (List.range e.2).map (fun i => (Cells.get 0 b (e.1 + i)).toNat)

/-- A signed object passes: both its keys are those of mask ROM, and both its signatures verify over the SHA-512 digest of its
body (R443). -/
@[irreducible] def objectSigned (b : Cells Byte) : Bool :=
  let m := sha512 (objectPart 1 b)
  let known (k : Nat) (key : List Nat) : Bool := sha512 key = leOctets (Config.romKeyDigest k).toNat 64
  known 0 (objectPart 2 b) && known 1 (objectPart 4 b)
    && edVerify (objectPart 2 b) m (objectPart 3 b) && dsaVerify (objectPart 4 b) m (objectPart 5 b)

/-- The configuration record that staged bytes hold. -/
def recordFrom (b : Cells Byte) : PkgCfg :=
  let f (k : Nat) : Nat := (Config.recordField k b).toNat
  { step := BitVec.ofNat 8 (f 0), cfgver := BitVec.ofNat 8 (f 1), serno := BitVec.ofNat 32 (f 2), lpg := f 3 % 2 ^ 16
    featpkg := BitVec.ofNat 64 (f 4 % 2 ^ 10), minfw := BitVec.ofNat 16 (f 5), fcores := fencedBy 320 (Config.recordField 6 b)
    froots := fencedBy 512 (Config.recordField 7 b), fpchans := fencedBy 1024 (Config.recordField 8 b)
    flanes := fencedBy 72 (Config.recordField 9 b)
    fsubs := ((List.range 320).map (fun c => (c, ~~~(BitVec.ofNat 16 (f (16 + c)))))).filter (fun x => x.2 != 0)
    signed := objectSigned b, body := b }

/-- The firmware image that staged bytes hold. -/
def imageFrom (b : Cells Byte) : Firmware := { version := Config.firmwareVersion b, signed := objectSigned b, body := b }

/-- The staged record taken when CFG asks for it; none when it fails (R444). -/
def State.takeRecord (s : State) (cfg : Bool) : Option State :=
  let old := s.plat.flashCfg
  if cfg then
    let c := recordFrom (Cells.slice s.plat.staging (63 * 2 ^ 20) (2 ^ 20))
    if c.signed && c.diesOk && old.cfgver.toNat ≤ c.cfgver.toNat then some { s with plat := { s.plat with flashCfg := c } }
    else none
  else if old.signed && old.diesOk then some s else none

/-- `BOOTCMD_GO`: a write of BOOTCMD, acted on in RECOVERY when GO is 1 (R444). -/
def execBootcmdGo (v : W64) (s : State) : Host.Outcome State Fault Refusal :=
  if s.plat.state != 15 || !v.getLsbD 63 then .next s
  else
    let s1 := { s with plat := { s.plat with attempts := s.plat.attempts + 1 } }
    match s1.takeRecord (v.getLsbD 61) with
    | none => .next (s1.bootFails 0x02)
    | some s2 =>
      let fw := imageFrom (Cells.slice s2.plat.staging 0 (63 * 2 ^ 20))
      let ok : Bool := fw.signed && decide (s2.plat.flashCfg.minfw.toNat ≤ fw.version.toNat)
      let s3 := if v.getLsbD 62 && ok then { s2 with plat := { s2.plat with flashFw := fw } } else s2
      .next { s3 with plat := { s3.plat with state := 3, booting := fw } }

/-! ### Attestation (R445) -/

/-- Numbers below 256 as bytes. -/
def toBytes (l : List Nat) : List Byte := l.map (BitVec.ofNat 8)

/-- The secrets that key exchange `n` agrees on with the host's key share: X25519's, then ML-KEM's (R445). -/
def sharedSecrets (n : Nat) (share : List Nat) : List Nat :=
  leOctets (x25519 (Config.x25519Secret n).toNat (octetsLe (share.take 32))) 32
    ++ (kemEncaps (share.drop 32) (leOctets (Config.kemMessage n).toNat 32)).1

/-- The session key of R445: HKDF-SHA-512 with the nonce as salt and "PX9 key wrap" as info. -/
def sessionKey (n : Nat) (nonce share : List Byte) : BitVec 256 :=
  BitVec.ofNat 256 (octetsLe (hkdf512 (octets nonce) (sharedSecrets n (octets share)) ("PX9 key wrap".toList.map Char.toNat)))

/-- The device's side of a key exchange: its X25519 public key and the ML-KEM ciphertext. -/
def keyShare (n : Nat) (share : List Byte) : List Byte :=
  toBytes (leOctets (x25519 (Config.x25519Secret n).toNat 9) 32
    ++ (kemEncaps ((octets share).drop 32) (leOctets (Config.kemMessage n).toNat 32)).2)

/-- The seeds of the device's two signing key pairs. -/
def edSeed : List Nat := leOctets Config.ed25519Seed.toNat 32
def dsaSeed : List Nat := leOctets Config.mlDsaSeed.toNat 32

/-- The SHA-512 digest of an object in flash. -/
@[irreducible] def objectDigest (b : Cells Byte) : List Byte := toBytes (sha512 (objectPart 0 b))

/-- The firmware image that a report is of: the one that boot last verified, and before that the one in flash. -/
def State.attestedImage (s : State) : Firmware := s.plat.fw.getD s.plat.flashFw

/-- The signed part of a report: offsets 0x0000 to 0x0D1F, of the record in flash. `k` is the number of the key exchange, when there is
one. -/
def State.reportBody (s : State) (nonce : List Byte) (k : Option (Nat × List Byte)) : List Byte :=
  nonce ++ leBytes (({ s with cfg := s.plat.flashCfg }).configWord 0).toNat 8 ++ leBytes s.plat.bootstat.toNat 8 ++ List.replicate 16 0
    ++ leBytes Config.romDigest.toNat 64 ++ objectDigest s.attestedImage.body ++ objectDigest s.plat.flashCfg.body
    ++ (match k with
      | some (n, share) => keyShare n share
      | none => List.replicate 1120 0)
    ++ toBytes (edPublic edSeed) ++ toBytes (dsaPublic dsaSeed)

/-- The 16 KiB report, with the random bytes of number `n` in its ML-DSA-65 signature. -/
def signedReport (n : Nat) (body : List Byte) : List Byte :=
  body ++ toBytes (edSign edSeed (octets body)) ++ toBytes (dsaSign dsaSeed (leOctets (Config.mlDsaRandom n).toNat 32) (octets body))
    ++ List.replicate (16384 - 3373 - body.length) 0

/-- A command register of the platform block written, while the block answers (R444). -/
def State.byPlatform (s : State) (f : State → State) : Host.Outcome State Fault Refusal :=
  .next (if s.platformThere then f s else s)

/-- `ATTESTATION_REQUEST`: a write of ATTCMD (R445). -/
def execAttestationRequest (hpa : W64) (s : State) : Host.Outcome State Fault Refusal :=
  s.byPlatform (fun s =>
    if !s.hostThere hpa.toNat then s
    else
      let (s1, bs) := s.hostRead hpa.toNat 64
      let nonce := bs.take 32
      let buf := leNat ((bs.drop 0x20).take 8)
      let share := leNat ((bs.drop 0x28).take 8)
      let n := s1.plat.attempts + 1
      let (s2, k) : State × Option (Nat × List Byte) :=
        if share = 0 then (s1, none)
        else
          let (s2, key) := s1.hostRead share 1216
          ({ s2 with plat := { s2.plat with session := some (sessionKey n nonce key) } }, some (n, key))
      let s3 := { s2 with plat := { s2.plat with attempts := n } }
      (s3.hostWrite buf (signedReport n (s3.reportBody nonce k))).hostWrite (hpa.toNat + 0x3F) [1])

/-! ### Keys (R446) -/

/-- Lines stored under a slot keep their ciphertext when the slot's key changes (R204, R446). -/
def State.rekeyLines (s : State) (slot : Nat) (new : Option (BitVec 512)) : State :=
  let old := s.key slot
  let t := (s.keyOf.filter (fun e => e.2 = slot)).foldl (fun s e => s.turnLine old new e.1) s
  { t with l2 := t.l2.map (fun e => (e.1, if e.2.dramKey = slot then { e.2 with dram := recrypt old new e.1 e.2.dram } else e.2)) }

/-- A slot's key loaded or cleared, its lines first written back and dropped from every home L2 (R446). -/
def State.setKey (s : State) (slot : Nat) (new : Option (BitVec 512)) : State :=
  let held := (s.l2.map (·.1)).filter (fun l => Cells.get 0 s.keyOf l = slot)
  let s1 := (held.foldl State.evictL2 s).rekeyLines slot new
  { s1 with plat := { s1.plat with keys := match new with
    | some k => Cells.set s1.plat.keys slot k
    | none => Cells.erase s1.plat.keys slot } }

/-- The status of a key command in the order of R446, and the new key of a load that is not refused. -/
def State.keyStatus (s : State) (bs : List Byte) : BitVec 8 × Option (BitVec 512) :=
  let n := leNat bs
  let slot := at8 n 0 2
  let op := at8 n 2 1
  if (op != 1 && op != 2) || at8 n 3 5 != 0 || at8 n 0x50 48 != 0 || (op = 2 && at8 n 8 72 != 0) then (4, none)
  else if slot = 0 || 1023 < slot then (3, none)
  else match s.plat.session with
    | none => if op = 1 then (5, none) else if s.launches.any (fun l => l.r.keyslot = slot) then (1, none) else (0, none)
    | some k =>
      if s.launches.any (fun l => l.r.keyslot = slot) then (1, none)
      else if op = 1 then
        match unwrapKey k ((bs.drop 8).take 72) with
        | none => (2, none)
        | some key => (0, some key)
      else (0, none)

/-- A write of KEYCMD that names a command of operation `op`, or of no operation (R446). -/
def State.keyCommand (s : State) (op : Nat) (hpa : W64) : Host.Outcome State Fault Refusal :=
  s.byPlatform (fun s =>
    if !s.hostThere hpa.toNat then s
    else
      let (s1, bs) := s.hostRead hpa.toNat 128
      let k := at8 (leNat bs) 2 1
      if (k = 1 || k = 2) && k != op then s
      else
        let (st, key) := s1.keyStatus bs
        let s2 := if st = 0 then s1.setKey (at8 (leNat bs) 0 2) key else s1
        { s2 with plat := { s2.plat with keystat := st } })

/-- `KEY_LOAD` (R446). -/
def execKeyLoad (hpa : W64) (s : State) : Host.Outcome State Fault Refusal := s.keyCommand 1 hpa
/-- `KEY_CLEAR` (R446). -/
def execKeyClear (hpa : W64) (s : State) : Host.Outcome State Fault Refusal := s.keyCommand 2 hpa

/-! ### Power (R358, R447, R448) -/

/-- No supervisor slot of a core serves or has an event to serve. -/
def Proc.supQuiet (p : Proc) : Bool := p.sups.all (fun x => !x.2.active && x.2.events.isEmpty)

/-- Every resident group has been found held for 2,000 cycles, by each scheduler that has one (R88, R447). -/
def State.allHeld (s : State) (u : Nat) : Bool :=
  (s.blocksOn u).all (fun b => b.groups.all (fun g => g.ended ||
    (match Cells.find (s.proc u).still g.sched with
      | some t => decide (t + 40000 ≤ s.phase20)
      | none => false)))

/-- `CORE_CLOCK_GATE` (R447); a core of a dead agent has halted (R448). -/
def execCoreClockGate (u : Nat) (s : State) : Host.Outcome State Fault Refusal :=
  let p := s.proc u
  .next (if u < Config.cores && !s.unitDead u && p.power = .c0 && p.supQuiet && p.idleSince + 1905 ≤ s.now && s.allHeld u then
    s.onProc u (fun p => { p with power := .c1 }) else s)

/-- A core after C2: what it counts since module reset, its fences and faults stay; what its registers then hold is free
(R22, R278, Table 4-2). -/
def Proc.gated (p : Proc) (n : Nat) : Proc :=
  let k := p.counters.length
  { clkMissed := p.clkMissed, power := .c2, idleSince := p.idleSince, halted := p.halted, featLost := p.featLost, rtfence := p.rtfence
    fails := p.fails, failing := p.failing, chunks85 := p.chunks85
    gen := Config.freeBits n
    counters := p.counters.zipIdx.map (fun c => (c.1.1,
      { ctl := Config.freeBits (n + 1 + c.2) &&& 0xFFF, val := (Config.freeBits (n + 1 + k + c.2)).setWidth 48 })) }

/-- `CORE_POWER_GATE`: the L1 is written back and the core's state is lost (R51, R447); a core of a dead agent has halted (R448). -/
def execCorePowerGate (u : Nat) (s : State) : Host.Outcome State Fault Refusal :=
  let p := s.proc u
  let alone : Bool := !s.parts.any (fun x => x.2.valid && x.2.has u)
  let ready : Bool := (s.blocksOn u).isEmpty && p.supQuiet && (alone || decide (p.idleSince + 100000 ≤ s.now))
  if u < Config.cores && !s.unitDead u && p.power != .c2 && ready then
    let s1 := s.l1Clean u
    .next { s1.onProc u (fun p => p.gated s1.fresh) with fresh := s1.fresh + 1 + 2 * p.counters.length }
  else .next s

/-- `CORE_WAKE` (R358, R447). -/
def execCoreWake (u : Nat) (s : State) : Host.Outcome State Fault Refusal := .next (if s.unitDead u then s else s.wakeCore u)

/-- THERM counted for a hot die, once per 1,000 ns (R448). -/
def State.countTherm (s : State) (die : Nat) : State :=
  match Cells.find s.plat.thermAt die with
  | some at_ => if s.now < at_ + 1000 then s else count s
  | none => count s
where
  /-- THERM counted now. -/
  count (s : State) : State :=
    let s1 := s.pkgEvent 0x023 0 die
    { s1 with plat := { s1.plat with thermAt := Cells.set s1.plat.thermAt die s1.now } }

/-- `THERMAL_SAMPLE`: a die's hottest junction in whole degrees Celsius; at 110 the die is declared dead, and nothing on it runs
(R440, R448). -/
def execThermalSample (die deg : Nat) (s : State) : Host.Outcome State Fault Refusal :=
  let s1 := if 100 < deg then s.countTherm die else s
  .next (if 110 ≤ deg && die < 4 then s1.declareDead (.crownDie die) else s1)

/-! ### Dead agents (R440 to R442) -/

/-- `HEARTBEAT_MISSED`: a core or root die has missed ten heartbeats (R440). -/
def execHeartbeatMissed (a : Agent) (s : State) : Host.Outcome State Fault Refusal :=
  match a with
  | .core n => .next (if s.coreEnabled n then s.declareDead a else s)
  | .rootDie st => .next (if st < 16 then s.declareDead a else s)
  | _ => .next s

/-- `HOST_WATCHDOG_TIMEOUT` (R440). -/
def execHostWatchdogTimeout (s : State) : Host.Outcome State Fault Refusal :=
  let t := s.host.hbto.toNat
  .next (if t != 0 && s.host.hbeatAt + 1000 * t ≤ s.now then s.declareDead .host else s)

/-- The host, or an expander of the part. -/
def outerAgent : Agent → Bool
  | .host => true
  | .expander p => p < 4
  | _ => false

/-- `COMPLETION_TIMEOUT` (R431, R440). -/
def execCompletionTimeout (a : Agent) (s : State) : Host.Outcome State Fault Refusal :=
  .next (if outerAgent a then s.declareDead a else s)

/-- `PATH_LOSS_TIMEOUT` of a crown die, or of a peer all of whose route ports are down (R440). -/
def execPathLossTimeout (a : Agent) (s : State) : Host.Outcome State Fault Refusal :=
  match a with
  | .crownDie d => .next (if d < 4 then s.declareDead a else s)
  | .peer p => .next (if p < 1024 && (s.routePorts p).isEmpty then s.declareDead a else s)
  | _ => .next s

/-- `PEER_REQUEST_TIMEOUT` (R440). -/
def execPeerRequestTimeout (p : Nat) (s : State) : Host.Outcome State Fault Refusal :=
  .next (if p < 1024 then s.declareDead (.peer p) else s)

/-- `LINK_DOWN` of the host port or of an expander port (R440). -/
def execLinkDown (a : Agent) (s : State) : Host.Outcome State Fault Refusal :=
  .next (if outerAgent a then s.declareDead a else s)

/-! ### Links (R21, R431, R435, R440) -/

/-- `DIE_LINK_FENCE` (R440). -/
def execDieLinkFence (x y : Nat) (s : State) : Host.Outcome State Fault Refusal :=
  let l := (min x y, max x y)
  .next (if x < 4 && y < 4 && x != y && !s.dlink.contains l then { s with dlink := s.dlink ++ [l] } else s)

/-- `ROUTE_PORT_DOWN`: a UALink port goes down, or comes back (R435). -/
def execRoutePortDown (port : Nat) (up : Bool) (s : State) : Host.Outcome State Fault Refusal :=
  .next (if port < 18 then
    { s with ulDown := if up then s.ulDown.filter (· != port) else NatSet.insert s.ulDown port } else s)

/-- Widths and rate codes of a mode (Table 20-3): PCIe x16 to x1 at every rate up to 128 GT/s, CXL x16 or x8. -/
def linkOk (mode : PortMode) (lanes rate : Nat) : Bool :=
  match mode with
  | .pcie => [16, 8, 4, 1].contains lanes && 1 ≤ rate && rate ≤ 7
  | .cxl => [16, 8].contains lanes && rate = 6

/-- `HOST_LINK_TRAINING` (R431). -/
def execHostLinkTraining (mode : PortMode) (lanes rate : Nat) (s : State) : Host.Outcome State Fault Refusal :=
  .next (if linkOk mode lanes rate then
    let s1 := (s.hostLines.map (·.1)).foldl State.evictHost s
    { s1 with port := mode, host := { s1.host with lanes, rate } } else s)

/-- `CXL_EXPANDER_ATTACH`: one attached after enumeration changes neither CXLG nor the range that it backs (R21). -/
def execCxlExpanderAttach (port gib : Nat) (s : State) : Host.Outcome State Fault Refusal :=
  .next (if port < 4 && gib ≤ 1024 && !s.cxlgWritten then { s with cxlGib := Cells.put 0 s.cxlGib port gib } else s)

end Sys2Proof.Machine
end

