-- ==== Sys2Proof/Machine/Dispatch.lean ====
section
/-! DEFINITION. The dispatch of every constructor of `Instr` to its meaning. -/

namespace Sys2Proof.Machine

def exec (i : Instr) (s : State) : Host.Outcome State Fault Refusal :=
  match i with
  | .moduleReset => Sys2Proof.Machine.execModuleReset s
  | .bootcmdGo v => Sys2Proof.Machine.execBootcmdGo v s
  | .attestationRequest hpa => Sys2Proof.Machine.execAttestationRequest hpa s
  | .keyLoad hpa => Sys2Proof.Machine.execKeyLoad hpa s
  | .keyClear hpa => Sys2Proof.Machine.execKeyClear hpa s
  | .memcntWrite v => Sys2Proof.Machine.execMemcntWrite v s
  | .qctlWrite q v => Sys2Proof.Machine.execQctlWrite q v s
  | .qpiDoorbell q v => Sys2Proof.Machine.execQpiDoorbell q v s
  | .partitionWrite p off v => Sys2Proof.Machine.execPartitionWrite p off v s
  | .arbiterDecision => Sys2Proof.Machine.execArbiterDecision s
  | .placementDecision => Sys2Proof.Machine.execPlacementDecision s
  | .starvationTimeout lid => Sys2Proof.Machine.execStarvationTimeout lid s
  | .stageSample => Sys2Proof.Machine.execStageSample s
  | .preemptCluster lid stg cidx => Sys2Proof.Machine.execPreemptCluster lid stg cidx s
  | .contextRestore lid stg cidx => Sys2Proof.Machine.execContextRestore lid stg cidx s
  | .blockExitComplete bid => Sys2Proof.Machine.execBlockExitComplete bid s
  | .launchRetire lid => Sys2Proof.Machine.execLaunchRetire lid s
  | .lcancel v => Sys2Proof.Machine.execLcancel v s
  | .fcctlWrite v => Sys2Proof.Machine.execFcctlWrite v s
  | .faultRecordWrite => Sys2Proof.Machine.execFaultRecordWrite s
  | .fresp v => Sys2Proof.Machine.execFresp v s
  | .svreqSave v => Sys2Proof.Machine.execSvreqSave v s
  | .svreqReady v => Sys2Proof.Machine.execSvreqReady v s
  | .svreqDiscard v => Sys2Proof.Machine.execSvreqDiscard v s
  | .hbeat v => Sys2Proof.Machine.execHbeat v s
  | .rateWrite n v => Sys2Proof.Machine.execRateWrite n v s
  | .berrWrite r n v => Sys2Proof.Machine.execBerrWrite r n v s
  | .registerWrite byHost adr v => Sys2Proof.Machine.execRegisterWrite byHost adr v s
  | .hostMemoryAccess acc => Sys2Proof.Machine.execHostMemoryAccess acc s
  | .hostSnoop kind half data => Sys2Proof.Machine.execHostSnoop kind half data s
  | .ualinkIncomingRequest req => Sys2Proof.Machine.execUalinkIncomingRequest req s
  | .l1Writeback core line => Sys2Proof.Machine.execL1Writeback core line s
  | .l2Eviction line => Sys2Proof.Machine.execL2Eviction line s
  | .migrationFill die => Sys2Proof.Machine.execMigrationFill die s
  | .loadComplete c k => Sys2Proof.Machine.execLoadComplete c k s
  | .storePerformed c k => Sys2Proof.Machine.execStorePerformed c k s
  | .stallExpiry c => Sys2Proof.Machine.execStallExpiry c s
  | .granuleAccessPerform u gran => Sys2Proof.Machine.execGranuleAccessPerform u gran s
  | .matrixStart core => Sys2Proof.Machine.execMatrixStart core s
  | .matrixComplete core k => Sys2Proof.Machine.execMatrixComplete core k s
  | .idleSelfTest core sub => Sys2Proof.Machine.execIdleSelfTest core sub s
  | .engineReport core k n => Sys2Proof.Machine.execEngineReport core k n s
  | .engineCommandComplete core k => Sys2Proof.Machine.execEngineCommandComplete core k s
  | .engineFault core k => Sys2Proof.Machine.execEngineFault core k s
  | .rcallDeliver k => Sys2Proof.Machine.execRcallDeliver k s
  | .rootCallPlace r => Sys2Proof.Machine.execRootCallPlace r s
  | .rootBlockReturn bid => Sys2Proof.Machine.execRootBlockReturn bid s
  | .bnkCommandComplete r => Sys2Proof.Machine.execBnkCommandComplete r s
  | .landingPacketArrival k => Sys2Proof.Machine.execLandingPacketArrival k s
  | .landingStagingAdmit stack => Sys2Proof.Machine.execLandingStagingAdmit stack s
  | .phaseEnd lid => Sys2Proof.Machine.execPhaseEnd lid s
  | .watchArm c => Sys2Proof.Machine.execWatchArm c s
  | .watchTimeout k => Sys2Proof.Machine.execWatchTimeout k s
  | .frontierPublish lid => Sys2Proof.Machine.execFrontierPublish lid s
  | .taskDispatch lid => Sys2Proof.Machine.execTaskDispatch lid s
  | .taskSpillEngine lid => Sys2Proof.Machine.execTaskSpillEngine lid s
  | .capacityAbort lid => Sys2Proof.Machine.execCapacityAbort lid s
  | .spawnCapacityAbort lid => Sys2Proof.Machine.execSpawnCapacityAbort lid s
  | .taskCommit lid => Sys2Proof.Machine.execTaskCommit lid s
  | .trapDelivery c => Sys2Proof.Machine.execTrapDelivery c s
  | .coreClockGate u => Sys2Proof.Machine.execCoreClockGate u s
  | .corePowerGate u => Sys2Proof.Machine.execCorePowerGate u s
  | .coreWake u => Sys2Proof.Machine.execCoreWake u s
  | .thermalSample die deg => Sys2Proof.Machine.execThermalSample die deg s
  | .heartbeatMissed agent => Sys2Proof.Machine.execHeartbeatMissed agent s
  | .hostWatchdogTimeout => Sys2Proof.Machine.execHostWatchdogTimeout s
  | .completionTimeout agent => Sys2Proof.Machine.execCompletionTimeout agent s
  | .pathLossTimeout agent => Sys2Proof.Machine.execPathLossTimeout agent s
  | .peerRequestTimeout peer => Sys2Proof.Machine.execPeerRequestTimeout peer s
  | .linkDown agent => Sys2Proof.Machine.execLinkDown agent s
  | .nop h => Sys2Proof.Machine.execNop h s
  | .rep h r => Sys2Proof.Machine.execRep h r s
  | .bra h x => Sys2Proof.Machine.execBra h x s
  | .brx h a => Sys2Proof.Machine.execBrx h a s
  | .call h x => Sys2Proof.Machine.execCall h x s
  | .callx h a => Sys2Proof.Machine.execCallx h a s
  | .ret h => Sys2Proof.Machine.execRet h s
  | .exit h => Sys2Proof.Machine.execExit h s
  | .trap h x => Sys2Proof.Machine.execTrap h x s
  | .bkpt h x => Sys2Proof.Machine.execBkpt h x s
  | .wcnt h l => Sys2Proof.Machine.execWcnt h l s
  | .yield h => Sys2Proof.Machine.execYield h s
  | .srget h d a => Sys2Proof.Machine.execSrget h d a s
  | .srset h d a => Sys2Proof.Machine.execSrset h d a s
  | .srsetSeed h a => Sys2Proof.Machine.execSrsetSeed h a s
  | .rti h => Sys2Proof.Machine.execRti h s
  | .tlbinv h a b => Sys2Proof.Machine.execTlbinv h a b s
  | .icinv h a b => Sys2Proof.Machine.execIcinv h a b s
  | .ifence h => Sys2Proof.Machine.execIfence h s
  | .ctxswSave h a => Sys2Proof.Machine.execCtxswSave h a s
  | .ctxswReady h a => Sys2Proof.Machine.execCtxswReady h a s
  | .ctxswDiscard h a => Sys2Proof.Machine.execCtxswDiscard h a s
  | .ctxswPool h a => Sys2Proof.Machine.execCtxswPool h a s
  | .ispsn h d a => Sys2Proof.Machine.execIspsn h d a s
  | .clrpsn h d => Sys2Proof.Machine.execClrpsn h d s
  | .wsave h => Sys2Proof.Machine.execWsave h s
  | .wrest h => Sys2Proof.Machine.execWrest h s
  | .add h ty d a b => Sys2Proof.Machine.execAdd h ty d a b s
  | .sub h ty d a b => Sys2Proof.Machine.execSub h ty d a b s
  | .mul h ty d a b => Sys2Proof.Machine.execMul h ty d a b s
  | .mulhi h ty d a b => Sys2Proof.Machine.execMulhi h ty d a b s
  | .mad h ty d a b c => Sys2Proof.Machine.execMad h ty d a b c s
  | .madw h ty d a b c => Sys2Proof.Machine.execMadw h ty d a b c s
  | .neg h ty d a => Sys2Proof.Machine.execNeg h ty d a s
  | .abs h ty d a => Sys2Proof.Machine.execAbs h ty d a s
  | .min h ty d a b => Sys2Proof.Machine.execMin h ty d a b s
  | .max h ty d a b => Sys2Proof.Machine.execMax h ty d a b s
  | .and h ty d a b => Sys2Proof.Machine.execAnd h ty d a b s
  | .andImm h ty d a x => Sys2Proof.Machine.execAndImm h ty d a x s
  | .or h ty d a b => Sys2Proof.Machine.execOr h ty d a b s
  | .orImm h ty d a x => Sys2Proof.Machine.execOrImm h ty d a x s
  | .xor h ty d a b => Sys2Proof.Machine.execXor h ty d a b s
  | .xorImm h ty d a x => Sys2Proof.Machine.execXorImm h ty d a x s
  | .not h ty d a => Sys2Proof.Machine.execNot h ty d a s
  | .shl h ty d a b => Sys2Proof.Machine.execShl h ty d a b s
  | .shr h ty d a b => Sys2Proof.Machine.execShr h ty d a b s
  | .sar h ty d a b => Sys2Proof.Machine.execSar h ty d a b s
  | .rol h ty d a b => Sys2Proof.Machine.execRol h ty d a b s
  | .bfe h ty d a b c => Sys2Proof.Machine.execBfe h ty d a b c s
  | .bfi h ty d a b c => Sys2Proof.Machine.execBfi h ty d a b c s
  | .popc h ty d a => Sys2Proof.Machine.execPopc h ty d a s
  | .clz h ty d a => Sys2Proof.Machine.execClz h ty d a s
  | .brev h ty d a => Sys2Proof.Machine.execBrev h ty d a s
  | .sel h ty d a b c => Sys2Proof.Machine.execSel h ty d a b c s
  | .mov h ty d a => Sys2Proof.Machine.execMov h ty d a s
  | .movi h ty d x => Sys2Proof.Machine.execMovi h ty d x s
  | .lea h ty d a b m => Sys2Proof.Machine.execLea h ty d a b m s
  | .idot4 h ty d a b c => Sys2Proof.Machine.execIdot4 h ty d a b c s
  | .sad h ty d a b c => Sys2Proof.Machine.execSad h ty d a b c s
  | .pand h d a b => Sys2Proof.Machine.execPand h d a b s
  | .por h d a b => Sys2Proof.Machine.execPor h d a b s
  | .pxor h d a b => Sys2Proof.Machine.execPxor h d a b s
  | .pnot h d a => Sys2Proof.Machine.execPnot h d a s
  | .vote h vm d a => Sys2Proof.Machine.execVote h vm d a s
  | .shfl h sm d a b => Sys2Proof.Machine.execShfl h sm d a b s
  | .bcast h ty d a b => Sys2Proof.Machine.execBcast h ty d a b s
  | .lred h ty d a op => Sys2Proof.Machine.execLred h ty d a op s
  | .lscan h ty d a op => Sys2Proof.Machine.execLscan h ty d a op s
  | .cmp h cc ty d a b => Sys2Proof.Machine.execCmp h cc ty d a b s
  | .cmpImm h cc ty d a x => Sys2Proof.Machine.execCmpImm h cc ty d a x s
  | .fadd h ty d a b => Sys2Proof.Machine.execFadd h ty d a b s
  | .fsub h ty d a b => Sys2Proof.Machine.execFsub h ty d a b s
  | .fmul h ty d a b => Sys2Proof.Machine.execFmul h ty d a b s
  | .fma h ty d a b c => Sys2Proof.Machine.execFma h ty d a b c s
  | .fmin h ty d a b => Sys2Proof.Machine.execFmin h ty d a b s
  | .fmax h ty d a b => Sys2Proof.Machine.execFmax h ty d a b s
  | .fclass h ty d a => Sys2Proof.Machine.execFclass h ty d a s
  | .frint h ty d a => Sys2Proof.Machine.execFrint h ty d a s
  | .fdot2 h ty d a b c => Sys2Proof.Machine.execFdot2 h ty d a b c s
  | .pack h ty d a b => Sys2Proof.Machine.execPack h ty d a b s
  | .packSr h ty d a b => Sys2Proof.Machine.execPackSr h ty d a b s
  | .unpack h ty d a b => Sys2Proof.Machine.execUnpack h ty d a b s
  | .mxscale h ty d a b => Sys2Proof.Machine.execMxscale h ty d a b s
  | .fcvt h ty d a => Sys2Proof.Machine.execFcvt h ty d a s
  | .fcvtSr h ty d a => Sys2Proof.Machine.execFcvtSr h ty d a s
  | .fcvtToF32 h ty d a => Sys2Proof.Machine.execFcvtToF32 h ty d a s
  | .icvt h ft it d a => Sys2Proof.Machine.execIcvt h ft it d a s
  | .fcvti h ft it d a => Sys2Proof.Machine.execFcvti h ft it d a s
  | .rcp h ty d a => Sys2Proof.Machine.execRcp h ty d a s
  | .rsq h ty d a => Sys2Proof.Machine.execRsq h ty d a s
  | .sqrt h ty d a => Sys2Proof.Machine.execSqrt h ty d a s
  | .exp2 h ty d a => Sys2Proof.Machine.execExp2 h ty d a s
  | .log2 h ty d a => Sys2Proof.Machine.execLog2 h ty d a s
  | .sinpi h ty d a => Sys2Proof.Machine.execSinpi h ty d a s
  | .cospi h ty d a => Sys2Proof.Machine.execCospi h ty d a s
  | .tanh h ty d a => Sys2Proof.Machine.execTanh h ty d a s
  | .fdiv h ty d a b => Sys2Proof.Machine.execFdiv h ty d a b s
  | .fcmp h cc ty d a b => Sys2Proof.Machine.execFcmp h cc ty d a b s
  | .ld h ty d a m => Sys2Proof.Machine.execLd h ty d a m s
  | .st h ty a b m => Sys2Proof.Machine.execSt h ty a b m s
  | .ldsp h ty d a => Sys2Proof.Machine.execLdsp h ty d a s
  | .stsp h ty a b => Sys2Proof.Machine.execStsp h ty a b s
  | .ldfe h ty d a => Sys2Proof.Machine.execLdfe h ty d a s
  | .stfe h ty a b => Sys2Proof.Machine.execStfe h ty a b s
  | .ldstb h ty d a => Sys2Proof.Machine.execLdstb h ty d a s
  | .pref h a m => Sys2Proof.Machine.execPref h a m s
  | .cflush h a b => Sys2Proof.Machine.execCflush h a b s
  | .cinv h a b => Sys2Proof.Machine.execCinv h a b s
  | .fence h o sc => Sys2Proof.Machine.execFence h o sc s
  | .fenceRemote h a => Sys2Proof.Machine.execFenceRemote h a s
  | .atomAdd h ty d a b m => Sys2Proof.Machine.execAtomAdd h ty d a b m s
  | .atomMin h ty d a b m => Sys2Proof.Machine.execAtomMin h ty d a b m s
  | .atomMax h ty d a b m => Sys2Proof.Machine.execAtomMax h ty d a b m s
  | .atomAnd h ty d a b m => Sys2Proof.Machine.execAtomAnd h ty d a b m s
  | .atomOr h ty d a b m => Sys2Proof.Machine.execAtomOr h ty d a b m s
  | .atomXor h ty d a b m => Sys2Proof.Machine.execAtomXor h ty d a b m s
  | .atomExch h ty d a b m => Sys2Proof.Machine.execAtomExch h ty d a b m s
  | .atomCas h ty d a b c m => Sys2Proof.Machine.execAtomCas h ty d a b c m s
  | .aredAdd h ty a b m => Sys2Proof.Machine.execAredAdd h ty a b m s
  | .aredMin h ty a b m => Sys2Proof.Machine.execAredMin h ty a b m s
  | .aredMax h ty a b m => Sys2Proof.Machine.execAredMax h ty a b m s
  | .aflush h => Sys2Proof.Machine.execAflush h s
  | .rowld h ty d a b m => Sys2Proof.Machine.execRowld h ty d a b m s
  | .rowst h ty a b m => Sys2Proof.Machine.execRowst h ty a b m s
  | .rowadd h ty a b m => Sys2Proof.Machine.execRowadd h ty a b m s
  | .mma h fa fb d a b m => Sys2Proof.Machine.execMma h fa fb d a b m s
  | .mmas h fa fb d a b c m => Sys2Proof.Machine.execMmas h fa fb d a b c m s
  | .mmav h fa fb d a b m => Sys2Proof.Machine.execMmav h fa fb d a b m s
  | .omap h d a b => Sys2Proof.Machine.execOmap h d a b s
  | .accClr h a b => Sys2Proof.Machine.execAccClr h a b s
  | .accLd h ty a b m => Sys2Proof.Machine.execAccLd h ty a b m s
  | .accSt h ty a b m => Sys2Proof.Machine.execAccSt h ty a b m s
  | .accCvt h ty a b m => Sys2Proof.Machine.execAccCvt h ty a b m s
  | .accSend h ty a b c m m1 => Sys2Proof.Machine.execAccSend h ty a b c m m1 s
  | .trec h d a => Sys2Proof.Machine.execTrec h d a s
  | .walk h a b c m => Sys2Proof.Machine.execWalk h a b c m s
  | .copyt h a b c m => Sys2Proof.Machine.execCopyt h a b c m s
  | .copy h a b c m => Sys2Proof.Machine.execCopy h a b c m s
  | .tbinit h a b => Sys2Proof.Machine.execTbinit h a b s
  | .tbexp h a b => Sys2Proof.Machine.execTbexp h a b s
  | .tbarr h a b => Sys2Proof.Machine.execTbarr h a b s
  | .tbwait h d a b => Sys2Proof.Machine.execTbwait h d a b s
  | .bar h a => Sys2Proof.Machine.execBar h a s
  | .cbar h a => Sys2Proof.Machine.execCbar h a s
  | .qpush h a b => Sys2Proof.Machine.execQpush h a b s
  | .qpop h d a => Sys2Proof.Machine.execQpop h d a s
  | .qtry h d a => Sys2Proof.Machine.execQtry h d a s
  | .qgrant h a b c => Sys2Proof.Machine.execQgrant h a b c s
  | .hold h cc wide sys a b c => Sys2Proof.Machine.execHold h cc wide sys a b c s
  | .hcancel h a => Sys2Proof.Machine.execHcancel h a s
  | .parr h a b => Sys2Proof.Machine.execParr h a b s
  | .pdrain h => Sys2Proof.Machine.execPdrain h s
  | .lwait h => Sys2Proof.Machine.execLwait h s
  | .ltrig h => Sys2Proof.Machine.execLtrig h s
  | .launch h d a => Sys2Proof.Machine.execLaunch h d a s
  | .range h d => Sys2Proof.Machine.execRange h d s
  | .tspawn h d a => Sys2Proof.Machine.execTspawn h d a s
  | .tend h => Sys2Proof.Machine.execTend h s
  | .tnspec h => Sys2Proof.Machine.execTnspec h s
  | .tabort h => Sys2Proof.Machine.execTabort h s
  | .tyield h => Sys2Proof.Machine.execTyield h s
  | .rcall h a b c m => Sys2Proof.Machine.execRcall h a b c m s
  | .rret h a => Sys2Proof.Machine.execRret h a s
  | .bnkDot h ty a b c => Sys2Proof.Machine.execBnkDot h ty a b c s
  | .bnkAxpy h ty a b c => Sys2Proof.Machine.execBnkAxpy h ty a b c s
  | .bnkScale h ty a b c => Sys2Proof.Machine.execBnkScale h ty a b c s
  | .bnkFill h ty a b c => Sys2Proof.Machine.execBnkFill h ty a b c s
  | .bnkCopy h ty a b c => Sys2Proof.Machine.execBnkCopy h ty a b c s
  | .bnkRed h ty a b c => Sys2Proof.Machine.execBnkRed h ty a b c s
  | .landOpen h a b => Sys2Proof.Machine.execLandOpen h a b s
  | .landClose h a => Sys2Proof.Machine.execLandClose h a s
  | .patrolScrub stack => Sys2Proof.Machine.execPatrolScrub stack s
  | .dieLinkFence x y => Sys2Proof.Machine.execDieLinkFence x y s
  | .routePortDown port up => Sys2Proof.Machine.execRoutePortDown port up s
  | .hostLinkTraining mode lanes rate => Sys2Proof.Machine.execHostLinkTraining mode lanes rate s
  | .cxlExpanderAttach port gib => Sys2Proof.Machine.execCxlExpanderAttach port gib s
  | .peerWriteRefusal c va => Sys2Proof.Machine.execPeerWriteRefusal c va s

end Sys2Proof.Machine
end

