-- ==== Sys2Proof/Machine/Outside.lean ====
section
/-! DEFINITION. What the resident supervisor does with its slot (R69, R70, R142, R202, R278, R398, R399, R409, R430;
assumption 6), and what reaches the part from outside its instructions: errors, the host's own writes, peers' packets,
migrations, passing time (R15, R201, R385, R407, R433, R436, R437). -/

namespace Sys2Proof.Machine

/-! ### The resident supervisor -/

/-- WOVF: window RB is moved out and the instruction runs again, or the handler has it (R69, R70). -/
def State.serveOverflow (s : State) (u sched bid g : Nat) : State :=
  let c : Ctx := .grp bid g
  if ((s.group? c).getD {}).pinned then s.serveHandler u sched bid g
  else
    let s1 := s.giveArea c bid g
    (s1.saveWindow c ((s1.group? c).getD {})).serveWith u sched 0

/-- WUNF: the window below RB is brought back and the instruction runs again, or the handler has it (R69, R142). -/
def State.serveUnderflow (s : State) (u sched bid g : Nat) : State :=
  let c : Ctx := .grp bid g
  let x := (s.group? c).getD {}
  if x.rb = 0 then s.serveHandler u sched bid g else (s.restWindow c x).serveWith u sched 0

/-- PFAULT: the host is asked once, and a disabled ring answers REFUSED at once (R409, R428). -/
def State.serveFault (s : State) (u sched bid g : Nat) : State :=
  let c : Ctx := .grp bid g
  let x := (s.group? c).getD {}
  if x.asked then s
  else
    let s1 := s.onGroup c (fun g => { g with asked := true })
    if !s.host.fcen then
      (s1.onGroup c (fun g => { g with trapc := (g.trapc &&& 0xFFFF00FF) ||| 0x200, asked := false })).serveHandler u sched bid g
    else
      s1.report { kind := 1, cause := 0x09, write := x.trapWr, lid := BitVec.ofNat 32 (((s.ctxLaunch? c).map (·.lid)).getD 0)
                  core := BitVec.ofNat 32 u, addr := x.trapa, value := 0, ctx := some c }

/-- A trapped group served by its cause. -/
def State.serveTrap (s : State) (u sched bid g : Nat) (x : Group) : State :=
  match x.cause with
  | 0x05 => s.serveUnderflow u sched bid g
  | 0x04 => s.serveOverflow u sched bid g
  | 0x09 => s.serveFault u sched bid g
  | _ => s.serveHandler u sched bid g

/-- The resident supervisor serves its slot (assumption 6): a trap by its cause, a host request by executing it, and any
other event by ending its service; on a dead unit nothing runs (R441, R448). -/
def State.supervise (s : State) (u sched : Nat) : State :=
  let p := s.sup u sched
  if !p.active || s.unitDead u then s
  else if p.svevt = 4 then (s.serveRequest u).endService u sched
  else if p.svevt != 0 then s.endService u sched
  else match s.svTarget u sched with
    | some (.grp bid g) =>
      let x := (s.group? (.grp bid g)).getD {}
      if x.hold = .trapped then s.serveTrap u sched bid g x else s.endService u sched
    | _ => s.endService u sched

/-! ### Errors (R278, R385, R407; assumption 16) -/

/-- A line becomes uncorrectable. -/
def State.spoilLine (s : State) (line : Nat) : State :=
  { s with poison := NatSet.insert s.poison line, reported := s.reported.filter (· != line) }

/-- A 32-byte DRAM column becomes uncorrectable, with the CLASS that its failing reads record (Table 16-6). -/
def State.spoilColumn (s : State) (col : Nat) (cls : BitVec 2) : State :=
  { s with
    colErr := NatSet.insert s.colErr col, reported := s.reported.filter (· != col / 4)
    colClass := Cells.put 1 s.colClass col (if cls = 0 then 1 else cls) }

/-- The host will return a half of its memory poisoned (R433). -/
def State.spoilHost (s : State) (half : Nat) : State :=
  if isHostWin (64 * half) then { s with hostBad := NatSet.insert s.hostBad half } else s

/-- A sub-array of a core will fail its next self-test (R277). -/
def State.spoilSub (s : State) (u i : Nat) : State :=
  if i < 16 && u < Config.cores then s.onProc u (fun p => { p with failing := p.failing ||| ((1 : BitVec 16) <<< i) }) else s

/-- An uncorrectable error in a version of a task before its commit: its owner is aborted with cause external write, and
every task with a mark for the line, of whichever launch (R385). -/
def State.spoilVersion (s : State) (lid n line : Nat) : State :=
  if s.versions.any (fun v => v.lid = lid && v.n = n && v.line = line && v.ver.isSome) then
    let marks := s.versions.filter (fun v => v.line = line && v.ver.isNone && !(v.lid = lid && v.n = n))
    (marks.filter (fun v => v.lid != lid)).foldl (fun s v => abortTasks s v.lid [v.n] 0x042)
      (abortTasks s lid (n :: (marks.filter (fun v => v.lid = lid)).map (·.n)) 0x042)
  else s

/-! ### The host's and the peers' own memory, packets and migrations -/

/-- A 64-byte half of the host window that the device does not hold (R433). -/
def State.halfFree (s : State) (pa : Nat) : Bool :=
  match Cells.find s.hostLines (pa / 128) with
  | none => true
  | some x => if pa % 128 < 64 then x.s0 = .i else x.s1 = .i

/-- The host writes its own memory, or a peer its own, named by its window address: lines that the device holds are
written only after a snoop has taken them (R433). -/
def State.outsideWrite (s : State) (pa : Nat) (bs : List Byte) : State :=
  let ok (a : Nat) : Bool := (isHostWin a && (s.port = .pcie || s.halfFree a)) || isPeerWin a
  let whole (h : Nat) : Bool := pa ≤ 64 * h && 64 * h + 64 ≤ pa + bs.length && ok (64 * h)
  { s with
    hostBad := s.hostBad.filter (fun h => !whole h)
    mem := (bs.zipIdx).foldl (fun m b => if ok (pa + b.2) then Memory.write m (pa + b.2) b.1 else m) s.mem }

/-- A reduction packet from a peer, taken when ULIMP admits its address (R437). -/
def State.peerPacket (s : State) (p : Packet) : State :=
  if p.pa % 128 = 0 && s.admitsPeers p.pa then
    { s with packets := s.packets ++ [{ p with cmd := none, waiting := false, ovf := false, rel := false }] }
  else s

/-- A page size of R201. -/
def migSize (n : Nat) : Bool := n = 0x1000 || n = 0x10000 || n = 0x200000

/-- The supervisor writes a migration-table entry, the first step of a migration: watches on the old frame end MOVED (R201,
R352). -/
def State.startMigration (s : State) (m : Migration) : State :=
  if (s.migs.filter (fun x => x.die = m.die)).length < 256 && migSize m.size && m.newPa % m.size = 0 && m.oldPa % m.size = 0
      && m.die < 4 && s.homeDie m.newPa = m.die && m.leafPa % 8 = 0 && s.walkable m.leafPa
      && !s.migs.any (fun x => x.newPa = m.newPa) then
    let s1 := { s with migs := s.migs ++ [{ m with filled := [] }] }
    (s1.watches.filter (fun (w : Watch) => m.oldPa ≤ w.w.pa && w.w.pa < m.oldPa + m.size)).foldl (fun s w => s.endWatch w 6 0) s1
  else s

/-- A leaf of a page in migration as it names its part of the new frame with MIG = 1 (R201). -/
def migLeaf (m : Migration) (i : Nat) (old : W64) : W64 :=
  (old &&& 0x7FF0000000000FFF) ||| BitVec.ofNat 64 (m.newPa + 4096 * i) ||| 0x8000000000000000

/-- The second step: the leaves are set to the new frame with MIG = 1, in one store of each (R186, R201). A pinned page does
not move (R185). -/
def State.setMigLeaves (s : State) (newPa : Nat) : State :=
  match s.migs.find? (fun m => m.newPa = newPa) with
  | none => s
  | some m => (migLeaves m).zipIdx.foldl (fun s x =>
      let old : W64 := BitVec.ofNat 64 (leNat (s.bytesUnder 0 x.1 8))
      if leafPin old then s else s.homeWriteBytes .other 0 x.1 (leBytes (migLeaf m x.2 old).toNat 8)) s

/-- The third step: the old translation is invalidated in every TLB (R201). -/
def State.dropMigrated (s : State) (newPa : Nat) : State :=
  match s.migs.find? (fun m => m.newPa = newPa) with
  | none => s
  | some m =>
    let keep (t : List TlbEntry) : List TlbEntry := t.filter (fun e => !(migLeaves m).contains e.leafPa)
    { s with units := s.units.map (fun (u : Nat × Proc) =>
      (u.1, { u.2 with itlb := keep u.2.itlb, dtlb := keep u.2.dtlb, wtlb := keep u.2.wtlb })) }

/-! ### Time, caches and early results -/

/-- A unit after some cycles of the arithmetic clock: gated or halted, its CLK stops, and it counts none (R447 to R449). -/
def Proc.cycles (p : Proc) (halted : Bool) (n : Nat) : Proc :=
  if halted || p.power != .c0 then { p with clkMissed := p.clkMissed + w64 n }
  else { p with counters := p.counters.map (fun c => if field c.2.ctl.toNat 0 10 = 1 then (c.1, c.2.count n) else c) }

/-- TIME passes, and with it 1.05 cycles of the arithmetic clock for each nanosecond (R15). -/
def State.elapse (s0 : State) (n : Nat) : State :=
  let s := s0.settleStopped
  let p := s.phase20 + 21 * n
  { s with
    time := s.time + w64 n, phase20 := p
    units := s.units.map (fun u => (u.1, u.2.cycles (s.unitDead u.1) (p / 20 - s.phase20 / 20))) }

/-- A TLB gives up an entry (R189). -/
def State.tlbDrop (s : State) (u which k : Nat) : State :=
  s.onProc u (fun p => p.setTlb which ((p.tlb which).eraseIdx k))

/-- An instruction cache gives up a line (R78). -/
def State.icacheGive (s : State) (u line : Nat) : State := s.onProc u (fun p => p.icacheDrop [line])

/-- Element `k` of an outstanding load that waits for nothing is written before the load completes (R94); no
restore performs an earlier load again after it (R411, assumption 35). -/
def Group.early (g : Group) (id k : Nat) : Group :=
  match (g.pend.find? (fun p => p.id = id && p.blocked = 0)).bind (fun p => p.elems[k]?) with
  | none => g
  | some e =>
    if e.given then g
    else { g.deliver e with
      ordered := max g.ordered id
      pend := g.pend.map (fun p =>
        if p.id = id then { p with elems := modifyAt p.elems k (fun e => { e with given := true }) } else p) }

end Sys2Proof.Machine
end

