-- ==== Sys2Proof/Machine/Turns.lean ====
section
/-! DEFINITION. One turn of the part (assumption 3): what the head of `State.turns` lets move, how a
context's instruction is fetched, decoded and run, which cores a turn wakes (R358, R447), and what moves when no turn is
listed. -/

namespace Sys2Proof.Machine

/-- The instruction a decoded word stands for: `ctxsw` takes its operation from its command (R421). -/
def State.resolve (s : State) (c : Ctx) (i : Instr) : Instr :=
  match i with
  | .ctxswSave h a =>
    let g := (s.group? c).getD {}
    let at_ := (s.src c g a true none ((g.active h).headD 0)).v.toNat
    match (s.byteUnder 0 at_).toNat with
    | 2 => .ctxswReady h a
    | 3 => .ctxswDiscard h a
    | 4 => .ctxswPool h a
    | _ => i
  | i => i

/-- A fetched word of the chosen context runs, or its trap is raised (R78, R83). -/
def State.runFetched (s : State) (c : Ctx) : FetchEnd → Host.Outcome State Fault Refusal
  | .error t => s.raiseAtIssue 0 t
  | .ok w =>
    match decode w with
    | .instr i => exec (s.resolve c i) s
    | .illegal _ => s.raiseAtIssue (if w.getLsbD 95 then 0 else w.extractLsb' 93 2) { cause := 0x01 }

/-- A context's turn: the word at its PC is fetched and decoded, and what it stands for runs (R78,
R83). -/
def State.issueTurn (s : State) (c : Ctx) : Host.Outcome State Fault Refusal :=
  match s.group? c with
  | none => .next s
  | some g =>
    if !s.canIssue c g then .next s
    else
      match s.fetchAt c g.issuePc with
      | (s1, w) => { s1 with sel := some c }.runFetched c w

/-! ### The order of R89 -/

/-- The groups of a scheduler that may be chosen to issue. -/
def State.mayIssue (s : State) (u sched : Nat) : List (Ctx × Group) :=
  (s.blocksOn u).flatMap (fun b => ((b.groups.zipIdx.map (fun g => (Ctx.grp b.bid g.2, g.1))).filter
    (fun x => x.2.sched = sched && s.canIssue x.1 x.2)))

/-- A group's place among those that did not issue last: its last issue, then its slot; one that has not issued since it was placed
or restored comes first (assumption 104). -/
def issueKey (x : Ctx × Group) : Nat := x.2.issueNo * 32 + x.2.slot

/-- The groups of a scheduler in the order in which R89 tries them: the group issued from last unless it has issued 64 runs in a
row or with YLD, and the others by their last issue. That the group issued from last keeps its place over cycles in which no group
was eligible is the model's choice (assumption 104). -/
def State.issueOrder (s : State) (u sched : Nat) : List Ctx :=
  let gs : List (Ctx × Group) := s.mayIssue u sched
  let again := match Cells.find (s.proc u).lastSlot sched with
    | some (c, n, yld) => if n < 64 && !yld then gs.filter (fun (x : Ctx × Group) => x.1 = c) else []
    | none => []
  let others := gs.filter (fun x => !again.contains x)
  again.map (·.1) ++ (sortBy issueKey others).map (·.1)

/-- The first of some contexts that is eligible issues: one whose turn leaves it as it was, with nothing issued, is not; none
when none is. -/
def State.firstIssue (s : State) (u : Nat) : List Ctx → Option (Host.Outcome State Fault Refusal)
  | [] => none
  | c :: r =>
    match s.issueTurn c with
    | .next t =>
      if t.group? c = s.group? c && (t.proc u).lastSlot = (s.proc u).lastSlot then s.firstIssue u r else some (.next t)
    | o => some o

/-- Some group of a core could issue, were the core ungated. -/
def State.eligible (s : State) (u : Nat) : Bool :=
  let s1 := s.wakeCore u
  (List.range 4).any (fun sc => (s1.firstIssue u (s1.issueOrder u sc)).isSome)

/-- A scheduler finds all its groups held (R447). -/
def Proc.foundStill (p : Proc) (sched now : Nat) : Proc :=
  { p with still := if (Cells.find p.still sched).isSome then p.still else Cells.set p.still sched now }

/-- A scheduler's cycle (R89, R397): the resident supervisor goes first when its slot has something to do. What a group of a
gated core waits for wakes the core (R358); a dead unit's schedulers have stopped (R441, R448). -/
def State.cycleTurn (s : State) (u sched : Nat) : Host.Outcome State Fault Refusal :=
  let t := s.supervise u sched
  if s.unitDead u then .next s
  else if (s.sup u sched).active && t != s then .next t
  else if (s.proc u).power = .c1 then .next (if s.eligible u then s.wakeCore u else s)
  else match s.firstIssue u (s.issueOrder u sched) with
    | some o => o
    | none => .next (s.onProc u (fun p => p.foundStill sched s.phase20))

/-! ### Wakes (R358, R447) -/

/-- What reaches a core: its supervisor slots, its blocks, and the commands and arrivals that it waits for. -/
def State.reached (s : State) (u : Nat) : Cells SupSlot × List Block × List Nat :=
  let p := s.proc u
  (p.sups, s.blocksOn u, [p.grans.length, p.mx.length, p.cmds.length, p.inbox.length])

/-- A turn from `s` to `t` wakes a core that was gated, or one that gated in it while a group could issue (R358). -/
def State.wakes (s t : State) (u : Nat) : Bool :=
  if (s.proc u).power = .c0 then !(t.blocksOn u).isEmpty && t.eligible u else s.reached u != t.reached u

/-- The gated cores that a turn from `s` wakes are ungated (R358, R447). -/
def State.settlePower (s t : State) : State :=
  (t.units.filter (fun x => x.2.power != .c0)).foldl (fun r x => if s.wakes t x.1 then r.wakeCore x.1 else r) t

/-! ### Turns -/

/-- What a turn does of itself. -/
def State.doTurn (s : State) : Turn → Host.Outcome State Fault Refusal
  | .elapse n => .next (s.elapse n)
  | .event i => if (encode i).isNone then exec i s else .next s
  | .issue c => s.issueTurn c
  | .cycle u sc => s.cycleTurn u sc
  | .deliver c id k => .next (s.onGroup c (fun g => g.early id k))
  | .ahead c pc => .next (s.fetchAhead c pc)
  | .tlbDrop u which k => .next (s.tlbDrop u which k)
  | .icacheDrop u line => .next (s.icacheGive u line)
  | .supervise u sc => .next (s.supervise u sc)
  | .eccLine line => .next (s.spoilLine line)
  | .eccColumn col cls => .next (s.spoilColumn col cls)
  | .eccL1 core line => .next (s.spoilL1 core line)
  | .subFail u i => .next (s.spoilSub u i)
  | .eccVersion lid n line => .next (s.spoilVersion lid n line)
  | .eccPublish lid n line => .next (s.spoilPublish lid n line)
  | .outside pa bs => .next (s.outsideWrite pa bs)
  | .hostPoison half => .next (s.spoilHost half)
  | .packet p => .next (s.peerPacket p)
  | .peerRefusal c id => .next (s.peerRefuses c id)
  | .migrate m => .next (s.startMigration m)
  | .migrateLeaf pa => .next (s.setMigLeaves pa)
  | .migrateDone pa => .next (s.dropMigrated pa)
  | .reread half => .next (s.reread half)
  | .walkAhead u k row => .next (s.walkAheadTurn u k row)
  | .matrixPass u k => .next (s.passTurn u k)
  | .boot => .next s.bootStep
  | .barRead off n => .next (s.barRead off n)

/-- What a turn from `s` comes to, with the wakes that it causes. -/
def State.settled (s : State) : Host.Outcome State Fault Refusal → Host.Outcome State Fault Refusal
  | .next t => .next (s.settlePower t)
  | o => o

/-- A turn, and the wakes that it causes. -/
def State.runTurn (s : State) (t : Turn) : Host.Outcome State Fault Refusal := s.settled (s.doTurn t)

/-! ### What moves when no turn is listed -/

/-- What a context may do next. -/
def ctxTurns (c : Ctx) (g : Group) : List Turn :=
  let done (p : Pending × Nat) : List Turn :=
    if p.1.blocked = 0 then [.event (if p.1.load then .loadComplete c p.2 else .storePerformed c p.2)] else []
  (if g.stall = 0 then [] else [.event (.stallExpiry c)])
    ++ (match g.hold with
      | .svWait => [.event (.trapDelivery c)]
      | .arming _ _ => [.event (.watchArm c)]
      | _ => [])
    ++ g.pend.zipIdx.flatMap done

/-- What a block may do next. -/
def blockTurns (b : Block) : List Turn :=
  (List.range 4).map (fun i => Turn.cycle b.unit i)
    ++ (b.groups.zipIdx).flatMap (fun g => ctxTurns (.grp b.bid g.2) g.1)
    ++ [.event (if isRoot b.unit then .rootBlockReturn b.bid else .blockExitComplete b.bid)]

/-- What a unit may do next by itself. -/
def unitTurns (u : Nat) (p : Proc) : List Turn :=
  p.sups.flatMap (fun x => if x.2.active then Turn.supervise u x.1 :: ctxTurns (.sup u x.1) x.2.g else [])
    ++ p.grans.map (fun g => Turn.event (.granuleAccessPerform u g.granule))
    ++ (if p.mx.isEmpty then [] else .event (.matrixStart u)
      :: (List.range p.mx.length).flatMap (fun k => [Turn.matrixPass u k, .event (.matrixComplete u k)]))
    ++ (List.range p.cmds.length).flatMap (fun k =>
      [Turn.event (.engineReport u k 1), .event (.engineFault u k), .event (.engineCommandComplete u k)])
    ++ (if p.bnk.isEmpty then [] else [.event (.bnkCommandComplete (u - 0x8000))])
    ++ (if p.inbox.isEmpty then [] else [.event (.rootCallPlace (u - 0x8000))])

/-- What a launch may do next. -/
def launchTurns (l : Launch) : List Turn :=
  (if l.r.lflags % 2 = 1 then
      [Turn.event (.frontierPublish l.lid), .event (.taskDispatch l.lid), .event (.taskSpillEngine l.lid), .event (.capacityAbort l.lid),
        .event (.spawnCapacityAbort l.lid), .event (.taskCommit l.lid)]
    else [])
    ++ [.event (.starvationTimeout l.lid), .event (.phaseEnd l.lid), .event (.launchRetire l.lid)]

/-- What an image may do next: its cluster comes back, and the holds saved as they were arming arm (R353, R413). -/
def imageTurns (im : Image) : List Turn :=
  .event (.contextRestore im.block.lid im.block.stage im.block.cidx)
    :: (im.block.groups.zipIdx).flatMap (fun g => match g.1.hold with
      | .arming _ _ => [Turn.event (.watchArm (.grp im.block.bid g.2))]
      | _ => [])

/-- What the part may do next by itself. -/
def State.idleTurns (s : State) : List Turn :=
  [.elapse 1, .event .arbiterDecision, .event .placementDecision, .event .stageSample, .event .faultRecordWrite,
      .event .hostWatchdogTimeout]
    ++ s.blocks.flatMap blockTurns
    ++ s.units.flatMap (fun u => unitTurns u.1 u.2)
    ++ s.launches.flatMap launchTurns
    ++ s.images.flatMap imageTurns
    ++ (List.range s.calls.length).map (fun k => Turn.event (.rcallDeliver k))
    ++ (List.range s.packets.length).map (fun k => Turn.event (.landingPacketArrival k))
    ++ (if s.packets.any (·.waiting) then (List.range 16).map (fun st => Turn.event (.landingStagingAdmit st)) else [])
    ++ (List.range s.watches.length).map (fun k => Turn.event (.watchTimeout k))
    ++ s.rereads.map Turn.reread
    ++ s.migs.map (fun m => Turn.event (.migrationFill m.die))

/-- The turn taken when none is listed: boot first, step by step, then each thing that may move in its place (assumption 3). -/
def State.idleTurn (s : State) : Turn :=
  if s.plat.state = 0 then .event .moduleReset
  else if s.plat.state.toNat < 6 then .boot
  else
    let l := s.idleTurns
    takeAt (.elapse 1) l (s.rotor % l.length)

/-- The next turn taken. -/
def State.takeTurn (s : State) : Host.Outcome State Fault Refusal :=
  match s.turns with
  | t :: r => { s with turns := r }.runTurn t
  | [] => { s with rotor := s.rotor + 1 }.runTurn s.idleTurn

end Sys2Proof.Machine
end

