-- ==== Sys2Proof/Machine/Step.lean ====
section
/-! DEFINITION. One step of the part, and the state in which a given word runs next. -/

namespace Sys2Proof.Machine

/-- One step: the next turn is taken (assumption 3). -/
def step (s : State) : Host.Outcome State Fault Refusal := s.takeTurn

/-- `s` with a word placed where the next step fetches it (assumption 5). -/
def State.withFetchWord (s : State) (nbits w : Nat) : State := s.withProgram (w % 2 ^ nbits)

end Sys2Proof.Machine
end

