-- ==== Sys2Proof/Safety.lean ====
section
/-! DEFINITION. The terms in which claims are stated: a safe step, a context whose instruction completes, what its run does
then, and what an instruction leaves as it was. -/

namespace Sys2Proof.Machine

/-- A step gives a next state. -/
def Safe (s : State) : Prop := ∃ t, step s = .next t

/-- The group of a context. -/
def State.grp (s : State) (c : Ctx) : Group := (s.group? c).getD {}

/-- The lanes in which an instruction acts (R100). -/
def State.acts (s : State) (c : Ctx) (h : Head) : List Nat := (s.grp c).active h

/-- What an instruction with these operand slots sees when a context issues it. -/
def State.view (s : State) (c : Ctx) (h : Head) (slots : List Slot) : View :=
  { c, g := s.grp c, act := s.acts c h, op := opOf (s.grp c) slots }

/-- Nothing keeps a context from issuing a word: it is the one chosen, may issue (R88, R89), has no trap pending (R410) and
does not wait (R92, R93, R376, R383). -/
def State.mayStart (s : State) (c : Ctx) (h : Head) (row : RowInfo) : Bool :=
  s.sel == some c && (s.group? c).isSome && s.canIssue c (s.grp c) && (s.grp c).dueAsync.isNone && (s.grp c).hold == .none
    && !s.waitsFirst c (s.grp c) h row

/-- A context issues an instruction of these flags and operands: nothing keeps it, no earlier iteration of a `rep` among that (R102),
every check of Table 5-1 before the instruction's own passes, and the guard is true in some lane (R83, R100). -/
def State.clear (s : State) (c : Ctx) (h : Head) (row : RowInfo) (slots : List Slot) : Bool :=
  s.mayStart c h row && !s.awaitsIteration c (s.grp c) h slots && (s.issueCheck c (s.grp c) h row slots).isNone && !(s.acts c h).isEmpty

/-- An instruction with effect `t` completes: the run moves on, STALL is taken, and the scheduler's books are kept (R86,
R89, R91, R102). -/
def State.completed (s t : State) (c : Ctx) (h : Head) : State :=
  (t.onGroup c (fun x => (x.moveOn (s.grp c).run).stalled h)).issued c h.hints.yld

/-- An instruction that has set its lanes' PCs itself completes. -/
def State.jumped (t : State) (c : Ctx) (h : Head) : State := (t.onGroup c (fun x => x.stalled h)).issued c h.hints.yld

/-- An instruction whose only effect is each active lane's result, of its own sources, in D (R140) completes; the halves of a
64-bit result each take their tag from the elements that they depend on (R404). -/
def State.lanedTo (s : State) (c : Ctx) (h : Head) (slots : List Slot) (w : Bool) (srcs : List Reading) (f : (Pos → W64) → W64)
    (dep : Deps := deps .all) : State :=
  s.completed (s.laned (s.view c h slots) w srcs dep f) c h

/-- A floating-point instruction that took its draws in `t` completes: each active lane's results in D's `regs` registers,
and the exceptions ORed into FLAGS (R129, R132, R163). -/
def State.floatedOn (s t : State) (c : Ctx) (h : Head) (slots : List Slot) (w : Bool) (regs : Nat) (res : List FLane) : State :=
  let t := (List.range regs).foldl (fun t j =>
    t.dst c (runOperand (opOf (s.grp c) slots .d) j) w (res.map (fun r => (r.lane, r.outs.getD j ⟨0, false⟩)))) t
  s.completed (t.onGroup c (fun g => g.accrue (res.map (fun r => (r.lane, r.fl))))) c h

/-- A floating-point instruction that takes no draw completes. -/
def State.floated (s : State) (c : Ctx) (h : Head) (slots : List Slot) (w : Bool) (regs : Nat) (res : List FLane) : State :=
  s.floatedOn s c h slots w regs res

/-- No exception that a run raises is enabled to trap (R133). -/
def State.noFpx (s : State) (c : Ctx) (res : List FLane) : Bool := (fpxOf (s.grp c).flags (res.map (fun r => (r.lane, r.fl)))).isNone

/-- The state in which a command with an acquire starts: its group's release of the scope (R257). -/
def State.acquired (s : State) (c : Ctx) (acq : Option Scope) : State :=
  match acq with
  | none => s
  | some sc => s.release c sc

/-- A command's acquire waits for nothing: it has none, or its group has no unperformed access (R257). -/
def State.mayAcquire (s : State) (c : Ctx) (acq : Option Scope) : Bool := acq.isNone || !s.unperformed c

/-- A group's entry joins the matrix queue of its core, counted in STCNT as blocked (R265, R285). -/
def State.mxQueuedUp (s : State) (v : View) (bid g acc : Nat) (kind : MxKind) : State :=
  { ((s.onGroup v.c (fun x => { x with mprog := 0 })).counted v.c false [] 1).onProc (s.ctxUnit v.c) (fun p =>
      { p with mx := p.mx ++ [{ id := s.nextCmd, bid, g, pend := v.g.nextId, acc, kind }] }) with nextCmd := s.nextCmd + 1 }

/-- A group's command joins its engine's queue, counted in STCNT as blocked (R283, R285). -/
def State.cmdQueuedUp (s : State) (v : View) (kind : EngKind) (rel : Option Scope) (bar : Option (Nat × Nat)) : State :=
  { ((s.onGroup v.c (fun x => { x with mprog := 0 })).counted v.c false [] 1).onProc (s.ctxUnit v.c) (fun p =>
      { p with cmds := p.cmds ++ [{ id := s.nextCmd, bid := (cmdOwner v.c).1, g := (cmdOwner v.c).2, pend := v.g.nextId, kind, rel, bar }] }) with
    nextCmd := s.nextCmd + 1 }

/-- A word of 96 bits from its three words, the first at the lowest address (R3). -/
def word3 (w0 w1 w2 : BitVec 32) : Word96 := w2 ++ w1 ++ w0

/-- Guard p7, no hint, and the MOD bits of an instruction (Table 6-1). -/
def headOf (m : Mods) : Head := ⟨⟨7, false⟩, ⟨0, false, false, false, 0⟩, m⟩

/-- The registers that a value of a type takes up. -/
def regsOf (ty : Ty) : Nat := if tyWide ty then 2 else 1

/-- The head, D and the number of registers D spans, for the instructions whose only effects are a result in D and, for the
floating-point ones, FLAGS. -/
def resultIn : Instr → Option (Head × Operand × Nat)
  | .add h ty d _ _ | .sub h ty d _ _ | .mul h ty d _ _ | .mulhi h ty d _ _ | .mad h ty d _ _ _ | .neg h ty d _ | .abs h ty d _
  | .min h ty d _ _ | .max h ty d _ _ | .and h ty d _ _ | .andImm h ty d _ _ | .or h ty d _ _ | .orImm h ty d _ _
  | .xor h ty d _ _ | .xorImm h ty d _ _ | .not h ty d _ | .shl h ty d _ _ | .shr h ty d _ _ | .sar h ty d _ _ | .rol h ty d _ _
  | .bfe h ty d _ _ _ | .bfi h ty d _ _ _ | .popc h ty d _ | .clz h ty d _ | .brev h ty d _ | .sel h ty d _ _ _ | .mov h ty d _
  | .movi h ty d _ | .lea h ty d _ _ _ | .bcast h ty d _ _ | .lred h ty d _ _ | .lscan h ty d _ _ | .fadd h ty d _ _
  | .fsub h ty d _ _ | .fmul h ty d _ _ | .fma h ty d _ _ _ | .fmin h ty d _ _ | .fmax h ty d _ _ | .frint h ty d _
  | .fcvt h ty d _ | .icvt h ty _ d _ | .fcvti h _ ty d _ | .rcp h ty d _ | .rsq h ty d _ | .sqrt h ty d _ | .exp2 h ty d _
  | .log2 h ty d _ | .sinpi h ty d _ | .cospi h ty d _ | .tanh h ty d _ | .fdiv h ty d _ _ => some (h, d, regsOf ty)
  | .madw h _ d _ _ _ => some (h, d, 2)
  | .idot4 h _ d _ _ _ | .sad h _ d _ _ _ | .pand h d _ _ | .por h d _ _ | .pxor h d _ _ | .pnot h d _ | .vote h _ d _
  | .shfl h _ d _ _ | .cmp h _ _ d _ _ | .cmpImm h _ _ d _ _ | .ispsn h d _ | .fclass h _ d _ | .fcmp h _ _ d _ _
  | .fdot2 h _ d _ _ _ | .pack h _ d _ _ | .packSr h _ d _ _ | .mxscale h _ d _ _ | .fcvtSr h _ d _ | .fcvtToF32 h _ d _ =>
    some (h, d, 1)
  | .unpack h ty d _ _ => some (h, d, unpackRun ty)
  | .srget h d a => some (h, d, if operandWide64 a then 2 else 1)
  | _ => none

/-- An instruction of the floating-point chapter, which ORs exceptions into FLAGS (R132). -/
def setsFlags : Instr → Bool
  | .fadd .. | .fsub .. | .fmul .. | .fma .. | .fmin .. | .fmax .. | .fclass .. | .frint .. | .fdot2 .. | .pack .. | .packSr ..
  | .unpack .. | .mxscale .. | .fcvt .. | .fcvtSr .. | .fcvtToF32 .. | .icvt .. | .fcvti .. | .rcp .. | .rsq .. | .sqrt ..
  | .exp2 .. | .log2 .. | .sinpi .. | .cospi .. | .tanh .. | .fdiv .. | .fcmp .. => true
  | _ => false

/-- A `.sr` form, which takes draws (R128). -/
def takesDraws : Instr → Bool
  | .packSr .. | .fcvtSr .. => true
  | _ => false

/-- Everything but the blocks, the units' own state and the books of the package counters is as it was. -/
def keepsOutside (s t : State) : Prop :=
  t.mem = s.mem ∧ t.keyOf = s.keyOf ∧ t.poison = s.poison ∧ t.colErr = s.colErr ∧ t.reported = s.reported ∧ t.l2 = s.l2
    ∧ t.hostLines = s.hostLines ∧ t.hostBad = s.hostBad ∧ t.rereads = s.rereads ∧ t.colClass = s.colClass ∧ t.sent = s.sent
    ∧ t.ghosts = s.ghosts ∧ t.held = s.held ∧ t.watches = s.watches ∧ t.migs = s.migs ∧ t.versions = s.versions
    ∧ t.tfront = s.tfront ∧ t.calls = s.calls ∧ t.packets = s.packets ∧ t.lands = s.lands ∧ t.launches = s.launches
    ∧ t.images = s.images ∧ t.pool = s.pool ∧ t.arb = s.arb ∧ t.queues = s.queues ∧ t.parts = s.parts ∧ t.host = s.host
    ∧ t.plat = s.plat ∧ t.cfg = s.cfg ∧ t.cxlg = s.cxlg ∧ t.dead = s.dead ∧ t.time = s.time ∧ t.wovlb = s.wovlb ∧ t.wovln = s.wovln

/-- A unit's stores and caches are as they were. -/
def keepsStores (p q : Proc) : Prop :=
  q.sp = p.sp ∧ q.full = p.full ∧ q.spPoison = p.spPoison ∧ q.acc = p.acc ∧ q.accPoison = p.accPoison ∧ q.l1 = p.l1
    ∧ q.owners = p.owners ∧ q.stb = p.stb ∧ q.abuf = p.abuf ∧ q.grans = p.grans ∧ q.mx = p.mx ∧ q.cmds = p.cmds ∧ q.berr = p.berr

/-- Everything of a group but its lanes, its registers, its place in `rep` and its scheduler's marks is as it was. -/
def keepsGroup (g x : Group) : Prop :=
  x.rb = g.rb ∧ x.hb = g.hb ∧ x.hr = g.hr ∧ x.hrPc = g.hrPc ∧ x.pend = g.pend ∧ x.trapc = g.trapc ∧ x.trapa = g.trapa
    ∧ x.trappc = g.trappc ∧ x.psnm = g.psnm ∧ x.hstat = g.hstat ∧ x.qstat = g.qstat ∧ x.mprog = g.mprog ∧ x.ts = g.ts
    ∧ x.taskid = g.taskid ∧ x.drain = g.drain ∧ x.wsarea = g.wsarea ∧ x.hold = g.hold ∧ x.origins = g.origins ∧ x.asyncs = g.asyncs

end Sys2Proof.Machine
end

