-- ==== Sys2Proof/Certificates/Slice0/Obligations.lean ====
section
/-! DEFINITION. What is claimed of the machine, each statement with the rules of the specification that it formalises. -/

open Sys2Proof Sys2Proof.Machine

/-! ### Integer, bitwise, predicate and lane instructions -/

/-- R150, Table 9-2: each active lane of `add`, `sub`, `mul`, `mulhi`, `min`, `max`, `mad`, `madw`, `neg` and `abs` gets the
exact result taken modulo 2^n, or clamped under `.sat`, and the run moves on. Which half of a 64-bit result takes the tag of which
element (`arithDep`, `deps`) is the model's reading of R404 (assumption 14). -/
def Obligations.IntegerArithmeticCompletes : Prop :=
  (∀ (s : State) (c : Ctx) (h : Head) (ty : Ty) (d a b : Operand),
    s.clear c h { rpt := true } [slotD d (tyWide ty), slotS .a a (tyWide ty) d, slotS .b b (tyWide ty) d] = true →
      let r (dep : Deps) (f : W64 → W64 → W64) : Host.Outcome State Fault Refusal :=
        .next (s.lanedTo c h [slotD d (tyWide ty), slotS .a a (tyWide ty) d, slotS .b b (tyWide ty) d] (tyWide ty)
          [(.a, tyWide ty, none), (.b, tyWide ty, none)] (fun x => f (x .a) (x .b)) dep)
      let k : Deps := arithDep h.mods.sat
      exec (.add h ty d a b) s = r k (fun x y => arith ty h.mods.sat (val ty x + val ty y))
        ∧ exec (.sub h ty d a b) s = r k (fun x y => arith ty h.mods.sat (val ty x - val ty y))
        ∧ exec (.mul h ty d a b) s = r k (fun x y => arith ty h.mods.sat (val ty x * val ty y))
        ∧ exec (.mulhi h ty d a b) s = r (deps .all) (fun x y => w64 (wrap (2 * tyBits ty) (val ty x * val ty y) / 2 ^ tyBits ty))
        ∧ exec (.min h ty d a b) s = r (deps .all) (fun x y => if val ty y < val ty x then y else x)
        ∧ exec (.max h ty d a b) s = r (deps .all) (fun x y => if val ty x < val ty y then y else x))
  ∧ (∀ (s : State) (c : Ctx) (h : Head) (ty : Ty) (d a b e : Operand),
    s.clear c h { rpt := true } [slotD d (tyWide ty), slotS .a a (tyWide ty) d, slotS .b b (tyWide ty) d, slotS .c e (tyWide ty) d] = true →
      exec (.mad h ty d a b e) s = .next (s.lanedTo c h
        [slotD d (tyWide ty), slotS .a a (tyWide ty) d, slotS .b b (tyWide ty) d, slotS .c e (tyWide ty) d] (tyWide ty)
        [(.a, tyWide ty, none), (.b, tyWide ty, none), (.c, tyWide ty, none)]
        (fun x => arith ty h.mods.sat (val ty (x .a) * val ty (x .b) + val ty (x .c))) (arithDep h.mods.sat)))
  ∧ (∀ (s : State) (c : Ctx) (h : Head) (ty : Ty) (d a b e : Operand),
    s.clear c h { rpt := true } [slotD d true, slotS .a a false d, slotS .b b false d, slotS .c e true d] = true →
      exec (.madw h ty d a b e) s = .next (s.lanedTo c h
        [slotD d true, slotS .a a false d, slotS .b b false d, slotS .c e true d] true
        [(.a, false, none), (.b, false, none), (.c, true, none)]
        (fun x => BitVec.ofInt 64 (val ty (x .a) * val ty (x .b) + (if ty = .i32 then (x .c).toInt else ((x .c).toNat : Int))))
        (deps .carry)))
  ∧ (∀ (s : State) (c : Ctx) (h : Head) (ty : Ty) (d a : Operand),
    s.clear c h { rpt := true } [slotD d (tyWide ty), slotS .a a (tyWide ty) d] = true →
      let r (dep : Deps) (f : W64 → W64) : Host.Outcome State Fault Refusal :=
        .next (s.lanedTo c h [slotD d (tyWide ty), slotS .a a (tyWide ty) d] (tyWide ty) [(.a, tyWide ty, none)] (fun x => f (x .a)) dep)
      exec (.neg h ty d a) s = r (arithDep h.mods.sat) (fun x => arith ty h.mods.sat (-val ty x))
        ∧ exec (.abs h ty d a) s = r (deps .all) (fun x => arith ty h.mods.sat (val ty x).natAbs))

/-- R151, Table 9-3: the bitwise instructions and shifts give each active lane their result, and the run moves on. Which half of a
64-bit result takes the tag of which element is the model's reading of R404 (assumption 14): the one of its own half, the low one of
a count, and in a shift or `brev` the one that its bits come from. -/
def Obligations.BitwiseAndShiftsComplete : Prop :=
  (∀ (s : State) (c : Ctx) (h : Head) (ty : Ty) (d a b : Operand),
    s.clear c h { rpt := true } [slotD d (tyWide ty), slotS .a a (tyWide ty) d, slotS .b b (tyWide ty) d] = true →
      let r (f : W64 → W64 → W64) : Host.Outcome State Fault Refusal :=
        .next (s.lanedTo c h [slotD d (tyWide ty), slotS .a a (tyWide ty) d, slotS .b b (tyWide ty) d] (tyWide ty)
          [(.a, tyWide ty, none), (.b, tyWide ty, none)] (fun x => f (x .a) (x .b)) (deps .halves))
      exec (.and h ty d a b) s = r (fun x y => x &&& y) ∧ exec (.or h ty d a b) s = r (fun x y => x ||| y)
        ∧ exec (.xor h ty d a b) s = r (fun x y => x ^^^ y))
  ∧ (∀ (s : State) (c : Ctx) (h : Head) (ty : Ty) (d a b : Operand),
    s.clear c h { rpt := true } [slotD d (tyWide ty), slotS .a a (tyWide ty) d, slotS .b b false d] = true →
      let r (dep : Deps) (f : W64 → Nat → W64) : Host.Outcome State Fault Refusal :=
        .next (s.lanedTo c h [slotD d (tyWide ty), slotS .a a (tyWide ty) d, slotS .b b false d] (tyWide ty)
          [(.a, tyWide ty, none), (.b, false, none)] (fun x => f (x .a) (x .b).toNat) dep)
      exec (.shl h ty d a b) s = r (shiftDep (fun k i => if k ≤ i then some (i - k) else none))
          (fun x k => if tyBits ty ≤ k then 0 else x <<< k)
        ∧ exec (.shr h ty d a b) s = r (shiftDep (fun k i => if i + k < 64 then some (i + k) else none))
          (fun x k => if tyBits ty ≤ k then 0 else x >>> k)
        ∧ exec (.sar h ty d a b) s = r (shiftDep (fun k i => some (min (i + k) 63)))
          (fun x k => (sext64 (tyBits ty) x).sshiftRight (min k 63))
        ∧ exec (.rol h ty d a b) s = r (shiftDep (fun k i => some ((i + 64 - k % 64) % 64))) (fun x k => (x <<< (k % tyBits ty)) ||| (x >>> (tyBits ty - k % tyBits ty))))
  ∧ (∀ (s : State) (c : Ctx) (h : Head) (ty : Ty) (d a : Operand) (i : BitVec 32),
    s.clear c h { rpt := true } [slotD d (tyWide ty), slotS .a a (tyWide ty) d] = true →
      let r' (dep : Deps) (f : W64 → W64) : Host.Outcome State Fault Refusal :=
        .next (s.lanedTo c h [slotD d (tyWide ty), slotS .a a (tyWide ty) d] (tyWide ty) [(.a, tyWide ty, none)] (fun x => f (x .a)) dep)
      let r (f : W64 → W64) : Host.Outcome State Fault Refusal := r' (deps .halves) f
      let k : W64 := if tyWide ty then i.signExtend 64 else i.setWidth 64
      exec (.andImm h ty d a i) s = r (fun x => x &&& k) ∧ exec (.orImm h ty d a i) s = r (fun x => x ||| k)
        ∧ exec (.xorImm h ty d a i) s = r (fun x => x ^^^ k) ∧ exec (.not h ty d a) s = r (fun x => ~~~x)
        ∧ exec (.popc h ty d a) s = r' (deps .low) (fun x => w64 ((bitsOf (tyBits ty) x).count true))
        ∧ exec (.clz h ty d a) s = r' (deps .low) (fun x => w64 ((bitsOf (tyBits ty) x).reverse.takeWhile (!·)).length)
        ∧ exec (.brev h ty d a) s = r' (fun _ _ => .ofBits (fun i => some (63 - i))) (fun x => w64 ((bitsOf (tyBits ty) x).foldl (fun m b => 2 * m + b.toNat) 0)))

/-- R152 to R155: fields, moves, addresses and byte sums give each active lane their result, and the run moves on; `sel`
passes the selected element on with its tag (R404). Which half of a 64-bit `bfe`, `bfi`, `mov` or `lea` takes the tag of which element
is the model's reading of R404 (assumption 14). -/
def Obligations.FieldsAndMovesComplete : Prop :=
  (∀ (s : State) (c : Ctx) (h : Head) (ty : Ty) (d a b e : Operand),
    let r (dep : Deps) (wa wb wc : Bool) (f : W64 → W64 → W64 → W64) : Host.Outcome State Fault Refusal :=
      .next (s.lanedTo c h [slotD d wa, slotS .a a wa d, slotS .b b wb d, slotS .c e wc d] wa
        [(.a, wa, none), (.b, wb, none), (.c, wc, none)] (fun x => f (x .a) (x .b) (x .c)) dep)
    (s.clear c h { rpt := true } [slotD d (tyWide ty), slotS .a a (tyWide ty) d, slotS .b b false d, slotS .c e false d] = true →
      exec (.bfe h ty d a b e) s = r (fun x p => if p = .a then .ofBits (bfeFrom h.mods.om (x .b).toNat (x .c).toNat) else .all)
        (tyWide ty) false false (fun x y z => bfe (tyBits ty) h.mods.om x y.toNat z.toNat))
    ∧ (s.clear c h { rpt := true } [slotD d (tyWide ty), slotS .a a (tyWide ty) d, slotS .b b (tyWide ty) d, slotS .c e false d] = true →
      exec (.bfi h ty d a b e) s = r (fun x p => if p = .c then .all else .ofBits (bfiFrom (p = .b) (x .c).toNat))
        (tyWide ty) (tyWide ty) false (fun x y z => bfi (tyBits ty) x y z.toNat))
    ∧ (s.clear c h { rpt := true } [slotD d false, slotS .a a false d, slotS .b b false d, slotS .c e false d] = true →
      exec (.idot4 h ty d a b e) s = r (deps .all) false false false (fun x y z => arith ty h.mods.sat
          (((List.range 4).map (fun j => byteAt (tySigned ty) x j * byteAt (tySigned ty) y j)).sum + val ty z))
        ∧ exec (.sad h ty d a b e) s = r (deps .all) false false false (fun x y z => w64 (wrap (tyBits ty) ((z.toNat : Int)
          + ((List.range 4).map (fun j => ((byteAt false x j - byteAt false y j).natAbs : Int))).sum)))))
  ∧ (∀ (s : State) (c : Ctx) (h : Head) (ty : Ty) (d a b e : Operand),
    let sl := [slotD d (tyWide ty), slotS .a a (tyWide ty) d, slotS .b b (tyWide ty) d, slotP .c e false]
    s.clear c h { rpt := true } sl = true →
      let v := s.view c h sl
      let pick (l : Nat) : Pos := if (s.src c v.g (v.op .c) false none l).v != 0 then .a else .b
      exec (.sel h ty d a b e) s = .next (s.completed (
        if tyWide ty then s.dstPair c (v.op .d) (v.act.map (fun l => s.pairOf v [(pick l, true, none)] (deps .halves) (fun x => x (pick l)) l))
        else s.dst c (v.op .d) false (v.act.map (fun l => (l, s.src c v.g (v.op (pick l)) false none l)))) c h))
  ∧ (∀ (s : State) (c : Ctx) (h : Head) (ty : Ty) (d a : Operand),
    s.clear c h { rpt := true } [slotD d (tyWide ty), slotS .a a (tyWide ty) d] = true →
      exec (.mov h ty d a) s =
        .next (s.lanedTo c h [slotD d (tyWide ty), slotS .a a (tyWide ty) d] (tyWide ty) [(.a, tyWide ty, none)] (fun x => x .a)
          (deps .halves)))
  ∧ (∀ (s : State) (c : Ctx) (h : Head) (ty : Ty) (d : Operand) (i : BitVec 32),
    s.clear c h { rpt := true } [slotD d (tyWide ty)] = true →
      exec (.movi h ty d i) s =
        .next (s.lanedTo c h [slotD d (tyWide ty)] (tyWide ty) [] (fun _ => if tyWide ty then i.signExtend 64 else i.setWidth 64)))
  ∧ (∀ (s : State) (c : Ctx) (h : Head) (ty : Ty) (d a b : Operand) (m : LeaMod),
    s.clear c h { rpt := true } [slotD d (tyWide ty), slotS .a a (tyWide ty) d, slotS .b b false d] = true →
      exec (.lea h ty d a b m) s =
        .next (s.lanedTo c h [slotD d (tyWide ty), slotS .a a (tyWide ty) d, slotS .b b false d] (tyWide ty)
          [(.a, tyWide ty, none), (.b, false, none)]
          (fun x => x .a + ((if m.sxb then sext64 32 (x .b) else zext64 32 (x .b)) <<< m.sh.toNat)) (deps .carry)))

/-- R156, R157: comparisons and predicate instructions give each active lane their truth in D, and the run moves on. -/
def Obligations.ComparisonsAndPredicatesComplete : Prop :=
  (∀ (s : State) (c : Ctx) (h : Head) (ty : Ty) (cc : Cmp) (d a b : Operand),
    s.clear c h { rpt := true } [slotP .d d true, slotS .a a (tyWide ty) d, slotS .b b (tyWide ty) d] = true →
      exec (.cmp h cc ty d a b) s =
        .next (s.lanedTo c h [slotP .d d true, slotS .a a (tyWide ty) d, slotS .b b (tyWide ty) d] false
          [(.a, tyWide ty, none), (.b, tyWide ty, none)] (fun x => truth (cmpHolds cc (tyBits ty) (x .a).toNat (x .b).toNat))))
  ∧ (∀ (s : State) (c : Ctx) (h : Head) (ty : Ty) (cc : Cmp) (d a : Operand) (i : BitVec 32),
    s.clear c h { rpt := true } [slotP .d d true, slotS .a a (tyWide ty) d] = true →
      exec (.cmpImm h cc ty d a i) s =
        .next (s.lanedTo c h [slotP .d d true, slotS .a a (tyWide ty) d] false [(.a, tyWide ty, none)]
          (fun x => truth (cmpHolds cc (tyBits ty) (x .a).toNat (i.signExtend 64).toNat))))
  ∧ (∀ (s : State) (c : Ctx) (h : Head) (d a b : Operand),
    s.clear c h {} [slotP .d d true, slotP .a a false, slotP .b b false] = true →
      let r (f : Bool → Bool → Bool) : Host.Outcome State Fault Refusal :=
        .next (s.lanedTo c h [slotP .d d true, slotP .a a false, slotP .b b false] false [(.a, false, none), (.b, false, none)]
          (fun x => truth (f (x .a != 0) (x .b != 0))))
      exec (.pand h d a b) s = r (· && ·) ∧ exec (.por h d a b) s = r (· || ·) ∧ exec (.pxor h d a b) s = r (· != ·))
  ∧ (∀ (s : State) (c : Ctx) (h : Head) (d a : Operand),
    s.clear c h {} [slotP .d d true, slotP .a a false] = true →
      exec (.pnot h d a) s =
        .next (s.lanedTo c h [slotP .d d true, slotP .a a false] false [(.a, false, none)] (fun x => truth (x .a = 0))))

/-- R158 to R162: `vote`, `shfl`, `bcast`, `lred` and `lscan` read across the lanes, deliver to every active lane, and move
on; a copy into a predicate needs untagged elements (R405). Each half of a 64-bit fold takes the tag of the elements that it depends
on (`State.dstFolds`), which is the model's reading of R404 (assumption 14). -/
def Obligations.LaneInstructionsComplete : Prop :=
  (∀ (s : State) (c : Ctx) (h : Head) (vm : VoteOp) (d a : Operand),
    let sl := [{ slotD d false with okP := vm != .ballot }, slotP .a a false]
    s.clear c h { coll := true } sl = true →
      let on := (s.acts c h).filter (fun l => (s.src c (s.grp c) (opOf (s.grp c) sl .a) false none l).v != 0)
      let r : W64 := match vm with
        | .any => truth (!on.isEmpty)
        | .all => truth (on.length = (s.acts c h).length)
        | .ballot => w64 (laneMask on)
      exec (.vote h vm d a) s =
        .next (s.completed (s.dst c (opOf (s.grp c) sl .d) false ((s.acts c h).map (fun l => (l, ⟨r, false⟩)))) c h))
  ∧ (∀ (s : State) (c : Ctx) (h : Head) (sm : ShflOp) (d a b : Operand),
    let sl := [slotD d false, { pos := .a, op := a, okS := false, okP := false, okSp := false, okK := false }, slotS .b b false d]
    let res : List LaneRes := (s.acts c h).map (fun l => (l, s.src c (s.grp c) (opOf (s.grp c) sl .a) false none
      (shflFrom sm (s.grp c).width l (s.src c (s.grp c) (opOf (s.grp c) sl .b) false none l).v.toNat)))
    s.clear c h { coll := true, rpt := true } sl = true → (∀ n, opOf (s.grp c) sl .d ≠ .p n) ∨ (∀ r ∈ res, r.2.tag = false) →
      exec (.shfl h sm d a b) s = .next (s.completed (s.dst c (opOf (s.grp c) sl .d) false res) c h))
  ∧ (∀ (s : State) (c : Ctx) (h : Head) (ty : Ty) (d : Operand) (n : BitVec 6) (b : Operand),
    let sl := [slotD d (tyWide ty),
      { pos := .a, op := .v n, wide := tyWide ty, okS := false, okP := false, okSp := false, okK := false },
      { slotS .b b false d with okV := false, okP := false, okSp := false }]
    let g := s.grp c
    let k : Nat := match opOf g sl .a with | .v m => m.toNat | _ => 0
    let lane (l : Nat) : Nat := (s.src c g (opOf g sl .b) false none l).v.toNat % g.width
    let lo (l : Nat) : Elem := g.elemAt (g.slotOf g.depth k) (lane l)
    let hi (l : Nat) : Elem := g.elemAt (g.slotOf g.depth (k + 1)) (lane l)
    s.clear c h { rpt := true } sl = true →
    (∀ m, opOf g sl .d ≠ .p m) ∨ (∀ l ∈ s.acts c h, (lo l).tag = false ∧ (tyWide ty = true → (hi l).tag = false)) →
      exec (.bcast h ty d (.v n) b) s = .next (s.completed (
        if tyWide ty then s.dstPair c (opOf g sl .d) ((s.acts c h).map (fun l => (l, lo l, hi l)))
        else s.dst c (opOf g sl .d) false ((s.acts c h).map (fun l => (l, ⟨(lo l).v.setWidth 64, (lo l).tag⟩)))) c h))
  ∧ (∀ (s : State) (c : Ctx) (h : Head) (ty : Ty) (d a : Operand) (op : LaneOp),
    let sl := laneSlots op ty d a
    s.clear c h { coll := true, rpt := true } sl = true →
      let v := s.view c h sl
      let i := laneInclusive op ty (s.laneSources v ty)
      exec (.lred h ty d a op) s = .next (s.completed (s.dstFolds v op ty
          ((s.acts c h).map (fun l => (l, s.acts c h, i.getLastD 0)))) c h)
        ∧ exec (.lscan h ty d a op) s = .next (s.completed (s.dstFolds v op ty
          (((s.acts c h).zip (if h.mods.om then laneIdentity op ty :: i else i)).zipIdx.map (fun x =>
            (x.1.1, (s.acts c h).take (if h.mods.om then x.2 else x.2 + 1), x.1.2)))) c h))

/-! ### Floating-point instructions -/

/-- R165, R167 to R170, R132: floating-point arithmetic of every type gives each active lane the delivered result, ORs the
exceptions into FLAGS, and the run moves on, where no exception that it raises is enabled to trap (R133). -/
def Obligations.FloatArithmeticCompletes : Prop :=
  ∀ (s : State) (c : Ctx) (h : Head) (ty : Ty) (d a b e : Operand),
    let w := tyWide ty
    let dl := Deliver.ofMods h.mods
    let f := fmtOf ty
    (let sl := [slotFD d w, slotFS .a a ty, slotFS .b b ty]
     s.clear c h (fpRow [ty]) sl = true →
      let v := s.view c h sl
      let does (i : Instr) (op : Nat → Nat → FRes) : Prop :=
        let res := (s.acts c h).map (fun l => fLane l [s.fsrc v .a ty l, s.fsrc v .b ty l]
          [op (fbits ty (s.fsrc v .a ty l).v) (fbits ty (s.fsrc v .b ty l).v)])
        s.noFpx c res = true → exec i s = .next (s.floated c h sl w 1 res)
      does (.fadd h ty d a b) (fAdd f dl) ∧ does (.fsub h ty d a b) (fSub f dl) ∧ does (.fmul h ty d a b) (fMul f dl)
        ∧ does (.fdiv h ty d a b) (fDiv f dl) ∧ does (.fmin h ty d a b) (fMinMax f false dl)
        ∧ does (.fmax h ty d a b) (fMinMax f true dl))
    ∧ (let sl := [slotFD d w, slotFS .a a ty]
     s.clear c h (fpRow [ty, ty]) sl = true →
      let v := s.view c h sl
      let does (i : Instr) (op : Nat → FRes) : Prop :=
        let res := (s.acts c h).map (fun l => fLane l [s.fsrc v .a ty l] [op (fbits ty (s.fsrc v .a ty l).v)])
        s.noFpx c res = true → exec i s = .next (s.floated c h sl w 1 res)
      does (.sqrt h ty d a) (fSqrt f dl) ∧ does (.frint h ty d a) (fRint f dl))
    ∧ (let sl := [slotFD d w, slotFS .a a ty, slotFS .b b ty, slotFS .c e ty]
     s.clear c h (fpRow [ty]) sl = true →
      let v := s.view c h sl
      let res := (s.acts c h).map (fun l => fLane l [s.fsrc v .a ty l, s.fsrc v .b ty l, s.fsrc v .c ty l]
        [fMa f dl (fbits ty (s.fsrc v .a ty l).v) (fbits ty (s.fsrc v .b ty l).v) (fbits ty (s.fsrc v .c ty l).v)])
      s.noFpx c res = true → exec (.fma h ty d a b e) s = .next (s.floated c h sl w 1 res))
    ∧ (let sl := [slotFD d false, slotFS .a a ty]
     s.clear c h (fpRow [ty]) sl = true →
      let v := s.view c h sl
      let res := (s.acts c h).map (fun l => fLane l [s.fsrc v .a ty l] [⟨fClass f (fbits ty (s.fsrc v .a ty l).v), 0⟩])
      s.noFpx c res = true → exec (.fclass h ty d a) s = .next (s.floated c h sl false 1 res))
    ∧ (∀ cc : Cmp,
     let sl := [slotP .d d true, { slotFS .a a ty with consumed := true }, { slotFS .b b ty with consumed := true }]
     s.clear c h (fpRow [ty]) sl = true →
      let v := s.view c h sl
      let res := (s.acts c h).map (fun l =>
        let r := fCmp f cc h.mods.fzi (fbits ty (s.fsrc v .a ty l).v) (fbits ty (s.fsrc v .b ty l).v)
        fLane l [s.fsrc v .a ty l, s.fsrc v .b ty l] [⟨r.1.toNat, r.2⟩])
      s.noFpx c res = true → exec (.fcmp h cc ty d a b) s = .next (s.floated c h sl false 1 res))

/-- R171 to R174, R179: conversions and special functions give each active lane the delivered result, and the run moves on,
where no exception that it raises is enabled to trap; `fcvt.sr` takes one draw of the core's generator for each active lane. A tagged
32-bit source of a 64-bit result gives its value bits to both elements (`Scal.spread`), the model's reading of R404 (assumption 14). -/
def Obligations.ConversionsAndSpecialFunctionsComplete : Prop :=
  ∀ (s : State) (c : Ctx) (h : Head) (ty it : Ty) (d a : Operand),
    let dl := Deliver.ofMods h.mods
    let one (td tf : Ty) (i : Instr) (op : Nat → FRes) : Prop :=
      let sl := [slotFD d (tyWide td), slotFS .a a tf]
      s.clear c h (fpRow [td, tf]) sl = true →
        let v := s.view c h sl
        let res := (s.acts c h).map (fun l => fLane l [(s.fsrc v .a tf l).spread (tyWide td) (tyWide tf)]
          [op (fbits tf (s.fsrc v .a tf l).v)])
        s.noFpx c res = true → exec i s = .next (s.floated c h sl (tyWide td) 1 res)
    one ty .f32 (.fcvt h ty d a) (fConvert (fmtOf ty) fF32 dl)
    ∧ one .f32 ty (.fcvtToF32 h ty d a) (fWiden (fmtOf ty) dl)
    ∧ one ty ty (.rcp h ty d a) (spEval .rcp ty dl) ∧ one ty ty (.rsq h ty d a) (spEval .rsq ty dl)
    ∧ one ty ty (.exp2 h ty d a) (spEval .exp2 ty dl) ∧ one ty ty (.log2 h ty d a) (spEval .log2 ty dl)
    ∧ one ty ty (.sinpi h ty d a) (spEval .sinpi ty dl) ∧ one ty ty (.cospi h ty d a) (spEval .cospi ty dl)
    ∧ one ty ty (.tanh h ty d a) (spEval .tanh ty dl)
    ∧ (let sl := [slotFD d false, slotFS .a a .f32]
     s.clear c h (fpRow [ty]) sl = true →
      let v := s.view c h sl
      let q := (s.proc (s.ctxUnit c)).drawN (s.acts c h).length
      let res := ((s.acts c h).zip q.1).map (fun lq => fLane lq.1 [s.fsrc v .a .f32 lq.1]
        [fConvertSr (fmtOf ty) dl lq.2 (fbits .f32 (s.fsrc v .a .f32 lq.1).v)])
      s.noFpx c res = true → exec (.fcvtSr h ty d a) s = .next
        (s.floatedOn (s.setProc (s.ctxUnit c) q.2) c h sl false 1 res))
    ∧ (let sl := [slotFD d (tyWide ty), { pos := .a, op := a, wide := tyWide it }]
     s.clear c h (fpRow [ty]) sl = true →
      let v := s.view c h sl
      let res := (s.acts c h).map (fun l =>
        let x := s.src c (s.grp c) (v.op .a) (tyWide it) none l
        fLane l [x.spread (tyWide ty) (tyWide it)] [fFromInt (fmtOf ty) h.mods.rnd (intOf it x.v.toNat)])
      s.noFpx c res = true → exec (.icvt h ty it d a) s = .next (s.floated c h sl (tyWide ty) 1 res))
    ∧ (let sl := [slotFD d (tyWide it), slotFS .a a ty]
     s.clear c h (fpRow [ty]) sl = true →
      let v := s.view c h sl
      let res := (s.acts c h).map (fun l => fLane l [(s.fsrc v .a ty l).spread (tyWide it) (tyWide ty)] [fToInt (fmtOf ty) it dl (fbits ty (s.fsrc v .a ty l).v)])
      s.noFpx c res = true → exec (.fcvti h ty it d a) s = .next (s.floated c h sl (tyWide it) 1 res))

/-- R175 to R178: `fdot2`, `pack`, `pack.sr`, `unpack` and `mxscale` give each active lane the packed or unpacked results,
`unpack` in a run of registers, and the run moves on, where no exception that it raises is enabled to trap. -/
def Obligations.PackedConversionsComplete : Prop :=
  ∀ (s : State) (c : Ctx) (h : Head) (ty : Ty) (d a b e : Operand),
    let f := fmtOf ty
    let dl := Deliver.ofMods h.mods
    (let sl := [slotFD d false, slotFS .a a ty, slotFS .b b ty, slotFS .c e .f32]
     s.clear c h (fpRow [ty]) sl = true →
      let v := s.view c h sl
      let p (op : Operand) (x : W64) : Nat := (twoValues op x).1 + 2 ^ 16 * (twoValues op x).2
      let res := (s.acts c h).map (fun l =>
        let x := s.fsrc v .a ty l
        let y := s.fsrc v .b ty l
        let z := s.fsrc v .c .f32 l
        fLane l [x, y, z] [fDot2 f dl (p a x.v) (p b y.v) (fbits .f32 z.v)])
      s.noFpx c res = true → exec (.fdot2 h ty d a b e) s = .next (s.floated c h sl false 1 res))
    ∧ (let sl := packSlots ty d a b
     s.clear c h (fpRow [ty]) sl = true →
      let v := s.view c h sl
      (let res := (s.acts c h).map (fun l =>
        let xs := s.packSources v ty l
        fLane l xs [packed ty (xs.map (fun x => fConvert f fF32 dl (fbits .f32 x.v)))])
       s.noFpx c res = true → exec (.pack h ty d a b) s = .next (s.floated c h sl false 1 res))
      ∧ (let n := 2 * packRun ty
       let q := (s.proc (s.ctxUnit c)).drawN (n * (s.acts c h).length)
       let res := (s.acts c h).zipIdx.map (fun li =>
        let xs := s.packSources v ty li.1
        fLane li.1 xs [packed ty ((xs.zip (q.1.drop (n * li.2))).map (fun xq => fConvertSr f dl xq.2 (fbits .f32 xq.1.v)))])
       s.noFpx c res = true → exec (.packSr h ty d a b) s = .next (s.floatedOn (s.setProc (s.ctxUnit c) q.2) c h sl false 1 res)))
    ∧ (let n := unpackRun ty
     let mx := Ty.nf.contains ty
     let sl := [{ slotFD d false with run := n, okS := false, okK := false }, slotFS .a a ty,
      if mx then { pos := .b, op := b } else { pos := .b, op := b, okV := false, okS := false, okP := false, okSp := false, okK := b = .k 0 }]
     s.clear c h (fpRow [ty]) sl = true →
      let v := s.view c h sl
      let res := (s.acts c h).map (fun l =>
        let x := s.fsrc v .a ty l
        let y := s.src c (s.grp c) (v.op .b) false none l
        fLane l [x, y] ((List.range n).map (fun j =>
          let k := field x.v.toNat (packBits ty * j) (packBits ty)
          if mx then fUnpackMx f dl (field y.v.toNat 0 8) k else fWiden f dl k)))
      s.noFpx c res = true → exec (.unpack h ty d a b) s = .next (s.floated c h sl false n res))
    ∧ (let sl := [slotFD d false, slotFS .a a .f32, { pos := .b, op := b }]
     s.clear c h (fpRow [ty]) sl = true →
      let v := s.view c h sl
      let res := (s.acts c h).map (fun l =>
        let x := s.fsrc v .a .f32 l
        let y := s.src c (s.grp c) (v.op .b) false none l
        fLane l [x, y] [⟨fMxScale ty (fbits .f32 x.v) (signedOf 32 y.v.toNat), 0⟩])
      s.noFpx c res = true → exec (.mxscale h ty d a b) s = .next (s.floated c h sl false 1 res))

/-! ### Control, special registers and the supervisor's instructions -/

/-- R101, R102, R145, R146: `nop` and `yield` only move on; `wcnt` does where both counts are low enough, and holds its group where one
is not; `rep` keeps its PC and arms the word after it; `trap` and `bkpt` (R144) take their traps with IMM32 and the lane mask in
TRAPA. -/
def Obligations.HousekeepingCompletes : Prop :=
  ∀ (s : State) (c : Ctx) (h : Head), s.clear c h {} [] = true →
    exec (.nop h) s = .next (s.completed s c h)
    ∧ exec (.yield h) s = .next (s.completed s c { h with hints := { h.hints with yld := true } })
    ∧ (∀ l : WcntMod, (s.grp c).ldcnt ≤ l.ldmax.toNat → (s.grp c).stcnt ≤ l.stmax.toNat →
        exec (.wcnt h l) s = .next (s.completed s c h))
    ∧ (∀ l : WcntMod, l.ldmax.toNat < (s.grp c).ldcnt ∨ l.stmax.toNat < (s.grp c).stcnt →
        exec (.wcnt h l) s = .next (s.onGroup c (fun g =>
          { g with hold := .wcnt l.ldmax.toNat l.stmax.toNat h.hints.stall.toNat h.hints.yld })))
    ∧ (∀ r : RepMod, exec (.rep h r) s = .next ((s.onGroup c (fun g =>
        { (if g.repi = 0 then g.firstIteration else g) with rep := some r })).issued c h.hints.yld))
    ∧ (∀ x : BitVec 32,
        let at_ : W64 := x.setWidth 64 ||| w64 (laneMask (s.acts c h) * 2 ^ 32)
        exec (.trap h x) s = .next (s.trap c { cause := 0x19, addr := at_ })
          ∧ exec (.bkpt h x) s = .next (s.trap c { cause := 0x18, addr := at_ }))

/-- R68, R69, R86, R141, R142: a branch sets each active lane's PC to its target and the run's other lanes go on; a call also
writes the link to registers 46 and 47 and goes one window deeper, where no lane overflows; `ret` goes one window up, where
none underflows and no link is tagged, to the link found there. -/
def Obligations.BranchesComplete : Prop :=
  ∀ (s : State) (c : Ctx) (h : Head),
    let g := s.grp c
    let act := s.acts c h
    let rest := g.run.filter (fun l => !act.contains l)
    let moved (f : Group → Group) (target : Nat → W64) : Host.Outcome State Fault Refusal :=
      .next ((s.onGroup c (fun g => (f g).jump act rest target)).jumped c h)
    (s.clear c h {} [] = true → ∀ x : BitVec 32,
      let near : W64 := g.pc + 12 + 12 * x.signExtend 64
      exec (.bra h x) s = moved id (fun _ => near)
        ∧ ((∀ l ∈ act, (g.lane l).depth + 1 - g.rb < g.win) →
          exec (.call h x) s = moved (fun g => g.link ((s.grp c).pc + 12) act) (fun _ => near)))
    ∧ (∀ a : Operand, s.clear c h {} [slotTarget a] = true →
      let far (l : Nat) : W64 := (s.src c g (opOf g [slotTarget a] .a) true none l).v
      exec (.brx h a) s = moved id far
        ∧ ((∀ l ∈ act, (g.lane l).depth + 1 - g.rb < g.win) →
          exec (.callx h a) s = moved (fun g => g.link ((s.grp c).pc + 12) act) far))
    ∧ (s.clear c h {} [] = true → (∀ l ∈ act, g.rb < (g.lane l).depth) →
      let up (x : Group) : Group := x.onLanes act (fun y => { y with depth := y.depth - 1 })
      (∀ l ∈ act, ((up g).vreg 46 l).tag = false ∧ ((up g).vreg 47 l).tag = false) →
        exec (.ret h) s = moved up (fun l =>
          ((up g).vreg 46 l).v.setWidth 64 ||| (((up g).vreg 47 l).v.setWidth 64 <<< 32)))

/-- R143, R391: the active lanes exit and the others go on; the group ends with its last lane, a task's group once its counts
are 0, and its block with its last group. That `exit` in a supervisor slot ends the slot's lanes alone is the model's choice
(assumption 112). -/
def Obligations.ExitCompletes : Prop :=
  ∀ (s : State) (c : Ctx) (h : Head), s.clear c h {} [] = true →
    let act := s.acts c h
    let left (x : Group) : Group := (x.advance (x.run.filter (fun l => !act.contains l))).onLanes act (fun l => { l with live := false })
    let rest := (s.grp c).run.filter (fun l => !act.contains l)
    let t := s.onGroup c (fun x => x.leave act rest)
    ((s.grp c).leave act rest = left (s.grp c))
    ∧ (∀ u k, c = .sup u k → exec (.exit h) s = .next (t.jumped c h))
    ∧ (∀ bid k, c = .grp bid k →
      ((left (s.grp c)).alive = true → exec (.exit h) s = .next (t.jumped c h))
      ∧ ((left (s.grp c)).alive = false → ((s.grp c).task.isSome = true → (s.grp c).ldcnt = 0 ∧ (s.grp c).stcnt = 0) →
        exec (.exit h) s = .next ((((t.finishTask bid k).groupEnded bid k).trimHeld).jumped c h)))

/-- R147 to R149: `srget` copies a special register, `srset` writes the lowest active lane's value to one, `srset.seed` loads the
core's generator and empties its draws, and the run moves on. That `srset` to a 64-bit register of the supervisor makes its upper half
0 (assumption 111), and that a supervisor slot's write of FLAGS changes the slot's own (assumption 110), are the model's choices. -/
def Obligations.SpecialRegisterMovesComplete : Prop :=
  ∀ (s : State) (c : Ctx) (h : Head) (d a : Operand),
    (let w := operandWide64 a
     let sl := [slotD d w, { pos := .a, op := a, wide := true, okV := false, okS := false, okP := false, okK := false }]
     s.clear c h {} sl = true →
      exec (.srget h d a) s = .next (s.lanedTo c h sl w [(.a, true, none)] (fun x => x .a)))
    ∧ (let sl := [{ slotD d false with okV := false, okS := false, okP := false, okK := false }, { pos := .a, op := a, consumed := true, low := true }]
     s.clear c h {} sl = true →
      let l := (s.acts c h).headD 0
      exec (.srset h d a) s = .next (s.completed (s.dst c (opOf (s.grp c) sl .d) false
        [(l, ⟨(s.src c (s.grp c) (opOf (s.grp c) sl .a) false none l).v, false⟩)]) c h))
    ∧ (let sl := [{ pos := .a, op := a, wide := true, okP := false, okSp := false, consumed := true, low := true }]
     s.clear c h {} sl = true →
      let x := (s.src c (s.grp c) (opOf (s.grp c) sl .a) true none ((s.acts c h).headD 0)).v
      exec (.srsetSeed h a) s = .next (s.completed (s.onProc (s.ctxUnit c) (fun p =>
        { p with gen := if x = 0 then 0x9E3779B97F4A7C15 else x, draws := [] })) c h))

/-- R417, R398: the supervisor's `rti` ends the service, with what SVDISP asks; a handler's `rti`, where its lanes lie deep
enough and its link is not tagged, leaves the handler. -/
def Obligations.ReturnFromTrapCompletes : Prop :=
  ∀ (s : State) (c : Ctx) (h : Head), s.clear c h { hdl := true } [] = true →
    (∀ u k, c = .sup u k → exec (.rti h) s = .next ((s.endService u k).jumped c h))
    ∧ (∀ bid k, c = .grp bid k →
      let act := s.acts c h
      (∀ l ∈ act, (s.grp c).rb + 2 ≤ ((s.grp c).lane l).depth) →
      (∀ l ∈ act, ((s.grp c).vreg 0 l).tag = false ∧ ((s.grp c).vreg 1 l).tag = false) →
        let t := s.onGroup c (fun g => g.leaveHandler act ((s.grp c).run.filter (fun l => !act.contains l)))
        exec (.rti h) s = .next ((if ((t.group? c).map Group.inHandler).getD false then t else t.resumeHeld c).jumped c h))

/-- R418 to R420, R422: `tlbinv` drops every matching translation of every unit, `icinv` every cached copy of the range's
words, `ifence` the words fetched ahead; `ispsn` reads and `clrpsn` clears tags; and the run moves on. Which accesses in flight use a dropped translation,
so that `tlbinv` holds the slot, is the model's reading (`State.usesDropped`, assumption 83). -/
def Obligations.InvalidationsAndTagsComplete : Prop :=
  ∀ (s : State) (c : Ctx) (h : Head) (d a b : Operand),
    (let sl := [scalarSlot .a a, scalarSlot .b b]
     s.clear c h { sup := true } sl = true →
      let x := (s.src c (s.grp c) (opOf (s.grp c) sl .a) true none ((s.acts c h).headD 0)).v
      let y := (s.src c (s.grp c) (opOf (s.grp c) sl .b) true none ((s.acts c h).headD 0)).v
      field y.toNat 34 30 = 0 →
        let lid := field y.toNat 0 32
        let mine (e : TlbEntry) : Bool :=
          e.lid = lid || (leafGlobal e.leaf && (s.launch? lid).map (·.ptroot) = some e.root)
        let keep (t : List TlbEntry) : List TlbEntry := t.filter (fun e =>
          !((lid = 0 || mine e) && (y.getLsbD 32 || e.vpn = vpnAt x e.level) && (y.getLsbD 33 || !leafGlobal e.leaf)))
        let t := { s with units := s.units.map (fun u =>
          (u.1, { u.2 with itlb := keep u.2.itlb, dtlb := keep u.2.dtlb, wtlb := keep u.2.wtlb })) }
        (t.usesDropped x y = false → exec (.tlbinv h a b) s = .next (s.completed t c h))
          ∧ (t.usesDropped x y = true → exec (.tlbinv h a b) s = .next t))
    ∧ (let sl := [scalarSlot .a a, { pos := .b, op := b, okV := false, okP := false, okSp := false, consumed := true }]
     s.clear c h {} sl = true →
      let x := (s.src c (s.grp c) (opOf (s.grp c) sl .a) true none ((s.acts c h).headD 0)).v
      let n := (s.src c (s.grp c) (opOf (s.grp c) sl .b) false none ((s.acts c h).headD 0)).v.toNat
      let r := s.linesInRange (s.xctx c) x n
      exec (.icinv h a b) s = .next (s.completed (r.1.icacheDropAll r.2) c h))
    ∧ (s.clear c h {} [] = true →
      exec (.ifence h) s = .next (s.completed (s.onGroup c (fun g => { g with ahead := [] })) c h))
    ∧ (let sl := [slotP .d d true, tagSlot .a a false]
     s.clear c h { rpt := true } sl = true →
      exec (.ispsn h d a) s = .next (s.completed (s.dst c (opOf (s.grp c) sl .d) false ((s.acts c h).map (fun l =>
        (l, ⟨if (s.src c (s.grp c) (opOf (s.grp c) sl .a) false none l).tag then 1 else 0, false⟩)))) c h))
    ∧ (s.clear c h { rpt := true } [tagSlot .d d true] = true →
      let op := opOf (s.grp c) [tagSlot .d d true] .d
      (∀ n, op = .v n → exec (.clrpsn h d) s = .next (s.completed (s.onGroup c (fun g =>
        (s.acts c h).foldl (fun g l => g.setVreg n.toNat l ⟨(g.vreg n.toNat l).v, false⟩) g)) c h))
      ∧ (∀ n, op = .s n → exec (.clrpsn h d) s = .next (s.completed (s.onGroup c (fun g =>
        g.setSreg n.toNat ⟨(g.sreg n.toNat).v, false⟩)) c h)))

/-- R421: `ctxsw` executes the command its 64 bytes hold and writes the result's code to bytes 40 to 47 of it. -/
def Obligations.ContextCommandsComplete : Prop :=
  ∀ (s : State) (c : Ctx) (h : Head) (a : Operand),
    s.clear c h { sup := true } [scalarSlot .a a] = true →
      let u := s.ctxUnit c
      let pa := (s.src c (s.grp c) (opOf (s.grp c) [scalarSlot .a a] .a) true none ((s.acts c h).headD 0)).v.toNat
      pa % 64 = 0 → isHbm pa = true → s.spot pa ≠ .unbacked →
        let s1 := s.homeTouch { die := dieOf u } pa
        let k := ctxCmdOf (leNat (s1.bytesUnder 0 pa 64))
        let r (x : State × Nat) : Host.Outcome State Fault Refusal :=
          .next (s.completed (x.1.homeWriteBytes .other 0 (pa + 0x28) (leBytes x.2 8)) c h)
        (k.ok = true → k.op = 1 → exec (.ctxswSave h a) s = r (s1.ctxSave k))
        ∧ (k.ok = true → k.op = 2 → exec (.ctxswReady h a) s = r (s1.ctxReady k))
        ∧ (k.ok = true → k.op = 3 → exec (.ctxswDiscard h a) s = r (s1.ctxDiscard k))
        ∧ (k.ok = true → k.op = 4 → exec (.ctxswPool h a) s = r (s1.ctxPool u k))
        ∧ (k.ok = false → exec (.ctxswSave h a) s = r (s1, 1))

/-- R70, R423: `wsave` moves the group's lowest window to its save area where no live lane lies in it and the area is backed;
`wrest` brings the window below back where one is saved. -/
def Obligations.WindowMovesComplete : Prop :=
  ∀ (s : State) (u k : Nat) (h : Head) (t : Ctx), s.clear (.sup u k) h { sup := true } [] = true → s.svTarget u k = some t →
    ((s.grp t).pinned = false → s.spot ((s.grp t).frameAt (s.grp t).rb) ≠ .unbacked →
      exec (.wsave h) s = .next (s.completed (s.saveWindow t (s.grp t)) (.sup u k) h))
    ∧ ((s.grp t).pinned = true → exec (.wsave h) s = .next (s.completed s (.sup u k) h))
    ∧ ((s.grp t).rb ≠ 0 → exec (.wrest h) s = .next (s.completed (s.restWindow t (s.grp t)) (.sup u k) h))

/-! ### Memory instructions -/

/-- R205 to R212, R215: `ld`, `ldstb` and `st` of aligned addresses that their windows take perform every active lane's access,
count in LDCNT or STCNT until their elements arrive, and the run moves on, where neither their translation nor, for a `st.rel`, the
release before it aborts the task that issues them (R377). -/
def Obligations.LoadsAndStoresComplete : Prop :=
  (∀ (s : State) (c : Ctx) (h : Head) (ty : Ty) (d a : Operand) (m : MemMod),
    let n := countOf m.cnt
    let sl := [loadSlot ty n d, addrSlot a]
    s.clear c h { rpt := true, ld := true } sl = true →
      let v := s.view c h sl
      let eas := s.addresses v m.off
      let x := s.translateLanes c .read eas
      s.parksOn c eas = false → misaligned (n * tyBytes ty) eas = none → windowTrap v.sup (tyBytes ty) x.2 = none →
      s.taskLost x.1 c = false → x.1.behindGranule c (n * tyBytes ty) (windowParts x.2) = false → x.1.lacksRoom c false x.2 = none →
        let ls := x.1.loadLanes c (homeLevel m) (m.cp == .strm) (n * tyBytes ty) x.2
        let es := v.loadElems ls.1 ty n ls.2
        let t := (es.1.rootRead c (n * tyBytes ty) x.2).counted c true es.2 0 (requestSectors x.2)
        exec (.ld h ty d a m) s = .next (s.completed (if m.ord == .acq then t.flushFor c m.scope else t) c h))
  ∧ (∀ (s : State) (c : Ctx) (h : Head) (ty : Ty) (d a : Operand),
    let sl := [loadSlot ty 1 d, addrSlot a]
    s.clear c h { rpt := true, ld := true } sl = true →
      let v := s.view c h sl
      let eas := s.addresses v 0
      let x := s.translateLanes c .read eas
      s.parksOn c eas = false → misaligned (tyBytes ty) eas = none → windowTrap v.sup (tyBytes ty) x.2 = none →
      s.taskLost x.1 c = false → x.1.requestsFull c x.2 = false →
        let ls := x.1.stableLanes c (tyBytes ty) x.2
        let es := v.loadElems ls.1 ty 1 ls.2
        exec (.ldstb h ty d a) s =
          .next (s.completed ((es.1.rootRead c (tyBytes ty) x.2).counted c true es.2 0 (requestSectors x.2)) c h))
  ∧ (∀ (s : State) (c : Ctx) (h : Head) (ty : Ty) (a b : Operand) (m : MemMod),
    let n := countOf m.cnt
    let sl := [addrSlot a, dataSlot ty n b]
    s.clear c h { rpt := true, st := true } sl = true →
      let v := s.view c h sl
      let eas := s.addresses v m.off
      let x := s.translateLanes c .write eas
      s.parksOn c eas = false → misaligned (n * tyBytes ty) eas = none →
      writeTrap v.sup (tyBytes ty) x.2 = none → s.taskLost x.1 c = false → x.1.behindGranule c (n * tyBytes ty) (windowParts x.2) = false →
      (m.ord == .rel && x.1.unperformed c) = false → x.1.lacksRoom c true x.2 = none →
        let t := if m.ord == .rel then x.1.release c m.scope else x.1
        x.1.taskLost t c = false → exec (.st h ty a b m) s = .next (s.completed
          ((t.performStore c (homeLevel m) (m.cp == .strm) (x.1.pieces v ty n x.2)).counted c false [] 0 (requestSectors x.2)) c h))

/-- R212 to R214: scratchpad loads and stores of targets that exist are performed, unless a granule access of the same lane to one
of the bytes comes first, `ldfe` and `stfe` queue one access for each granule, they count, and the run moves on. -/
def Obligations.ScratchpadAccessesComplete : Prop :=
  ∀ (s : State) (c : Ctx) (h : Head) (ty : Ty) (d a b : Operand),
    (let sl := [loadSlot ty 1 d, spadSlot a]
     s.clear c h { rpt := true, ld := true } sl = true →
      let v := s.view c h sl
      ∀ ts, s.spadChecked v ty = .ok ts →
        let es := v.loadElems s ty 1 (ts.map (fun x =>
          ({ lane := x.1, ea := x.2.1, src := some { ea := x.2.1, way := .spad }
             r := if (s.proc x.2.2.1.unit).spBad (x.2.2.1.spBase + x.2.2.2) (tyBytes ty) then .error 0x0B
               else .ok (s.spBytes x.2.2.1 x.2.2.2 (tyBytes ty)) } : LaneLoad)))
        (s.behindGranule c (tyBytes ty) (spadParts ts) = false →
          exec (.ldsp h ty d a) s = .next (s.completed (es.1.counted c true es.2 0) c h))
        ∧ exec (.ldfe h ty d a) s = .next (s.completed (s.queueGranules v true h.mods.om ty ts
          (fun l => v.loadDest (tyWide ty) l 0) (fun _ => 0)) c h))
    ∧ (let sl := [spadSlot a, dataSlot ty 1 b]
     s.clear c h { rpt := true, st := true } sl = true →
      let v := s.view c h sl
      ∀ ts, s.spadChecked v ty = .ok ts →
        (s.behindGranule c (tyBytes ty) (spadParts ts) = false →
          exec (.stsp h ty a b) s = .next (s.completed ((ts.foldl (fun t x =>
            t.spPut x.2.2.1 x.2.2.2 (s.storeBytes v ty 1 x.1) false) s).counted c false [] 0) c h))
        ∧ exec (.stfe h ty a b) s = .next (s.completed (s.queueGranules v false false ty ts
          (fun _ => .nowhere) (fun l => (s.src c (s.grp c) (v.op .b) (tyWide ty) none l).v)) c h))

/-- R216 to R219, R229, R257: prefetch and cache maintenance act on the lanes' lines or the range's, a fence acquires, releases
or both once nothing that it waits for is left, `fence.acq.dev` with a target flushes that core's L1, `aflush` applies the
group's partials, and the run moves on. -/
def Obligations.CacheAndFenceInstructionsComplete : Prop :=
  (∀ (s : State) (c : Ctx) (h : Head) (a : Operand) (m : MemMod), s.clear c h { rpt := true } [addrSlot a] = true →
    let v := s.view c h [addrSlot a]
    s.onRoot c = true ∨ s.requestsFull c (s.prefetchLanes c (s.addresses v m.off)) = false →
    exec (.pref h a m) s = .next (s.completed (if s.onRoot c then s
      else (s.addresses v m.off).foldl (fun s e => s.prefetch c (m.cp == .l2) e.2) s) c h))
  ∧ (∀ (s : State) (c : Ctx) (h : Head) (a b : Operand),
    let sl := [{ addrSlot a with okV := false }, { pos := .b, op := b, okV := false, okP := false, okSp := false, consumed := true }]
    s.clear c h { st := true, parks := true } sl = true →
      let v := s.view c h sl
      let va := (s.src c (s.grp c) (v.op .a) true none v.low).v
      let len := (s.src c (s.grp c) (v.op .b) false none v.low).v.toNat
      (s.onRoot c = true ∨ s.rangeUnbacked c va len (len / 4096 + 2) = false) →
      let r (drop : Bool) : Host.Outcome State Fault Refusal :=
        .next (s.completed ((if s.onRoot c then s
          else
            let x := s.linesInRange (s.xctx c) va len
            (((x.1.proc (s.ctxUnit c)).l1.map (·.1)).filter x.2.contains).foldl (fun t l =>
              let t := t.l1WriteBack (s.ctxUnit c) l
              if drop then t.l1Drop (s.ctxUnit c) l else t) x.1).counted c false [] 0) c h)
      exec (.cflush h a b) s = r false ∧ exec (.cinv h a b) s = r true)
  ∧ (∀ (s : State) (c : Ctx) (h : Head) (sc : Scope), s.clear c h {} [] = true →
    (s.unperformedLoad c = false → exec (.fence h .acq sc) s = .next (s.completed (s.acquire c sc) c h))
    ∧ (s.unperformed c = false → exec (.fence h .rel sc) s = .next (s.completed (s.release c sc) c h)
      ∧ exec (.fence h .ar sc) s = .next (s.completed ((s.release c sc).acquire c sc) c h)))
  ∧ (∀ (s : State) (c : Ctx) (h : Head) (a : Operand),
    let sl := [{ pos := .a, op := a, okV := false, okP := false, okSp := false, consumed := true : Slot }]
    s.clear c h { parks := true } sl = true →
      let n := (s.src c (s.grp c) (opOf (s.grp c) sl .a) false none ((s.acts c h).headD 0)).v.toNat
      s.coreEnabled n = true → (s.part (s.partOf c)).has n = true → s.unperformedLoad c = false →
        exec (.fenceRemote h a) s = .next (s.completed ((s.l1Flush n).acquire c .dev) c h))
  ∧ (∀ (s : State) (bid k : Nat) (h : Head), s.clear (.grp bid k) h { parks := !s.selOnRoot } [] = true →
    s.onRoot (.grp bid k) = false →
      exec (.aflush h) s = .next (s.completed (s.flushGroup (.grp bid k) bid k) (.grp bid k) h))

/-- R220 to R224: an atomic on aligned addresses that take it steps every active lane's element in ascending order, at the
home, with the operation's own new value, and delivers the old values; acquire and release act as its ORD says, where the release
before it aborts no task of its own (R377). -/
def Obligations.AtomicsComplete : Prop :=
  ∀ (s : State) (c : Ctx) (h : Head) (ty : Ty) (d a b e : Operand) (m : MemMod),
    let does (i : Instr) (sl : List Slot) (po : PcieOp) (ps : List Pos) (step : AtomStep) : Prop :=
      let v := s.view c h sl
      let eas := s.addresses v m.off
      let x := s.translateLanes c .write eas
      let rel := m.ord == .rel || m.ord == .ar
      s.parksOn c eas = false → misaligned (tyBytes ty) eas = none → x.1.atomTrap v po (tyBytes ty) x.2 = none →
      s.taskLost x.1 c = false → (rel && x.1.unperformed c) = false → x.1.atomLacksRoom c x.2 = none →
        let y := if rel then x.1.release c m.scope else x.1
        let ls := y.atomLanes c (x.1.specTask c) (tyBytes ty) (fun l old => step old (Machine.laneOperands s v ps ty l)) x.2
        let es := v.loadElems ls.1 ty 1 ls.2
        let t := (es.1.rootRead c (tyBytes ty) x.2).counted c true es.2 0 (requestSectors x.2)
        x.1.taskLost y c = false → exec i s = .next (s.completed (if m.ord == .acq || m.ord == .ar then t.acquire c m.scope else t) c h)
    (let sl := [loadSlot ty 1 d, addrSlot a, atomSlot .b ty b]
     s.clear c h { rpt := true, ld := true, feat := tyFeat ty } sl = true →
      let two (i : Instr) (po : PcieOp) (f : W64 → W64 → W64) : Prop := does i sl po [.b] (fun old x => some (f old (x .b)))
      two (.atomAdd h ty d a b m) (pcieAdd ty) (sumOf ty) ∧ two (.atomMin h ty d a b m) .none (minMaxOf false ty)
        ∧ two (.atomMax h ty d a b m) .none (minMaxOf true ty) ∧ two (.atomAnd h ty d a b m) .none (fun x y => x &&& y)
        ∧ two (.atomOr h ty d a b m) .none (fun x y => x ||| y) ∧ two (.atomXor h ty d a b m) .none (fun x y => x ^^^ y)
        ∧ two (.atomExch h ty d a b m) .exchange (fun _ y => y))
    ∧ (let sl := [loadSlot ty 1 d, addrSlot a, atomSlot .b ty b, atomSlot .c ty e]
     s.clear c h { rpt := true, ld := true } sl = true →
      does (.atomCas h ty d a b e m) sl .exchange [.b, .c] (fun old x => if old = x .b then some (x .c) else none))

/-- R225, R226: `ared` on a shader core enters one contribution for each active lane into the core's buffer, counts in STCNT,
and the run moves on; on a root core (R309) it steps the elements as an atomic without a result. -/
def Obligations.ReductionsComplete : Prop :=
  ∀ (s : State) (c : Ctx) (h : Head) (ty : Ty) (a b : Operand) (m : MemMod),
    let sl := [addrSlot a, atomSlot .b ty b]
    let v := s.view c h sl
    let eas := s.addresses v m.off
    let x := s.translateLanes c .write eas
    misaligned (tyBytes ty) eas = none → x.1.atomTrap v .none (tyBytes ty) x.2 = none →
    (s.onRoot c = false → s.clear c h { rpt := true, st := true, parks := true, feat := tyFeat ty } sl = true → x.1.requestsFull c x.2 = false →
      let r (op : Nat) : Host.Outcome State Fault Refusal :=
        .next (s.completed ((x.1.enterLanes v op ty x.2).trimHeld.counted c false [] 0 (requestSectors x.2)) c h)
      exec (.aredAdd h ty a b m) s = r 0 ∧ exec (.aredMin h ty a b m) s = r 1 ∧ exec (.aredMax h ty a b m) s = r 2)
    ∧ (s.onRoot c = true → s.clear c h { rpt := true, ld := true, feat := tyFeat ty } sl = true →
      s.parksOn c eas = false → s.taskLost x.1 c = false → x.1.atomLacksRoom c x.2 = none →
      let r (f : W64 → W64 → W64) : Host.Outcome State Fault Refusal :=
        let ls := x.1.atomLanes c (x.1.specTask c) (tyBytes ty)
          (fun l old => some (f old (Machine.laneOperands s v [.b] ty l .b))) x.2
        let w : View := { v with op := fun p => if p = .d then .k 0 else v.op p }
        let es := w.loadElems ls.1 ty 1 ls.2
        .next (s.completed ((es.1.rootRead c (tyBytes ty) x.2).counted c true es.2 0 (requestSectors x.2)) c h)
      exec (.aredAdd h ty a b m) s = r (sumOf ty) ∧ exec (.aredMin h ty a b m) s = r (minMaxOf false ty)
        ∧ exec (.aredMax h ty a b m) s = r (minMaxOf true ty))

/-- R232 to R240: a row instruction on an aligned row that is there and well formed reads its elements, writes those below
the row's length with a version, or adds to them, counts, and the run moves on. -/
def Obligations.RowInstructionsComplete : Prop :=
  (∀ (s : State) (c : Ctx) (h : Head) (ty : Ty) (d a b : Operand) (m : RowLdMod),
    let k := m.km1.toNat + 1
    let n := k + (if m.ver then 2 else 0)
    let sl := [{ loadSlot .b32 n d with okS := false }, rowSlot a,
      { pos := .b, op := b, okV := false, okP := false, okSp := false, consumed := true }]
    s.clear c h { ld := true, feat := 0x80, parks := true } sl = true →
      let v := s.view c h sl
      let ea := (s.src c (s.grp c) (v.op .a) true none v.low).v
      let e0 := (s.src c (s.grp c) (v.op .b) false none v.low).v.toNat
      ∀ s1 y s2 r, ea.toNat % 16 = 0 → s.rowPlace v .read ea = (s1, .ok (.ok y)) →
        s1.rowOpen (leafKey y.leaf) y.pa ty = (s2, .ok r) →
        let ranges := rowRanges y.pa ty r.len (rowNamed ty (s.grp c).width e0 k (s.acts c h))
        let s3 := (if m.stl && r.version.toNat + m.lag.toNat < s2.tfront.toNat then s2.countStale (s2.partOf c) r.wpart
          else s2).touchRanges ranges
        let ls := s3.rowLanes y ty r.len (s.grp c).width e0 k (if m.ver then leBytes r.version.toNat 8 else []) ea (s.acts c h)
        let es := v.loadElems (s3.berrRead 2 ranges) .b32 n ls
        s1.slotsFull c (rowSectors y.pa ranges) = false →
        exec (.rowld h ty d a b m) s = .next (s.completed (es.1.counted c true
          (rowSources ty (s.grp c).width e0 k n (s.acts c h) es.2) 0 (rowSectors y.pa ranges)) c h))
  ∧ (∀ (s : State) (c : Ctx) (h : Head) (ty : Ty) (a b : Operand) (m : RowStMod),
    let k := m.km1.toNat + 1
    let sl := [rowSlot a, rowData b k]
    s.clear c h { st := true, feat := 0x80, parks := true } sl = true →
      let v := s.view c h sl
      let ea := (s.src c (s.grp c) (v.op .a) true none v.low).v
      ∀ s1 y, ea.toNat % 16 = 0 → s.rowPlace v .write ea = (s1, .ok (.ok y)) →
        (∀ s2 r, s1.rowOpen (leafKey y.leaf) y.pa ty = (s2, .ok r) →
          let sectors := rowSectors y.pa (rowRanges y.pa ty r.len (rowNamed ty (s.grp c).width m.eoff.toNat k (s.acts c h)))
          let es := (s.rowValues v ty m.eoff.toNat k).filter (fun e => e.1 < r.len)
          s1.slotsFull c sectors = false →
          exec (.rowst h ty a b m) s = .next (s.completed
            ((s2.rowWrite (leafKey y.leaf) y.pa ty r (s.grp c).ts (s.partOf c) es).counted c false [] 0 sectors) c h))
        ∧ (let base : Partial := { s1.contribution v 0 ty ea y 0 with stamp := (s.grp c).ts, part := s.partOf c }
           let es := s.rowValues v ty m.eoff.toNat k
           let sectors := rowSectors y.pa (rowRanges y.pa ty (rowMax ty) (rowNamed ty (s.grp c).width m.eoff.toNat k (s.acts c h)))
           let t := if s.onRoot c then
              s1.applyPartial .other { base with row := some (y.pa, es.map (fun e => (e.1, (widened ty e.2).setWidth 32))) }
            else ((rowPartials base ty es).foldl State.enterPartial s1).trimHeld
           s1.slotsFull c sectors = false →
           exec (.rowadd h ty a b m) s = .next (s.completed (t.counted c false [] 0 sectors) c h)))

/-! ### The matrix engine, the tensor walker and the copy engine -/

/-- R265, R269 to R276, R287 to R289: a multiplication whose maps, accumulator and operands pass its checks joins the core's
matrix queue, where there is room, and the run moves on. -/
def Obligations.MultiplicationsComplete : Prop :=
  ∀ (s : State) (bid k : Nat) (h : Head) (fa fb : MxFmt) (d a b e : Operand),
    let c : Ctx := .grp bid k
    let blk := s.blockOf c
    (s.proc (s.ctxUnit c)).mxQueued < 16 →
    (∀ m : TileMod,
      let sl := [numSlot .d d, numSlot .a a, numSlot .b b]
      let v := s.view c h sl
      s.clear c h (mxRow (mxFeat fa fb)) sl = true →
        ∀ da db, blk.mapAt (s.num v .a) (some fa) = some da → blk.mapAt (s.num v .b) (some fb) = some db →
          blk.accBad (s.num v .d) (tileBytes m.shape) = false →
          mapFits da (mxBits fa) (shapeDims m.shape).1 (32 * (m.km1.toNat + 1)) blk.spLen = true →
          mapFits db (mxBits fb) (shapeDims m.shape).2 (32 * (m.km1.toNat + 1)) blk.spLen = true →
            exec (.mma h fa fb d a b m) s = .next (s.completed (s.mxQueuedUp v bid k (s.num v .d)
              (.mul none fa fb h.mods.om h.mods.sat (.map da) (.map db) m.shape (32 * (m.km1.toNat + 1) / 32))) c h))
    ∧ (∀ m : TileMod,
      let n := m.km1.toNat + 1
      let sl := [numSlot .d d, numSlot .a a, numSlot .b b, numSlot .c e]
      let v := s.view c h sl
      s.clear c h (mxRow (2 ||| mxFeat fa fb)) sl = true →
        ∀ da db dm, blk.mapAt (s.num v .a) (some fa) = some da → blk.mapAt (s.num v .b) (some fb) = some db →
          blk.mapAt (s.num v .c) none = some dm → mapKmaj da = true → mapSwz da = false →
          blk.accBad (s.num v .d) (tileBytes m.shape) = false → mapBase dm + 16 ≤ blk.spLen →
          let bm := BitVec.ofNat 128 (leNat (s.spBytes blk (mapBase dm) 16))
          sparseFits da fa (mapBase dm) bm ((shapeDims m.shape).1 / 16) n blk.spLen = (true, true) →
          mapFits db (mxBits fb) (shapeDims m.shape).2 (32 * n) blk.spLen = true →
            exec (.mmas h fa fb d a b e m) s = .next (s.completed (s.mxQueuedUp v bid k (s.num v .d)
              (.mul (some (mapBase dm, bm)) fa fb h.mods.om h.mods.sat (.map da) (.map db) m.shape n)) c h))
    ∧ (∀ m : VecTileMod,
      let slots := [numSlot .d d, runSlot .a a (fragRegs fa), runSlot .b b (fragRegs fb)]
      let sl := if m.mxv then slots ++ [runSlot .c (.v m.sv) 1] else slots
      let v := s.view c h sl
      s.clear c h (mxRow (mxFeat fa fb)) sl = true → blk.accBad (s.num v .d) 4096 = false →
        let scales (lo : Nat) : Option (List Byte) :=
          if m.mxv then some (((s.grp c).capture (.v m.sv) 1).map (fun l => (takeAt 0 l 0).extractLsb' lo 8)) else none
        exec (.mmav h fa fb d a b m) s = .next (s.completed (s.mxQueuedUp v bid k (s.num v .d)
          (.mul none fa fb h.mods.om h.mods.sat (.frag ((s.grp c).capture (v.op .a) (fragRegs fa)) (scales 0))
            (.frag ((s.grp c).capture (v.op .b) (fragRegs fb)) (scales 8)) .s32x32 1)) c h))

/-- R269, R273, R290 to R294: `omap` exchanges a map slot's descriptor, and an accumulator instruction whose ranges are legal
joins the core's matrix queue, where there is room, `acc.send` after its acquire (R257); the run moves on. That a vector D of `omap`
takes the old descriptor in every active lane is the model's choice (assumption 74). -/
def Obligations.AccumulatorInstructionsComplete : Prop :=
  ∀ (s : State) (bid k : Nat) (h : Head) (ty : Ty) (d a b e : Operand),
    let c : Ctx := .grp bid k
    let blk := s.blockOf c
    (let sl := [pairSlot .d d true, pairSlot .a a false, numSlot .b b]
     let v := s.view c h sl
     let slot := s.num v .b
     let new := s.wide v .a &&& mapMask
     s.clear c h { noRoot := true, feat := 1 } sl = true → slot < 16 → mapValid new = true →
       exec (.omap h d a b) s = .next (s.completed (((s.engineIssue c).onBlock bid (fun x => { x with omaps := Cells.put 0 x.omaps slot new })).dst c
         (v.op .d) true (v.act.map (fun l => (l, ⟨Cells.get 0 blk.omaps slot, false⟩)))) c h))
    ∧ ((s.proc (s.ctxUnit c)).mxQueued < 16 →
      (let sl := [numSlot .a a, numSlot .b b]
       let v := s.view c h sl
       let acc := s.num v .a
       let n := s.num v .b
       s.clear c h (mxRow 0) sl = true →
        (n % 4096 = 0 → blk.accBad acc n = false →
          exec (.accClr h a b) s = .next (s.completed (s.mxQueuedUp v bid k acc (.clr n)) c h))
        ∧ (∀ m : Shape, blk.accBad acc (tileBytes m) = false →
          (spadTrap blk n (tyBytes ty * (tileBytes m / 4)) = none →
            exec (.accLd h ty a b m) s = .next (s.completed (s.mxQueuedUp v bid k acc (.load ty n m)) c h))
          ∧ (blk.accBad n (tileBytes m) = false →
            exec (.accCvt h ty a b m) s = .next (s.completed (s.mxQueuedUp v bid k acc (.cvt ty n m h.mods.rnd h.mods.sat)) c h)))
        ∧ (∀ m : StTileMod, m.dmem = false → blk.accBad acc (tileBytes m.shape) = false →
          s.accStTrap blk n (tyBytes ty * (tileBytes m.shape / 4)) = none →
            exec (.accSt h ty a b m) s = .next (s.completed (s.mxQueuedUp v bid k acc (.store ty n m.shape h.mods.rnd h.mods.sat)) c h)))
      ∧ (let engine (v : View) (s : State) (acc : Nat) (sh : Shape) (kind : EngKind) (rel : Option Scope) : State :=
          (({ s with nextCmd := s.nextCmd + 1 } : State).mxQueuedUp v bid k acc (.engine s.nextCmd sh)).onProc (s.ctxUnit c) (fun p =>
            { p with cmds := p.cmds ++ [{ id := s.nextCmd, bid, g := k, pend := v.g.nextId, kind, rel }] })
        (∀ m : StTileMod, m.dmem = true →
          let sl := [numSlot .a a, scalarSlot .b b]
          let v := s.view c h sl
          s.clear c h { mxRow 0 with parks := true } sl = true → (s.wide v .b).toNat % 16 = 0 →
          blk.accBad (s.num v .a) (tileBytes m.shape) = false →
            exec (.accSt h ty a b m) s = .next (s.completed (engine v s (s.num v .a) m.shape
              (.stMem (s.num v .a) (s.wide v .b) ty m.shape h.mods.rnd h.mods.sat) none) c h))
        ∧ (∀ (m : Shape) (o : OrdMod),
          let sl := [numSlot .a a, scalarSlot .b b, scalarSlot .c e]
          let v := s.view c h sl
          let ctl := (s.wide v .c).toNat
          s.clear c h { mxRow 0x10 with parks := true } sl = true → ctl < 2 ^ 16 → (s.wide v .b).toNat % 128 = 0 →
          blk.accBad (s.num v .a) (tileBytes m) = false → s.mayAcquire c o.acq = true →
          let r := s.acquired c o.acq
          (r.proc (r.ctxUnit c)).mxQueued < 16 →
            exec (.accSend h ty a b e o m) s = .next (s.completed (engine v r (s.num v .a) m
              (.send (s.num v .a) (s.wide v .b) (ty = .x64) m (signedOf 8 ctl) (field ctl 8 8)) o.rel) c h))))

/-- R257, R283, R295 to R299: `trec` reads a record into a tensor slot; `walk`, `copyt` and `copy` of legal operands join their
engine's queue, where there is room, after their acquire; the run moves on. -/
def Obligations.TensorAndCopyInstructionsComplete : Prop :=
  ∀ (s : State) (c : Ctx) (h : Head) (d a b e : Operand) (o : OrdMod),
    (let sl := [numSlot .d d, scalarSlot .a a]
     let v := s.view c h sl
     let va := s.wide v .a
     s.clear c h (walkRow false true) sl = true → s.num v .d < 16 → va.toNat % 64 = 0 →
     s.parksOn c [(v.low, va)] = false → ∀ s1 l y sp, s.translateLanes c .read [(v.low, va)] = (s1, [⟨l, va, .ok (y, sp)⟩]) → windowTrap v.sup 8 [⟨l, va, .ok (y, sp)⟩] = none →
     s.taskLost s1 c = false → s1.lacksRoom c false [⟨l, va, .ok (y, sp)⟩] = none →
       let r := s1.readAt c y sp true false 64
       let got : TrecSlot := match r.2 with
         | .ok bs => .loading (cmdOwner c).2 (s.grp c).nextId va (recValid (leNat bs)) none
         | .error e => .loading (cmdOwner c).2 (s.grp c).nextId va none (some (BitVec.ofNat 8 e, va))
       exec (.trec h d a) s = .next (s.completed (((r.1.engineIssue c).counted c true [] 0 (recordSectors [⟨l, va, .ok (y, sp)⟩])).onBlock (s.blockOf c).bid (fun b =>
         { b with trecs := Cells.set b.trecs (s.num v .d) got })) c h))
    ∧ (s.mayAcquire c o.acq = true →
      let q := s.acquired c o.acq
      let room (kind : EngKind) : Prop := ((s.proc (s.ctxUnit c)).cmds.filter (fun x =>
        x.kind.walker = kind.walker && x.kind.copies = kind.copies)).length < 32
      (let sl := [numSlot .a a, { runSlot .b b 1 with consumed := false }, scalarSlot .c e]
       let v := s.view c h sl
       let ctl := (s.wide v .c).toNat
       s.clear c h (walkRow true false) sl = true → s.num v .a < 16 → field ctl 32 8 = 0 → field ctl 57 6 = 0 →
       ∀ r bar, Cells.get .empty (s.blockOf c).trecs (s.num v .a) = .valid r → v.coordPoison r.rank = none →
       (takeAt 0 (v.coords r.rank) 0 * recBits r.fmt) % 8 = 0 → s.boxPlace v r ctl = .ok bar →
         (room (.walk r (v.coords r.rank) (field ctl 0 32)) →
           exec (.walk h a b e o) s = .next (s.completed (q.cmdQueuedUp v (.walk r (v.coords r.rank) (field ctl 0 32)) o.rel bar) c h))
         ∧ (r.mxl = false → room (.copyt r (v.coords r.rank) (field ctl 0 32)) →
           exec (.copyt h a b e o) s = .next (s.completed (q.cmdQueuedUp v (.copyt r (v.coords r.rank) (field ctl 0 32)) o.rel bar) c h)))
      ∧ (let sl := [scalarSlot .a a, scalarSlot .b b, scalarSlot .c e]
       let v := s.view c h sl
       let ctl := (s.wide v .c).toNat
       s.clear c h { st := true, parks := true } sl = true → (s.wide v .a).toNat % 16 = 0 → (s.wide v .b).toNat % 16 = 0 →
       field ctl 0 40 % 16 = 0 → field ctl 57 6 = 0 → ∀ bar, ctlBar ctl (s.blockOf c) = .ok bar →
       room (.copy (s.wide v .a) (s.wide v .b) (field ctl 0 40)) →
         exec (.copy h a b e o) s = .next (s.completed (q.cmdQueuedUp v (.copy (s.wide v .a) (s.wide v .b) (field ctl 0 40)) o.rel bar) c h)))

/-! ### Barriers, queues, waits and launches -/

/-- R300 to R305: `tbinit`, `tbexp` and `tbarr` of a barrier that exists update it, `tbarr` after its release; `tbwait` of a
barrier of the group's own block (with bit 27 of its address it is ILLEGAL) whose phase has ended acquires and gives the phase's result
and error; and the run moves on. That a vector D of `tbwait` takes the word in every active lane is the model's choice (assumption 74). -/
def Obligations.TransactionBarriersComplete : Prop :=
  ∀ (s : State) (c : Ctx) (h : Head) (d a b : Operand),
    (let sl := [numSlot .a a, numSlot .b b]
     let v := s.view c h sl
     let n := s.num v .b
     s.clear c h {} sl = true → ∀ blk off, s.barAt v (s.num v .a) = .ok (blk, off) →
       let upd (t : State) (f : Proc → Proc) : Host.Outcome State Fault Refusal :=
         .next (s.completed (((t.engineIssue c).wakeCore blk.unit).onProc blk.unit f) c h)
       let at_ := blk.spBase + off
       (1 ≤ n → n ≤ 65535 → exec (.tbinit h a b) s = upd s (fun p =>
         let q := p.tbUpdate at_ (fun _ =>
           { phase := false, r0 := 0, count := n, parr := n, r1 := 0, err := 0, pbytes := 0, result := 0 })
         { q with spPoison := NatSet.removeAll q.spPoison (wholeGranules at_ 16) }))
       ∧ (n < 2 ^ 31 → exec (.tbexp h a b) s = upd s (fun p =>
         p.tbUpdate at_ (fun x => { x with pbytes := (x.pbytes + n) % 2 ^ 32 })))
       ∧ (n < 2 ^ 31 → s.unperformed c = false →
         exec (.tbarr h a b) s = upd (s.release c (if (s.num v .a).testBit 27 then .clu else .blk)) (fun p =>
           p.tbUpdate at_ (TBar.arrive n))))
    ∧ (let sl := [pairSlot .d d true, numSlot .a a, numSlot .b b]
     let v := s.view c h sl
     s.clear c h {} sl = true →
     ((s.num v .a).testBit 27 = true → exec (.tbwait h d a b) s = .next (s.trap c { cause := 0x02 }))
     ∧ ((s.num v .a).testBit 27 = false → ∀ blk off, s.barAt v (s.num v .a) = .ok (blk, off) →
       let bar := (s.proc blk.unit).tbar (blk.spBase + off)
       bar.phase ≠ (s.num v .b).testBit 0 →
         exec (.tbwait h d a b) s = .next (s.completed (((s.engineIssue c).acquire c .blk).dst c (v.op .d) true
           ((s.acts c h).map (fun l => (l, ⟨w64 (bar.result + bar.err * 2 ^ 32), false⟩)))) c h)))

/-- R258, R335, R336: `bar` and `cbar` release, hold the group at the barrier, mark its arrival, and the barrier is tested. -/
def Obligations.BarrierInstructionsComplete : Prop :=
  ∀ (s : State) (bid k : Nat) (h : Head) (a : Operand),
    let c : Ctx := .grp bid k
    let v := s.view c h [numSlot .a a]
    let n := s.num v .a
    s.unperformed c = false →
    (s.clear c h { coll := true } [numSlot .a a] = true → n < 16 →
      let t := (s.release c .blk).onGroup c (fun x => { x.stalled h with hold := .bar n })
      exec (.bar h a) s = .next ((t.onBlock bid (fun b =>
        let r := Cells.get {} b.bars n
        { b with bars := Cells.set b.bars n { r with mask := NatSet.insert r.mask k } }.barTest n)).issued c h.hints.yld))
    ∧ (s.clear c h { coll := true, noRoot := true } [numSlot .a a] = true → n < 4 →
      let blk := s.blockOf c
      let t := (s.release c .clu).onGroup c (fun x => { x.stalled h with hold := .cbar n })
      exec (.cbar h a) s = .next (((t.onBlock (((lowestRank (t.cluster blk)).map (·.bid)).getD blk.bid) (fun b =>
        let r := Cells.get {} b.bars (cbarKey n)
        { b with bars := Cells.set b.bars (cbarKey n) { r with mask := NatSet.insert r.mask (cbarBit blk k) } })).cbarTest blk n).issued
        c h.hints.yld))

/-- R339 to R345: on a named queue of the block, `qpush` stores its handle at the tail where there is room and allowance,
`qpop` and `qtry` take the head's, and `qgrant` raises an allowance up to the queue's slots; at the stage queues `qpush` of a readable
item in bounds writes it to the output ring where there is room, and `qpop` and `qtry` take the next item of the input ring, holding
it until the group's next pop. QSTAT tells, and the run moves on. -/
def Obligations.QueueInstructionsComplete : Prop :=
  (∀ (s : State) (bid k : Nat) (h : Head) (d a b e : Operand) (q : NamedQueue),
    let c : Ctx := .grp bid k
    let blk := s.blockOf c
    (let sl := [numSlot .a a, handleSource s.selBlock (s.queueNo a) b]
     let v := s.view c h sl
     let n := s.num v .a
     s.clear c h { coll := true, noRoot := true } sl = true → s.queueRef blk n = some (.named q) → q.pushers.length < q.slots →
     takeAt 0 q.inflight k < takeAt 0 q.allow k → s.unperformed c = false →
       let q' := { q with pushers := q.pushers ++ [k], inflight := modifyAt q.inflight k (· + 1) }
       let t := (s.release c .blk).spPut blk (q.base + (q.head + q.pushers.length) % q.slots * q.slotb) (s.handleBytes v q.slotb) false
       exec (.qpush h a b) s = .next (s.completed (((t.setNamed c n q').putQstat v q' 0).onGroup c (fun g => { g with push := none })) c h))
    ∧ (∀ (hold : Bool) (p : Nat) (r : List Nat), q.pushers = p :: r →
      let sl := [handleDest s.selBlock (s.queueNo a) d, numSlot .a a]
      let v := s.view c h sl
      let n := s.num v .a
      s.clear c h { coll := hold, noRoot := true } sl = true → s.queueRef blk n = some (.named q) →
        let q' := { q with head := (q.head + 1) % q.slots, pushers := r, inflight := modifyAt q.inflight p (· - 1) }
        exec (if hold then .qpop h d a else .qtry h d a) s = .next (s.completed
          ((((s.acquire c .blk).setNamed c n q').putQstat v q' 0).dst c (v.op .d) (scalarOp (v.op .d))
            (handleValues (v.op .d) (s.spBytes blk (q.base + q.head * q.slotb) q.slotb) (s.acts c h))) c h))
    ∧ (let sl := [numSlot .a a, numSlot .b b, numSlot .c e]
     let v := s.view c h sl
     let n := s.num v .a
     s.clear c h { noRoot := true } sl = true → s.queueRef blk n = some (.named q) → s.num v .b < blk.groups.length →
     1 ≤ s.num v .c → s.num v .c ≤ 1024 →
       let q' := { q with allow := modifyAt q.allow (s.num v .b) (fun x => min (x + s.num v .c) q.slots) }
       exec (.qgrant h a b e) s = .next (s.completed (((s.setNamed c n q').putQstat v q' 0).retryPush blk.bid (s.num v .b)) c h)))
  ∧ (∀ (s : State) (bid k : Nat) (h : Head) (d a b : Operand) (stage : Nat) (r : StageRec),
    let c : Ctx := .grp bid k
    let blk := s.blockOf c
    (let sl := [numSlot .a a, handleSource s.selBlock (s.queueNo a) b]
     let v := s.view c h sl
     let at_ := (s.src c (s.grp c) (v.op .b) false none v.low).v.toNat
     s.clear c h { coll := true, noRoot := true } sl = true → s.queueRef blk (s.num v .a) = some (.output stage r) →
     at_ % 16 = 0 → ∀ x off, s.spTarget blk at_ r.itemb = some (x, off) → r.counted < r.qcap → s.unperformed c = false →
       let bs := ((s.proc x.unit).spRead (x.spBase + off) r.itemb).zipIdx.map (fun y => (y.1, (s.proc x.unit).spBad (x.spBase + off + y.2) 1))
       ∀ t n, (s.release c .dev).engWrites c 1 bs (pieces128 (r.item r.pushed) r.itemb) = (t, n, none) →
         exec (.qpush h a b) s = .next (s.completed ((t.onLaunch blk.lid (fun l => { l with stages := modifyAt l.stages stage (fun r =>
           { r with pushed := r.pushed + 1, counted := r.counted + 1 }) })).putStageQstat c (r.counted + 1) 0) c h))
    ∧ (∀ hold : Bool, r.popped ≠ r.pushed →
      let sl := [handleDest s.selBlock (s.queueNo a) d, numSlot .a a]
      let v := s.view c h sl
      s.clear c h { coll := hold, noRoot := true } sl = true → s.queueRef blk (s.num v .a) = some (.input stage r) →
        let t := s.releaseItem bid k
        let n := ((t.launch? blk.lid).bind (fun l => (l.stages[stage]?).map (fun q => q.counted))).getD 0
        let u := t.onLaunch blk.lid (fun l => { l with stages := modifyAt l.stages stage (fun q => { q with popped := q.popped + 1 }) })
        exec (if hold then .qpop h d a else .qtry h d a) s = .next (s.completed
          ((((u.acquire c .dev).onGroup c (fun g => { g with item := true })).putStageQstat c n 0).dst c (v.op .d) true
            ((s.acts c h).map (fun l => (l, ⟨r.item r.popped, false⟩)))) c h)))

/-- R270: the bits of element `k` of row or column `x` of a mapped operand lie, one after another, in row `r` of its storage from bit `o`
on: with KMAJ = 1, `r` is `x` and `o` is `k` elements; with KMAJ = 0, `r` is `k` and `o` is `x` elements. Each byte of the row is found at
its own offset, in which SWZ = 1 replaces bits [6:4] by their XOR with `r` mod 8; and with MX = 1 the scale of `x` for chunk `c` is the
byte at 16 SCALE + 16 `x` + `c`. -/
def Obligations.OperandElementsLieInPlace : Prop :=
  (∀ r o : Nat, swizzle false r o = o
    ∧ ∀ j, (swizzle true r o).testBit j = (o.testBit j != (decide (4 ≤ j ∧ j < 7) && (r % 8).testBit (j - 4))))
  ∧ (∀ (rd : Nat → Byte) (f : MxFmt) (d : W64) (x k c : Nat),
    let b := mxBits f
    let at_ (r o : Nat) : Nat := 16 * field d.toNat 0 17 + r * (16 * field d.toNat 17 17) + swizzle (d.getLsbD 56) r o
    let bitsFrom (r o : Nat) : Prop :=
      (∀ j < b, ((MxOperand.map d).bits rd f x k).testBit j = (rd (at_ r ((o + j) / 8))).getLsbD ((o + j) % 8))
        ∧ (MxOperand.map d).bits rd f x k < 2 ^ b
    (d.getLsbD 57 = true → bitsFrom x (b * k))
    ∧ (d.getLsbD 57 = false → bitsFrom k (b * x))
    ∧ (d.getLsbD 61 = true → mxNarrow f = true →
      (MxOperand.map d).scale rd f x c = some (rd (16 * field d.toNat 34 17 + 16 * x + c)).toNat))

/-- R346 to R350, R355, R357: `hold` of an aligned watchable address waits for its arming; `hcancel` ends the watch of the group
it names, or says that there is none; `parr` counts at a destination of its launch; `pdrain` passes an ended phase. -/
def Obligations.WatchAndPhaseInstructionsComplete : Prop :=
  (∀ (s : State) (c : Ctx) (h : Head) (cc : Cmp) (wide sys : Bool) (a b e : Operand),
    let sl := [pairSlot .a a false, { pos := .b, op := b, wide, okP := false, okSp := false, consumed := true, low := true },
      { pos := .c, op := e, wide := true, okV := false, okP := false, okSp := false, consumed := true }]
    s.clear c h { noRoot := true, parks := true } sl = true →
      let v := s.view c h sl
      let va := s.wide v .a
      misaligned (if wide then 8 else 4) [(v.low, va)] = none → ∀ s1 l y sp,
      s.translateLanes c .watch [(v.low, va)] = (s1, [⟨l, va, .ok (y, sp)⟩]) → s1.holdTrap sys va [⟨l, va, .ok (y, sp)⟩] = none →
        let w : WatchReq :=
          { pa := y.pa, key := leafKey y.leaf, wide, cc, v := (s.src c (s.grp c) (v.op .b) wide none v.low).v
            deadline := s.wide v .c, sys, lid := (s1.xctx c).lid, va, glob := leafGlobal y.leaf
            level := s1.leafLevel (s1.xctx c) 1 va }
        exec (.hold h cc wide sys a b e) s =
          .next ((((s1.migTouch y).orders c).onGroup c (fun g => { g.stalled h with hold := .arming w false })).issued c h.hints.yld))
  ∧ (∀ (s : State) (c : Ctx) (h : Head) (a : Operand),
    let v := s.view c h [numSlot .a a]
    s.clear c h { noRoot := true, parks := true } [numSlot .a a] = true → ∀ t, s.cancelTarget v (s.num v .a) = some t →
    s.isArming t = false →
      exec (.hcancel h a) s = .next (s.completed (match s.watches.find? (fun w => ownerCtx w.bid w.g = t) with
        | some w => (s.endWatch w 4 0).onGroup c (fun g => { g with hstat := hstatOf 4 w.everSpilled 0 })
        | none => s.onGroup c (fun g => { g with hstat := hstatOf 9 false 0 })) c h))
  ∧ (∀ (s : State) (c : Ctx) (h : Head) (a b : Operand),
    let sl := [numSlot .a a, numSlot .b b]
    let v := s.view c h sl
    let lid := (s.blockOf c).lid
    s.clear c h { parks := true } sl = true → 1 ≤ s.num v .b → s.num v .b < 2 ^ 31 →
    (s.launch? lid).any (fun l => l.r.phaseva != 0 && l.dests.any (fun d => d.1 = s.num v .a)) = true → s.unperformed c = false →
      exec (.parr h a b) s = .next (s.completed ((s.release c .dev).onLaunch lid (fun l =>
        { l with dests := l.dests.map (fun d =>
          if d.1 = s.num v .a then (d.1, d.2.1, max (d.2.2 - s.num v .b) (-(2 ^ 31 : Nat))) else d) })) c h))
  ∧ (∀ (s : State) (c : Ctx) (h : Head) (l : Launch), s.clear c h { parks := true } [] = true →
    s.launch? (s.blockOf c).lid = some l → l.r.phaseva ≠ 0 → (s.grp c).drain.toNat < l.phase →
      exec (.pdrain h) s = .next (s.completed ((s.acquire c .dev).onGroup c (fun g => { g with drain := g.drain + 1 })) c h))

/-- R45, R57, R359 to R363: `launch` of an aligned, readable record with a free place queues it with its FIFO; `range` hands out
the launch's next chunk; `ltrig` marks the group and tests its launch's trigger; `lwait` waits for its producers, and with none
waiting acquires and moves on. -/
def Obligations.LaunchInstructionsComplete : Prop :=
  (∀ (s : State) (c : Ctx) (h : Head) (d a : Operand),
    let sl := [{ pos := .d, op := d, wide := true, okP := false, okSp := false, dst := true }, scalarSlot .a a]
    let v := s.view c h sl
    let va := s.wide v .a
    s.clear c h { noRoot := true, parks := true, ld := true } sl = true → va.toNat % 128 = 0 → ∀ t bs l,
    s.recordBytes c va = (t, some bs) → t.ctxLaunch? c = some l →
    let level := min 3 (recordOf (leNat bs)).prio
    (takeAt [] t.arb.fifos level).length < 256 →
      let es : List PendElem := match v.op .d with
        | .k _ => []
        | .s n => [{ dst := .sreg n.toNat, v := 0, tag := false }]
        | _ => (s.acts c h).map (fun l => { dst := v.loadDest true l 0, v := 0, tag := false })
      let f : FifoRec :=
        { bytes := bs, bid := (cmdOwner c).1, g := (cmdOwner c).2, pend := (s.grp c).nextId, ptroot := l.ptroot, prio := l.r.prio
          part := l.r.part, keyslot := l.r.keyslot, vector := l.vector }
      let u := t.counted c true es 1
      exec (.launch h d a) s = .next (s.completed
        { u with arb := { u.arb with fifos := modifyAt u.arb.fifos level (fun q => q ++ [f]) } } c h))
  ∧ (∀ (s : State) (c : Ctx) (h : Head) (d : Operand),
    let v := s.view c h (rangeSlots d)
    s.clear c h { noRoot := true, parks := true, ld := true } (rangeSlots d) = true →
      let lid := (s.blockOf c).lid
      let x := ((s.launch? lid).map Launch.chunk).getD (0, 0)
      let es : List PendElem := match v.op .d with
        | .s n => [{ dst := .sreg n.toNat, v := w64 x.1, tag := false },
          { dst := .sreg (n.toNat + 1), v := w64 x.2, tag := false }]
        | .v n => (s.acts c h).flatMap (fun l =>
          [{ dst := .vpair ((s.grp c).slotOf ((s.grp c).lane l).depth n.toNat) l, v := w64 x.1, tag := false },
           { dst := .vpair ((s.grp c).slotOf ((s.grp c).lane l).depth (n.toNat + 2)) l, v := w64 x.2, tag := false }])
        | _ => []
      exec (.range h d) s = .next (s.completed ((s.onLaunch lid (fun l => { l with rem := l.rem - x.2 })).counted c true es 0) c h))
  ∧ (∀ (s : State) (bid k : Nat) (h : Head), s.clear (.grp bid k) h { parks := true } [] = true →
    let c : Ctx := .grp bid k
    (s.onRoot c = false → (s.grp c).ltrig = false → s.unperformed c = false →
      exec (.ltrig h) s = .next (s.completed (((s.release c .dev).onGroup c (fun g => { g with ltrig := true })).testTrig bid) c h))
    ∧ (let ps := ((s.launch? (s.blockOf c).lid).map (fun l => l.prods)).getD []
      (ps.any (· = .waiting) = false →
        exec (.lwait h) s = .next (s.completed ((s.acquire c .dev).onGroup c (fun g => { g with hstat := prodStat ps })) c h))
      ∧ (ps.any (· = .waiting) = true →
        exec (.lwait h) s = .next ((s.onGroup c (fun g => { g.stalled h with hold := .lwait })).issued c h.hints.yld))))

/-! ### Tasks and root cores -/

/-- R371, R389 to R394: in a task's group `tspawn` of a legal record makes a queued record of the next key and gives its id,
`tend` finishes the task once its counts are 0, `tnspec` passes once the task is non-speculative, `tabort` aborts a speculative
one, and `tyield` gives its group up to an earlier ready record where none is free. -/
def Obligations.TaskInstructionsComplete : Prop :=
  ∀ (s : State) (c : Ctx) (h : Head) (l : Launch) (p : TaskRec), s.currentTask c = some (l, p) →
    (∀ d a : Operand,
      let sl := [{ pos := .d, op := d, okP := false, okSp := false, dst := true }, { spadSlot a with low := true }]
      let v := s.view c h sl
      let at_ := s.num v .a
      let b := s.blockOf c
      s.clear c h taskRow sl = true → at_ % 64 = 0 → at_.testBit 27 = false → ∀ x off t, s.spTarget b at_ 64 = some (x, off) →
      s.behindGranule c 64 [(v.low, b.unit, b.spBase + off)] = false → s.spawnTrap b l p at_ off = none →
      s.enterRecord l (clusterOf b.unit) (taskOf (leNat (s.spBytes b off 64)) l.nextSeq (p.n + 1)) = some t →
        exec (.tspawn h d a) s = .next (s.completed (((t.orders c).onGroup c (fun g => { g with spawnWait := false })).dst c (v.op .d) false
          ((s.acts c h).map (fun x => (x, ⟨w64 (taskIdOf l.nextSeq), false⟩)))) c h))
    ∧ (s.clear c h taskRow [] = true →
      (∀ bid k, c = .grp bid k → (s.grp c).ldcnt = 0 → (s.grp c).stcnt = 0 →
        exec (.tend h) s = .next ((s.finishTask bid k).jumped c h))
      ∧ (p.ns = true → exec (.tnspec h) s = .next (s.completed (s.acquire c .dev) c h))
      ∧ (p.ns = false → exec (.tabort h) s = .next (((abortTasks s l.lid [p.n] 0x045).onLaunch l.lid (fun l =>
        l.onTask p.n (fun t => { t with unready := true }))).jumped c h))
      ∧ (let yields := !p.ns && (s.freeGroups l.lid).isEmpty && l.tasks.any (fun u => l.ready u && earlier u p)
        exec (.tyield h) s = .next (if yields then (abortTasks s l.lid [p.n] 0x045).jumped c h else s.completed s c h)))

/-- R257, R311 to R313: `rcall` of a legal message, a barrier that exists and ranges of one stack issues a call, counted in STCNT,
after its acquire. -/
def Obligations.RootCallsComplete : Prop :=
  ∀ (s : State) (c : Ctx) (h : Head) (a b e : Operand) (m : OrdMod),
    let sl := [numSlot .a a, numSlot .b b, scalarSlot .c e]
    let v := s.view c h sl
    let blk := s.blockOf c
    let entry := (s.wide v .c).toNat
    s.clear c h { noRoot := true, st := true, parks := true, feat := 0x100 } sl = true →
    ∀ mb off bb boff l t ps st, s.messageAt blk (s.num v .a) = .ok (mb, off) → s.barAt v (s.num v .b) = .ok (bb, boff) →
    (s.proc mb.unit).spBadAt (mb.spBase + off) 256 = none → s.ctxLaunch? c = some l →
    let msg := s.spBytes mb off 256
    messageOk (leNat msg) = true → l.img.entryOk entry = true → s.translateParts c (messageParts (leNat msg)) = (t, .ok ps) →
    ps.head?.bind (fun p => p.stack) = some st → (∀ p ∈ ps, p.stack = some st) →
      t.mayAcquire c m.acq = true →
      let u := (t.acquired c m.acq).counted c false [] 1
      exec (.rcall h a b e m) s = .next (s.completed { u with
        nextCall := u.nextCall + 1
        calls := u.calls ++ [
          { id := u.nextCall, lid := l.lid, caller := (cmdOwner c).1, g := (cmdOwner c).2, pend := (s.grp c).nextId
            owner := (ps.head?.bind (fun p => u.ownerOf p.pa)).getD 0, msg, entry, barBid := bb.bid, barOff := boff, rel := m.rel
            pages := ps.map (fun p => (p.va, p.level, p.glob))
            rlines := partLines (ps.filter (fun p => !p.wr)), wlines := partLines (ps.filter (fun p => p.wr))
            index := blk.index, coords := blk.blk ++ blk.clu, stage := blk.stage, part := u.partOf c }] } c h)

/-- R318, R322 to R325, R328, R333: on a root core `rret` gives its block's result and its lanes exit; a `bnk` command that no
reason of Table 16-5 rejects joins the BAU's queue, where there is room; `land.open` of a legal descriptor opens a landing, and
`land.close` of a settled one writes its status and closes it. -/
def Obligations.RootCoreInstructionsComplete : Prop :=
  (∀ (s : State) (bid k : Nat) (h : Head) (a : Operand),
    let c : Ctx := .grp bid k
    let sl := [{ pos := .a, op := a, okP := false, okSp := false, consumed := true, low := true : Slot }]
    let v := s.view c h sl
    s.clear c h { rootOnly := true, feat := 0x100 } sl = true →
      let r : BitVec 32 := (s.src c (s.grp c) (v.op .a) false none v.low).v.setWidth 32
      let t := (s.onBlock bid (fun b => { b with result := some (b.result.getD r) })).onGroup c (fun g => g.leave (s.acts c h) v.others)
      exec (.rret h a) s =
        .next ((if ((s.grp c).leave (s.acts c h) v.others).alive then t else t.groupEnded bid k).jumped c h))
  ∧ (∀ (s : State) (c : Ctx) (h : Head) (ty : Ty) (a b e : Operand),
    let does (op : Nat) (i : Instr) : Prop :=
      let sl := [scalarSlot .a a, bnkSlotB op b, scalarSlot .c e]
      let v := s.view c h sl
      let ctl := (s.wide v .c).toNat
      let bytes := max 1 (field ctl 0 24 * bnkWidth ty)
      s.clear c h { rootOnly := true, feat := 0x100, st := true } sl = true → ∀ s1 s2 la lb,
      s.bnkPages c (if bnkWrites op then .write else .read) (pageRuns (s.wide v .a) bytes) = (s1, some la) →
      (if bnkTwo op then s1.bnkPages c .read (pageRuns (s.wide v .b) bytes) else (s1, some [])) = (s2, some lb) →
      let vs : List BnkVec := ⟨s.wide v .a, la⟩ :: (if bnkTwo op then [⟨s.wide v .b, lb⟩] else [])
      (bnkPeer (pageRuns (s.wide v .a) bytes) la).orElse (fun _ => bnkPeer (pageRuns (s.wide v .b) bytes) lb) = none →
      s2.bnkReason c op ty ctl vs = 0 → (s2.proc (s.ctxUnit c)).bnk.length < 16 →
        exec i s = .next (s.completed ((s2.counted c false [] 1).onProc (s.ctxUnit c) (fun p => { p with bnk := p.bnk ++ [
          { bid := (cmdOwner c).1, g := (cmdOwner c).2, pend := (s.grp c).nextId, op, ty, apa := takeAt 0 (vs.map BnkVec.pa) 0
            bpa := takeAt 0 (vs.map BnkVec.pa) 1
            pages := s2.pagesUsed c (pageRuns (s.wide v .a) bytes) la ++ s2.pagesUsed c (pageRuns (s.wide v .b) bytes) lb
            n := field ctl 0 24, val := BitVec.ofNat 32 (field ctl 32 32) }] })) c h)
    does 0 (.bnkDot h ty a b e) ∧ does 1 (.bnkAxpy h ty a b e) ∧ does 2 (.bnkScale h ty a b e) ∧ does 3 (.bnkFill h ty a b e)
      ∧ does 4 (.bnkCopy h ty a b e) ∧ does 5 (.bnkRed h ty a b e))
  ∧ (∀ (s : State) (c : Ctx) (h : Head) (a b : Operand),
    let sl := [scalarSlot .a a, numSlot .b b]
    let v := s.view c h sl
    let st := stackOf (s.ctxUnit c)
    s.clear c h { rootOnly := true, feat := 0x10 } sl = true → (s.wide v .a).toNat % 64 = 0 → s.num v .b < 16 → ∀ s1 x s2 bs s3 ps,
    s.translate (s.xctx c) 1 .write (s.wide v .a) = (s1, .ok x) → s1.stackAt c x = some st →
    s1.readDram (leafKey x.leaf) x.pa 64 1 = (s2, some bs) →
    let n := leNat bs
    descOk n = true → s2.landPages c (pageRuns (w64 (at8 n 0 8)) (at8 n 8 8)) = (s3, .ok ps) →
    (∀ p ∈ ps, s3.perStackOf p.1.pa = some st ∧ s3.stackAt c p.1 = some st ∧ leafKey p.1.leaf = 0) →
    let lines := ps.flatMap (fun p => (List.range (p.2 / 128)).map (fun i => p.1.pa / 128 + i))
    s3.landing? st (s.num v .b) = none → (∀ l ∈ s3.lands, l.stack = st → ∀ x ∈ l.lines, x.line ∉ lines) →
      let t := lines.foldl State.evictL2 s3
      exec (.landOpen h a b) s = .next (s.completed { t with lands := t.lands ++ [
        { stack := st, id := s.num v .b, lid := (s.blockOf c).lid, desc := x.pa, descKey := leafKey x.leaf
          x64 := at8 n 0x10 1 = 1, srcs := at8 n 0x11 1, lines := lines.map (fun k => { line := k }) }] } c h))
  ∧ (∀ (s : State) (c : Ctx) (h : Head) (a : Operand),
    let v := s.view c h [numSlot .a a]
    let st := stackOf (s.ctxUnit c)
    s.clear c h { rootOnly := true, feat := 0x10 } [numSlot .a a] = true → ∀ l, s.landing? st (s.num v .a) = some l → l.settled = true →
      let t := ((l.lines.map (fun x => x.line)).foldl State.evictL2 s).dramWriteBytes l.descKey (l.desc + 0x18) (leBytes l.status.toNat 8)
      exec (.landClose h a) s =
        .next (s.completed { t with lands := t.lands.filter (fun x => !(x.stack = st && x.id = s.num v .a)) } c h))

/-! ### What the package does by itself or on its host's demand -/

/-- R443 to R446: a module reset sets boot to its first step, and each step that passes moves STATE on to the next, up to READY;
`BOOTCMD` with GO in RECOVERY goes on at step 3 with the staged image, with the staged record where CFG asks for it; an
attestation request in a reachable block has its report written and its status set, with a session key where it names a key share;
and a key command leaves its status, and loads or clears its slot where that is 0. The model's choices in it are TIME = 0 after a module
reset (assumption 11), the FLASH image replaced at `BOOTCMD` itself, after the version compare (assumption 49), that the platform block
answers in STATE 1 to 5 too (assumptions 92 and 101), ERR = 0 at READY (assumption 101), and the loss of device memory, with the keys it
was written under, at a module reset (`keyOf`, assumption 52). -/
def Obligations.BootAttestationAndKeysComplete : Prop :=
  (∀ s : State, ∃ t, exec .moduleReset s = .next t ∧ t.plat.state = 1 ∧ t.launches = [] ∧ t.blocks = []
    ∧ t.l2 = [] ∧ t.keyOf = [] ∧ t.dead = [] ∧ t.plat.keys = [] ∧ t.time = 0)
  ∧ (∀ s : State,
    (s.plat.state = 1 → s.bootStep.plat.state = if Config.bootStepPasses 1 s.plat.attempts then 2 else 15)
    ∧ (s.plat.state = 2 → s.plat.flashCfg.signed = true → s.plat.flashCfg.diesOk = true →
      s.bootStep.plat.state = 3 ∧ s.bootStep.plat.booting = s.plat.flashFw)
    ∧ (s.plat.state = 3 → s.plat.booting.signed = true → s.plat.flashCfg.minfw.toNat ≤ s.plat.booting.version.toNat →
      s.bootStep.plat.state = 4 ∧ s.bootStep.plat.fwver = s.plat.booting.version)
    ∧ (s.plat.state = 4 → s.bootStep.cfg = s.plat.flashCfg)
    ∧ (s.plat.state = 5 → Config.bootStepPasses 5 s.plat.attempts = true → s.bootStep.plat.state = 6 ∧ s.bootStep.plat.err = 0))
  ∧ (∀ (s : State) (v : W64), s.plat.state = 15 → v.getLsbD 63 = true →
      let s1 := { s with plat := { s.plat with attempts := s.plat.attempts + 1 } }
      ∀ s2, s1.takeRecord (v.getLsbD 61) = some s2 →
        let fw := imageFrom (Cells.slice s2.plat.staging 0 (63 * 2 ^ 20))
        let keep : Bool := v.getLsbD 62 && (fw.signed && decide (s2.plat.flashCfg.minfw.toNat ≤ fw.version.toNat))
        let s3 := if keep then { s2 with plat := { s2.plat with flashFw := fw } } else s2
        exec (.bootcmdGo v) s = .next { s3 with plat := { s3.plat with state := 3, booting := fw } })
  ∧ (∀ (s : State) (hpa : W64), s.platformThere = true → s.hostThere hpa.toNat = true →
      let r := s.hostRead hpa.toNat 64
      let share := leNat ((r.2.drop 0x28).take 8)
      let n := r.1.plat.attempts + 1
      let reports (t : State) (k : Option (Nat × List Byte)) : Prop :=
        exec (.attestationRequest hpa) s = .next ((t.hostWrite (leNat ((r.2.drop 0x20).take 8))
          (signedReport n (t.reportBody (r.2.take 32) k))).hostWrite (hpa.toNat + 0x3F) [1])
      (share = 0 → reports { r.1 with plat := { r.1.plat with attempts := n } } none)
      ∧ (share ≠ 0 →
        let q := r.1.hostRead share 1216
        reports { q.1 with plat := { q.1.plat with session := some (sessionKey n (r.2.take 32) q.2), attempts := n } } (some (n, q.2))))
  ∧ (∀ (s : State) (hpa : W64), s.platformThere = true → s.hostThere hpa.toNat = true →
      let r := s.hostRead hpa.toNat 128
      let k := r.1.keyStatus r.2
      let t := if k.1 = 0 then r.1.setKey (at8 (leNat r.2) 0 2) k.2 else r.1
      let done : Host.Outcome State Fault Refusal := .next { t with plat := { t.plat with keystat := k.1 } }
      (at8 (leNat r.2) 2 1 = 1 → exec (.keyLoad hpa) s = done) ∧ (at8 (leNat r.2) 2 1 = 2 → exec (.keyClear hpa) s = done))

/-- R7, R20, R21, R39, R40, R50, R327, R426 to R430, R440, R454: each register write of the host or the supervisor has its effect
where its block answers. That the platform block takes a rate while STATE is 1 to 5 is the model's choice (assumptions 92 and 101). -/
def Obligations.RegisterWritesComplete : Prop :=
  ∀ (s : State) (v : W64),
    exec (.memcntWrite v) s = .next (s.memcntStore v)
    ∧ (∀ r i, r < Config.rootCores → i < 64 →
        exec (.berrWrite r i v) s = .next (s.controlStore (0x8000 + r) (0x1000 + 8 * i) v))
    ∧ (∀ adr, exec (.registerWrite true adr v) s = .next (s.bar0 adr v)
        ∧ exec (.registerWrite false adr v) s = .next (s.deviceRegister adr v))
    ∧ (s.plat.state ≠ 0 → ∀ i, i < 4 → rateOk i v.toNat = true →
        exec (.rateWrite i v) s = .next { s with plat := { s.plat with rates := modifyAt s.plat.rates i (fun _ => v.toNat) } })
    ∧ (s.plat.state = 6 →
      (∀ q, q < 64 → exec (.qctlWrite q v) s = .next (s.queueStore (64 * q + 0x10) v)
        ∧ exec (.qpiDoorbell q v) s = .next (s.queueStore (64 * q + 0x18) v))
      ∧ (∀ p off, p < 16 → off ≤ 0x38 → off % 8 = 0 → exec (.partitionWrite p off v) s = .next (s.partStore p off v))
      ∧ exec (.hbeat v) s = .next { s with host := { s.host with hbeat := v, hbeatAt := s.now } }
      ∧ (s.host.fcen = false → 4 ≤ field v.toNat 8 4 → field v.toNat 8 4 ≤ 12 → exec (.fcctlWrite v) s =
          .next { s with host := { s.host with fcen := v.getLsbD 0, fclogn := field v.toNat 8 4 } })
      ∧ ((s.host.cancelling.bind s.launch?).isSome = false → (s.launch? (field v.toNat 0 32)).isSome = true →
          let t := (s.killLaunch (field v.toNat 0 32) 0xFE).trimHeld
          exec (.lcancel v) s = .next { t with host := { t.host with cancelling := some (field v.toNat 0 32), lcstat := 0 } })
      ∧ (∀ c, (s.host.asked.find? (fun x => x.1 = v.setWidth 32)) = some (v.setWidth 32, c) → ∀ a, field v.toNat 32 2 = a →
          (a = 1 ∨ a = 2) → exec (.fresp v) s = .next ((({ s with host := { s.host with
            asked := s.host.asked.filter (fun y => y.1 != v.setWidth 32) } } : State)).answerFault c (a = 1)))
      ∧ (s.host.svreq = none →
          let op := s.requestOp (v &&& 0x000FFFFFFFFFFFC0).toNat
          (op = 1 → exec (.svreqSave v) s = .next (s.svreqWrite v)) ∧ (op = 2 → exec (.svreqReady v) s = .next (s.svreqWrite v))
            ∧ (op = 3 → exec (.svreqDiscard v) s = .next (s.svreqWrite v))))

/-- R428, R433, R434, R436: a host access to memory that it reaches, and a peer's access that ULIMP admits, is performed and
answered; a snoop answers and moves its half, the copies on other dies gone before; and the oldest waiting fault record is written to
its ring. That after SnpInv of a half under an armed watch the bridge reads it again in a step of its own is the model's choice
(assumption 99). -/
def Obligations.HostAndPeerAccessesComplete : Prop :=
  (∀ (s : State) (a : HostAccess), s.plat.state = 6 → s.dead.contains .host = false → (accessSpan a).2 ≠ 0 →
    s.hostReaches (accessSpan a).1 (accessSpan a).2 = true → strayAtomic a = false →
      exec (.hostMemoryAccess a) s = .next (if s.port = .cxl && !accessWrites a
        then (s.outerAccess a).hostShares (accessSpan a).1 (accessSpan a).2 else s.outerAccess a))
  ∧ (∀ (s : State) (r : PeerRequest), s.plat.state = 6 → s.dead.contains (.peer r.src) = false →
    let pa := (accessSpan r.acc).1
    let n := (accessSpan r.acc).2
    n ≠ 0 → s.admitsPeers pa = true → s.admitsPeers (pa + n - 1) = true → s.allMemory pa n = true →
      exec (.ualinkIncomingRequest r) s = .next (s.outerAccess r.acc))
  ∧ (∀ (s : State) (half : Nat) (x : HostLine) (data : Option (BitVec 512)), isHostWin (64 * half) = true → s.port = .cxl →
    s.dead.contains .host = false → Cells.find s.hostLines (half / 2) = some x → x.state (half % 2) ≠ .i →
      let t := s.snoopReturns half (x.state (half % 2))
      let left (st : HalfSt) : State := t.setHostLine (half / 2) (x.snoop (half % 2) st (s.rawLine (half / 2)))
      exec (.hostSnoop .cur half data) s = .next ((s.respond t.host.response).soleHost (half / 2))
      ∧ exec (.hostSnoop .data half data) s = .next (left .s)
      ∧ exec (.hostSnoop .inv half data) s = .next (((left .i).hostOwns half data).needsReread half))
  ∧ (∀ (s : State) (r : FaultRec) (rest : List FaultRec), s.host.waiting = r :: rest → s.host.fcen = true →
    (s.host.fcpi - s.host.fcci).toNat ≠ 2 ^ s.host.fclogn →
    let at_ := s.host.fcbase.toNat + 32 * (s.host.fcpi.toNat % 2 ^ s.host.fclogn)
    s.hostThere at_ = true →
      let t := s.hostWrite at_ (r.bytes s.host.seq)
      exec .faultRecordWrite s = .next (({ t with host := { t.host with
        waiting := rest
        asked := match r.ctx with | some c => t.host.asked ++ [(s.host.seq, c)] | none => t.host.asked
        seq := s.host.seq + 1, fcpi := s.host.fcpi + 1 } } : State).msi 64))

/-- R89 to R94, R195, R202, R214, R262, R397, R407, R410, R436: the steps of the caches, the fill and scrub engines, the counts of
outstanding operations, the granules, STALL and pending traps. -/
def Obligations.MemorySideStepsComplete : Prop :=
  ∀ s : State,
    (∀ u line, exec (.l1Writeback u line) s = .next (s.l1WriteBack u line))
    ∧ (∀ line l, isHostWin (128 * line) = false → Cells.find s.l2 line = some l → l.st ≠ .lk →
        s.dieAlive (s.homeDie (128 * line)) = true → exec (.l2Eviction line) s = .next (s.evictL2 line))
    ∧ (∀ line, isHostWin (128 * line) = true → s.watches.any (fun w => w.w.pa / 128 = line) = false → exec (.l2Eviction line) s = .next (s.evictHost line))
    ∧ (∀ die m i s1, s.paced 0 die 128 = some s1 → s.migs.find? (fun m => m.die = die) = some m →
        s.dieAlive die = true → (List.range (m.size / 128)).find? (fun i => !m.filled.contains i) = some i →
          exec (.migrationFill die) s = .next (s1.firstTouch (m.newPa / 128 + i) false))
    ∧ (∀ c k p, (s.grp c).pend[k]? = some p → p.blocked = 0 →
        (p.load = true → exec (.loadComplete c k) s = .next (s.completeOp c p))
        ∧ (p.load = false → exec (.storePerformed c k) s = .next (s.completeOp c p)))
    ∧ (∀ c, exec (.stallExpiry c) s = .next (s.onGroup c (fun g => { g with stall := 0 })))
    ∧ (∀ u gran a rest, nextGran (s.proc u) gran [] (s.proc u).grans = some (a, rest) →
        exec (.granuleAccessPerform u gran) s = .next (State.settleGranUpTo u gran ((s.proc u).grans.length - 1)
          ((s.onProc u (fun p => { p with grans := rest })).performGran u a)))
    ∧ (∀ u gran, nextGran (s.proc u) gran [] (s.proc u).grans = none → exec (.granuleAccessPerform u gran) s = .next s)
    ∧ (∀ c, (s.group? c).isSome = true →
        ((s.grp c).hold = .svWait → exec (.trapDelivery c) s = .next (s.deliverTrap c))
        ∧ (∀ a, (s.grp c).hold ≠ .svWait → s.canIssue c (s.grp c) = true → (s.grp c).dueAsync = some a →
          exec (.trapDelivery c) s = .next ((s.settleHold c (s.grp c)).takeAsync c a)))
    ∧ (∀ stack l s1, s.paced 1 stack 128 = some s1 → s.scrubLine stack = some l →
        ∃ t, exec (.patrolScrub stack) s = .next t ∧ t.reported = NatSet.insert s.reported l
          ∧ (Cells.find s.l2 l = none → t.poison = NatSet.insert s.poison l))
    ∧ (∀ u sc va, exec (.peerWriteRefusal (.sup u sc) va) s = .next (s.haltCore u))
    ∧ (∀ bid g va, exec (.peerWriteRefusal (.grp bid g) va) s = .next (s.trapAsync bid g { cause := 0x0A, addr := va }))

/-- R27, R43 to R48, R55, R59, R411 to R413, R424, R425: one decision each of the arbiter, the scheduler and the stage sampler,
a pre-emption and a restore that the scheduler wants, and the end of a block and of a launch whose work is done. -/
def Obligations.SchedulingStepsComplete : Prop :=
  ∀ s : State,
    (∀ level src, s.launches.length < 1024 → (List.range 4).find? (fun l => !(s.candidates l).isEmpty) = some level →
      (((s.candidates level).find? (fun i => takeAt 16 s.arb.last level < i)).orElse (fun _ => (s.candidates level).head?)) = some src →
        let t := { s with arb := { s.arb with last := modifyAt s.arb.last level (fun _ => src) } }
        exec .arbiterDecision s = .next (if src = 16 then t.takeFifo level else t.takeQueue (16 * level + src)))
    ∧ (let t := ((sortBy (fun l => l.order) s.launches).map (·.lid)).foldl State.giveUnits s
       exec .placementDecision s = .next (State.serve (t.launchOrder.flatMap (fun l =>
         (List.range l.stageCount).map (fun st => (l.lid, st)))) t))
    ∧ (∀ lid st cidx l stg n t, l ∈ s.launchOrder → stg < l.stageCount → s.nextUp l stg = some n →
        (s.victimsFor l n).find? (fun v => (s.saveCluster v.1 v.2.1 v.2.2 false).isSome) = some (lid, st, cidx) →
        s.coresFor s.blocks l stg (s.blocksFor l stg n) = none → (s.preemptFor l stg n).2 = true →
        s.saveCluster lid st cidx false = some t → exec (.preemptCluster lid st cidx) s = .next t.trimHeld)
    ∧ (∀ lid stg cidx l t, s.launch? lid = some l → s.nextUp l stg = some (.restore cidx) →
        s.outranked lid stg = false →
        let u := s.examine l stg cidx
        (u.countFrag lid stg cidx (u.imagesOf lid stg cidx).length).restoreCluster l stg cidx = some t →
          exec (.contextRestore lid stg cidx) s = .next (t.fed l.lid stg))
    ∧ (∀ lid l stg at_, s.launch? lid = some l → Cells.find l.waits stg = some at_ → at_ + 100000 ≤ s.now →
        ∃ u, exec (.starvationTimeout lid) s = .next u ∧ (u.launch? lid).map (fun l => l.starved.contains stg) = some true)
    ∧ (s.now % 4000 = 0 → s.sampledAt ≠ s.now →
        exec .stageSample s = .next (((s.launches.filter (fun l => !l.stages.isEmpty)).map (·.lid)).foldl State.sampleLaunch
          { s with sampledAt := s.now }))
    ∧ (∀ bid b, s.block? bid = some b → isRoot b.unit = false → s.exitReady b = true →
        exec (.blockExitComplete bid) s = .next (s.exitBlock b))
    ∧ (∀ lid l, s.launch? lid = some l → s.launchOver l = true → exec (.launchRetire lid) s = .next (s.retire lid))

/-- R263 to R268, R277, R278, R283, R284, R303: the matrix engine starts and completes its entries and tests an idle sub-array,
and the other engines perform, complete and fail their commands. Whole engine steps in one step of the machine (assumption 43) and the
write flag of a fault at an address that a copy both reads and writes (assumption 50) are the model's choices. -/
def Obligations.EngineStepsComplete : Prop :=
  ∀ (s : State) (u : Nat),
    (∀ m set, let r := s.engineLost u
      nextStart (r.proc u).mx = some m → m.started = false →
      ((r.proc u).mx.takeWhile (fun x => x.id != m.id)).any m.meets = false →
      (m.kind.mul? = none ∧ set = none ∨ ∃ k x, m.kind.mul? = some k ∧ r.freeSet u (shapeTiles k.shape) = some x ∧ set = some x) →
        exec (.matrixStart u) s = .next (r.onProc u (fun p =>
          { p with mx := p.mx.map (fun x => if x.id = m.id then { x with started := true, set } else x) })))
    ∧ (∀ k c b, (s.proc u).mx[k]? = some c → s.block? c.bid = some b → c.started = true → (∀ id sh, c.kind ≠ .engine id sh) →
      (∀ m set, c.kind.mul? = some m → c.set = some set → exec (.matrixComplete u k) s = .next ((State.completeMul u c.id 17 s).engineLost u))
      ∧ (c.kind.mul? = none → exec (.matrixComplete u k) s = .next ((s.performAcc b c).mxComplete u c)))
    ∧ (∀ i, (s.subsEnabled u).contains i = true → (s.proc u).failing.getLsbD i = true →
      (∀ m ∈ (s.proc u).mx, ∀ x, m.set = some x → ¬(x.1 ≤ i ∧ i < x.1 + x.2)) →
        s.unitDead u = false → exec (.idleSelfTest u i) s = .next ((s.fenceSub u i).engineLost u))
    ∧ (∀ k c n, (s.proc u).cmds[k]? = some c → (s.proc u).cmdReady c = true →
      exec (.engineReport u k n) s = .next (State.engSteps u c.id n n s)
      ∧ (c.kind.total ≤ c.done → c.inflight = 0 →
        let t := match c.rel with | none => s | some sc => s.cleanFor (ownerCtx c.bid c.g) sc
        exec (.engineCommandComplete u k) s = .next (((t.onProc u (fun p =>
          Proc.dropEngineEntry { p with cmds := p.cmds.filter (fun x => x.id != c.id) } c.id)).onGroupAny c.bid c.g
            (fun g => g.complete c.pend)).cmdPoison c))
      ∧ (c.done < c.kind.total → ∀ cause va, (s.engBatch c c.kind.unit).stop = some (cause, va) →
        (cause ≠ 0x09 → exec (.engineFault u k) s = .next
          ((((s.engBatch c c.kind.unit).s.dropCmd u c cause).trapAsync c.bid c.g
            { cause := BitVec.ofNat 8 cause, addr := va, engine := true, mprog := some c.mprog }).cmdPoison
              (((((s.engBatch c c.kind.unit).s.proc u).cmds.find? (fun x => x.id = c.id)).getD c))))
        ∧ (cause = 0x09 → exec (.engineFault u k) s = .next
          (((((s.engBatch c c.kind.unit).s.onCmd c.id (fun x => { x with held := true })).onGroupAny c.bid c.g
            (fun g => { g with mprog := 0 })).trapAsync c.bid c.g
            { cause := 0x09, addr := va, cmd := some c.id, engine := true, write := c.kind.faultWrites va })))))

/-- R307, R314 to R316, R319, R321, R325 to R327, R330 to R332, R437: calls are delivered, placed and returned, a near-bank command
is performed, and packets reach their landings or wait for staging. -/
def Obligations.RootStepsComplete : Prop :=
  ∀ s : State,
    (∀ k c, s.calls[k]? = some c → c.st = .issued →
      let t := c.wlines.foldl State.evictL2 (c.rlines.foldl State.cleanL2 s)
      let u := 0x8000 + c.owner
      (t.proc u).inbox.length < 32 →
        exec (.rcallDeliver k) s = .next (((t.onProc u (fun p => { p with inbox := p.inbox ++ [c.id] })).onCall c.id
          (fun c => { c with st := .inbox })).onGroupAny c.caller c.g (fun g => g.complete c.pend)))
    ∧ (∀ r id rest c l f, (s.proc (0x8000 + r)).inbox = id :: rest → s.calls.find? (fun c => c.id = id) = some c → c.st = .inbox →
      s.rootEnabled r = true → (s.proc (0x8000 + r)).halted = false → s.launch? c.lid = some l →
      fitOn (0x8000 + r) (s.blocksOn (0x8000 + r)) { segs := at8 (leNat c.msg) 0 1 * segOf (at8 (leNat c.msg) 1 1)
                                                     sp := at8 (leNat c.msg) 4 4, acc := 0, groups := at8 (leNat c.msg) 0 1 } = some f →
        let b := rootBlock l c s.nextBid s.now f
        ∃ t, exec (.rootCallPlace r) s = .next t ∧ t.blocks = s.blocks ++ [b] ∧ t.nextBid = s.nextBid + 1
          ∧ t.calls = s.calls.map (fun x => if x.id = id then { x with st := .running b.bid } else x)
          ∧ (t.proc (0x8000 + r)).inbox = rest)
    ∧ (∀ bid b, s.block? bid = some b → s.rootDone b = true → exec (.rootBlockReturn bid) s = .next (s.rootReturn b))
    ∧ (∀ r k rest, (s.proc (0x8000 + r)).bnk = k :: rest →
      (∀ pa ∈ k.reads, s.bnkBad pa (k.n * bnkWidth k.ty) = []) →
        exec (.bnkCommandComplete r) s = .next (((s.bnkPerform k false).onProc (0x8000 + r) (fun p => { p with bnk := rest })).onGroupAny
          k.bid k.g (fun g => g.complete k.pend)))
    ∧ (∀ k p, s.packets[k]? = some p → p.waiting = false →
      let rest : State := { s with packets := s.packets.eraseIdx k }
      (isPeerWin p.pa = true → exec (.landingPacketArrival k) s =
        .next { rest.packetOver p with sent := s.sent ++ [((p.pa - 2 ^ 51) / 2 ^ 40, { p with pa := p.pa % 2 ^ 40 })] })
      ∧ (isPeerWin p.pa = false → s.stagingRoom p = true → exec (.landingPacketArrival k) s = .next (rest.judgePacket p))
      ∧ (isPeerWin p.pa = false → s.stagingRoom p = false → exec (.landingPacketArrival k) s =
        .next { s with packets := modifyAt s.packets k (fun p => { p with waiting := true }) }))
    ∧ (∀ stack k p, s.packets.findIdx? (fun p => p.waiting && (s.hbmPlace p.pa).map (fun e => e.1 / 64) = some stack
        && s.stagingRoom p) = some k → s.packets[k]? = some p →
        exec (.landingStagingAdmit stack) s =
          .next ({ s with packets := s.packets.eraseIdx k }.judgePacket { p with waiting := false }))

/-- R347, R348, R351 to R356, R367 to R372, R380 to R385: phases end, holds are armed, met or time out, frontiers are published,
and tasks are dispatched, spilled, aborted for capacity and committed. That a `hold` which would be armed on a frame that a migration
has left ends with MOVED instead is the model's choice (assumption 86). -/
def Obligations.WatchAndTaskStepsComplete : Prop :=
  ∀ s : State,
    (∀ lid l, s.launch? lid = some l → l.tree.isSome = true → l.dests ≠ [] → (∀ d ∈ l.dests, d.2.2 ≤ 0) →
      exec (.phaseEnd lid) s = .next ((s.flushLaunch lid).onLaunch lid (fun l =>
        { l with dests := l.dests.map (fun d => (d.1, d.2.1, (d.2.1 : Int) + min d.2.2 0)), phase := l.phase + 1 })))
    ∧ (∀ (c : Ctx) (w : WatchReq) (full : Bool) (g : Group), s.groupAny c = some g → g.hold = .arming w full →
      let u := s.ctxUnit c
      let here := (s.group? c).isSome
      let t := (if here && !isRoot u then s.l1WriteBack u (w.pa / 128) else s).homeTouch
        { lid := w.lid, die := if here then dieOf u else s.homeDie w.pa, key := w.key } w.pa
      let ends (st cause : Nat) : State := (t.onCtx c (fun g => g.endHold w.sys (hstatOf st false cause))).readyImage (cmdOwner c).1
      let past : Bool := w.deadline != 0 && decide (w.deadline.toNat ≤ t.now)
      (t.homeBad (w.pa / 128) = true → exec (.watchArm c) s = .next (ends 5 0x0B))
      ∧ (t.homeBad (w.pa / 128) = false →
        (t.watchMet w = true → exec (.watchArm c) s = .next (ends 1 0))
        ∧ (t.watchMet w = false → past = true → exec (.watchArm c) s = .next (ends 3 0))
        ∧ (t.watchMet w = false → past = false → t.onOldFrame w.pa = true → exec (.watchArm c) s = .next (ends 6 0))
        ∧ (t.watchMet w = false → past = false → t.onOldFrame w.pa = false → ∀ r,
          t.insertWatch { die := t.homeDie w.pa, w, bid := (cmdOwner c).1, g := (cmdOwner c).2, seq := 0 } = some r →
            exec (.watchArm c) s = .next (r.onCtx c (fun g => { g with hold := .armed })))))
    ∧ (∀ (k : Nat) w, s.watches[k]? = some w → w.w.deadline ≠ 0 → w.w.deadline.toNat ≤ s.now →
      exec (.watchTimeout k) s = .next (s.endWatch w 3 0).refillWatches)
    ∧ (∀ lid l t, s.launch? lid = some l → l.r.lflags % 2 ≠ 0 →
      l.tasks.find? (fun t => some t.key = l.lowest) = some t →
        exec (.frontierPublish lid) s = .next ((s.onLaunch lid (fun x => { x with front := l.lowest })).becomeNs lid t))
    ∧ (∀ (lid : Nat) (l : Launch) (k : FreeKey) (t : TaskRec), s.settleStopped.launch? lid = some l →
      firstFree (s.settleStopped.freeGroups lid) = some k → l.nextReady = some t →
        exec (.taskDispatch lid) s = .next ((s.settleStopped.onLaunch lid (fun l => l.onTask t.n (fun t =>
          { t with
            st := .running k.2.2.2 k.2.2.1, ns := decide (l.front = some t.key)
            home := ((s.settleStopped.block? k.2.2.2).map (fun b => clusterOf b.unit)).getD t.home }))).onGroup
          (.grp k.2.2.2 k.2.2.1) (fun g => g.startTask l t)))
    ∧ (∀ lid l k t, let r := s.onLaunch lid Launch.settleMoves
      r.launch? lid = some l → l.frontierRefill = some (k, t) →
      exec (.taskSpillEngine lid) s = .next (r.moveRecords k 1 (fun s => s.refillInto l k [t])))
    ∧ (∀ lid x t, oldestStall s.stalls = some (x, lid, t) → x + 65536 ≤ s.now →
      exec (.capacityAbort lid) s = .next (abortTasks s lid [t.n] 0x044))
    ∧ (∀ lid l, s.launch? lid = some l → s.spawnStuck l = true → l.spawnAbort = none →
      (∀ t, youngest l.tasks = some t → exec (.spawnCapacityAbort lid) s =
        .next ((abortTasks s lid [t.n] 0x044).onLaunch lid (fun l => { l with spawnAbort := some s.now })))
      ∧ (youngest l.tasks = none → exec (.spawnCapacityAbort lid) s = .next (s.killLaunch lid 0x12).trimHeld))
    ∧ (∀ lid l t k, s.launch? lid = some l → l.tasks.find? (fun t => l.front = some t.key) = some t → t.st = .finished k →
      exec (.taskCommit lid) s = .next ((((s.publishVersions lid t.n).commitRelease k).taskEvent 0x040 lid).onLaunch lid (fun l =>
        { l with tasks := (l.tasks.filter (fun u => u.n != t.n)).map (fun u => { u with unready := false }) })))

/-- R21, R358, R431, R435, R440, R441, R447, R448: cores are gated and wake, a hot die counts and at 110 degrees is dead, an agent whose
signs fail is declared dead, and links fail, train and gain expanders. What a gated core's registers hold (assumption 53) and from when
it is idle (assumption 54), the base of the host's watchdog (assumption 51) and the results of training and attachment, which come as
inputs (assumption 17), are the model's choices. -/
def Obligations.PowerAndLinkStepsComplete : Prop :=
  ∀ s : State,
    (∀ u, u < Config.cores → s.unitDead u = false → (s.proc u).supQuiet = true →
      ((s.proc u).power = .c0 → (s.proc u).idleSince + 1905 ≤ s.now → s.allHeld u = true →
        exec (.coreClockGate u) s = .next (s.onProc u (fun p => { p with power := .c1 })))
      ∧ ((s.proc u).power ≠ .c2 → s.blocksOn u = [] →
        (s.parts.any (fun x => x.2.valid && x.2.has u) = true → (s.proc u).idleSince + 100000 ≤ s.now) →
          let t := s.l1Clean u
          exec (.corePowerGate u) s = .next { t.onProc u (fun p => p.gated t.fresh) with
            fresh := t.fresh + 1 + 2 * (s.proc u).counters.length }))
    ∧ (∀ u, s.unitDead u = false → (s.proc u).power ≠ .c0 →
      exec (.coreWake u) s = .next (s.onProc u (fun p => { p with power := .c0, idleSince := s.now, still := [] })))
    ∧ (∀ die deg, 100 < deg → deg < 110 → exec (.thermalSample die deg) s = .next (s.countTherm die))
    ∧ (∀ die deg, 110 ≤ deg → die < 4 → exec (.thermalSample die deg) s = .next ((s.countTherm die).declareDead (.crownDie die)))
    ∧ (∀ die, (Cells.find s.plat.thermAt die = none ∨ ∃ at_, Cells.find s.plat.thermAt die = some at_ ∧ at_ + 1000 ≤ s.now) →
      let t := s.pkgEvent 0x023 0 die
      s.countTherm die = { t with plat := { t.plat with thermAt := Cells.set t.plat.thermAt die t.now } })
    ∧ (∀ n, s.coreEnabled n = true → exec (.heartbeatMissed (.core n)) s = .next (s.declareDead (.core n)))
    ∧ (∀ st, st < 16 → exec (.heartbeatMissed (.rootDie st)) s = .next (s.declareDead (.rootDie st)))
    ∧ (s.host.hbto ≠ 0 → s.host.hbeatAt + 1000 * s.host.hbto.toNat ≤ s.now →
      exec .hostWatchdogTimeout s = .next (s.declareDead .host))
    ∧ (∀ a, outerAgent a = true → exec (.completionTimeout a) s = .next (s.declareDead a)
      ∧ exec (.linkDown a) s = .next (s.declareDead a))
    ∧ (∀ d, d < 4 → exec (.pathLossTimeout (.crownDie d)) s = .next (s.declareDead (.crownDie d)))
    ∧ (∀ p, p < 1024 → exec (.peerRequestTimeout p) s = .next (s.declareDead (.peer p))
      ∧ (s.routePorts p = [] → exec (.pathLossTimeout (.peer p)) s = .next (s.declareDead (.peer p))))
    ∧ (∀ x y, x < 4 → y < 4 → x ≠ y → s.dlink.contains (min x y, max x y) = false →
      exec (.dieLinkFence x y) s = .next { s with dlink := s.dlink ++ [(min x y, max x y)] })
    ∧ (∀ port, port < 18 → exec (.routePortDown port true) s = .next { s with ulDown := s.ulDown.filter (· != port) }
      ∧ exec (.routePortDown port false) s = .next { s with ulDown := NatSet.insert s.ulDown port })
    ∧ (∀ mode lanes rate, linkOk mode lanes rate = true →
      let t := (s.hostLines.map (·.1)).foldl State.evictHost s
      exec (.hostLinkTraining mode lanes rate) s = .next { t with port := mode, host := { t.host with lanes, rate } })
    ∧ (∀ port gib, port < 4 → gib ≤ 1024 → s.cxlgWritten = false →
      exec (.cxlExpanderAttach port gib) s = .next { s with cxlGib := Cells.put 0 s.cxlGib port gib })

/-! ### The step, the words and the state after reset -/

/-- R78, R83, R421: where a group or a supervisor slot takes its turn, may issue, and its fetch gives a word, the step is that
word's instruction (of the four operations of `ctxsw`, the one its command names), or ILLOP for a word that is none; a failed
fetch raises its trap; and a turn that is a step of the package is that step. A gated core that the turn gives something to do
then wakes (`State.settled`, R358); with no core gated, the step is what the instruction answers. -/
def Obligations.StepRunsDecodedInstruction : Prop :=
  (∀ (s : State) (c : Ctx) (r : List Turn) (g : Group) (s1 : State), s.turns = .issue c :: r → s.group? c = some g →
    s.canIssue c g = true →
      let at_ : W64 := if g.rep.isSome then g.pc + 12 else g.pc
      let t : State := { s1 with sel := some c }
      (∀ w, State.fetchAt { s with turns := r } c at_ = (s1, .ok w) →
        (∀ i, decode w = .instr i → step s = State.settled { s with turns := r } (exec (t.resolve c i) t) ∧ ((∀ h a, i ≠ .ctxswSave h a) → t.resolve c i = i))
        ∧ (∀ e, decode w = .illegal e →
          step s = State.settled { s with turns := r } (t.raiseAtIssue (if w.getLsbD 95 then 0 else w.extractLsb' 93 2) { cause := 0x01 })))
      ∧ (∀ x, State.fetchAt { s with turns := r } c at_ = (s1, .error x) → step s = State.settled { s with turns := r } (t.raiseAtIssue 0 x)))
  ∧ (∀ (s : State) (i : Instr) (r : List Turn), s.turns = .event i :: r → encode i = none →
    step s = State.settled { s with turns := r } (exec i { s with turns := r }))
  ∧ (∀ s t : State, (∀ x ∈ t.units, x.2.power = .c0) → State.settled s (.next t) = .next t)

/-- R95, R149, R288, R290: the words that the worked examples of the specification write out decode to the instructions they
stand for, with every field; and a word that is all zero, or whose OPC no instruction has, decodes to none. -/
def Obligations.TabledWordsDecode : Prop :=
  let z : Mods := ⟨false, .rn, false, false, false⟩
  decode (word3 0x09021063 0x0000B028 0x001C8000) = .instr (.fma (headOf { z with rnd := .rz }) .f32 (.v 8) (.v 9) (.v 10) (.v 11))
  ∧ decode (word3 0x0400E92A 0xF00FF000 0x001C000F) = .instr (.andImm (headOf z) .b32 (.v 3) (.v 4) 0x00FF00FF)
  ∧ decode (word3 0x00000003 0xFFFFC000 0x00040FFF) = .instr (.bra { headOf z with guard := ⟨1, false⟩ } 0xFFFFFFFC)
  ∧ decode (word3 0x040509A0 0x06800000 0x001C0040) = .instr (.ld (headOf z) .b32 (.v 20) (.v 4) ⟨64, .normal, .one, .dev, .acq⟩)
  ∧ decode (word3 0x004200C0 0x0CC00C07 0x001E0000) =
      .instr (.mma (headOf { z with om := true }) .e4m3 .e4m3 (.s 8) (.k 0) (.k 1) ⟨.s64x64, 3⟩)
  ∧ decode (word3 0x040000E8 0x00106415 0x001C0BB0) = .instr (.rcall (headOf z) (.s 4) (.s 5) (.s 6) ⟨some .dev, some .dev⟩)
  ∧ decode (word3 0x040020DA 0x00106C05 0x001C0000) = .instr (.hold (headOf z) .eq false true (.s 4) (.k 1) (.s 6))
  ∧ decode (word3 0x0A4240E0 0x00000001 0x001C0000) = .instr (.tspawn (headOf z) (.s 9) (.s 10))
  ∧ decode 0 = .illegal .zeroWord ∧ decode (word3 0xF0 0 0x001C0000) = .illegal .unassigned

/-- R95 to R98, R119: decoding undoes encoding. The word of a well-formed instruction, at every value of every operand, hint
and modifier, decodes to it, but for three of the four operations of `ctxsw`, which share the word of the fourth (R421); and a
word that decodes to an instruction is that instruction's word. -/
def Obligations.DecodingUndoesEncoding : Prop :=
  (∀ (i : Instr) (w : Word96), i.wf = true → encode i = some w →
    (∀ h a, i ≠ .ctxswReady h a ∧ i ≠ .ctxswDiscard h a ∧ i ≠ .ctxswPool h a) → decode w = .instr i)
  ∧ (∀ (h : Head) (a : Operand) (w : Word96), h.mods.only [] = true → a.okSrc = true →
    (encode (.ctxswReady h a) = some w ∨ encode (.ctxswDiscard h a) = some w ∨ encode (.ctxswPool h a) = some w) →
      decode w = .instr (.ctxswSave h a))
  ∧ (∀ (i : Instr) (w : Word96), decode w = .instr i → i.wf = true ∧ encode i = some w)

/-- R21, R32, R40, R44, R129, R443, R449 and the tables of registers: what module reset leaves. TIME, MEMCNT.CXLG and the queues'
registers read 0, LOGN the value of its table, every generator its constant, nothing runs, no key is loaded, and the memory is
in its canonical form. That a byte nothing has written reads 0 (assumption 1) and that TIME reads 0 (assumption 11) are the model's
choices. -/
def Obligations.ResetHoldsItsValues : Prop :=
  let s := State.reset
  s.time = 0 ∧ s.cxlg = 0 ∧ s.cxlgWritten = false ∧ s.launches = [] ∧ s.blocks = [] ∧ s.watches = [] ∧ s.versions = []
    ∧ s.plat.keys = [] ∧ s.plat.state = 0 ∧ Memory.wf s.mem = true ∧ (∀ a, Memory.read s.mem a = 0)
    ∧ (∀ q, (s.queue q).en = false ∧ (s.queue q).qpi = 0 ∧ (s.queue q).qci = 0 ∧ (s.queue q).qerr = 0)
    ∧ (∀ u, (s.proc u).gen = 0x9E3779B97F4A7C15 ∧ (s.proc u).draws = [] ∧ (s.proc u).l1 = [] ∧ (s.proc u).halted = false)

/-- An invariant: whatever a step does, from any state, it keeps the memory in its canonical form, addresses rising and no
byte listed that an unlisted address reads. -/
def Obligations.StepKeepsMemoryForm : Prop :=
  ∀ s t : State, Memory.wf s.mem = true → step s = .next t → Memory.wf t.mem = true

/-- Every step of every state answers a next state: no instruction, word, trap or event ends a run in a fault or a refusal. -/
def Obligations.EveryStepAnswers : Prop := ∀ s : State, ∃ t, step s = .next t

/-! ### Predicates, guards and the checks at issue -/

/-- R72, R98 and Table 6-2: p7 reads true and a write to it is discarded; a predicate as a source reads 1 or 0; a write to another
predicate is read back as whether the value is not 0, and calls and returns, which change a lane's depth, leave predicates as they
were. That a predicate reads 1 or 0 as a 64-bit source too is the model's choice (assumption 27). -/
def Obligations.PredicatesFollowTheirRule : Prop :=
  (∀ (s : State) (c : Ctx) (g : Group) (w : Bool) (f : Option Fmt) (l : Nat) (n : BitVec 3),
    s.src c g (.p 7) w f l = ⟨1, false⟩ ∧ (s.src c g (.p n) w f l).v = (if (g.lane l).pred n then 1 else 0))
  ∧ (∀ (s : State) (bid k : Nat) (w : Bool) (res : List LaneRes) (n : BitVec 3) (l : Nat),
    let c : Ctx := .grp bid k
    let t := s.dst c (.p n) w res
    (((t.grp c).lane l).pred 7 = true)
    ∧ (∀ m, m ≠ n → ((t.grp c).lane l).pred m = ((s.grp c).lane l).pred m)
    ∧ (∀ r, n ≠ 7 → l < (s.grp c).lanes.length → res.find? (fun x => x.1 = l) = some (l, r) →
        ((t.grp c).lane l).pred n = (r.v != 0)))
  ∧ (∀ (x : Lane) (d : Nat) (n : BitVec 3), Lane.pred { x with depth := d } n = x.pred n)

/-- R100, R86: an instruction whose guard is false in every lane of the run takes no effect of its own, whatever that is: no
destination, memory or flag is written and no trap of its own raised, and the run moves on. The forms named stand for the
families; each is issued through the one operation that the first clause speaks of. -/
def Obligations.GuardFalseDoesNothing : Prop :=
  (∀ (s : State) (c : Ctx) (h : Head) (row : RowInfo) (sl : List Slot) (body : State → View → Effect),
    s.mayStart c h row = true → s.issueCheck c (s.grp c) h row sl = none → s.acts c h = [] →
      s.issue h row sl body = .next (s.completed s c h))
  ∧ (∀ (s : State) (c : Ctx) (h : Head), s.mayStart c h {} = true → s.issueCheck c (s.grp c) h {} [] = none → s.acts c h = [] →
      ∀ x : BitVec 32, ∀ i ∈ [Instr.nop h, .bra h x, .call h x, .ret h, .exit h, .trap h x, .ifence h], exec i s = .next (s.completed s c h))
  ∧ (∀ (s : State) (c : Ctx) (h : Head) (ty : Ty) (a b : Operand) (m : MemMod),
    let sl := [addrSlot a, dataSlot ty (countOf m.cnt) b]
    s.mayStart c h { rpt := true, st := true } = true → s.issueCheck c (s.grp c) h { rpt := true, st := true } sl = none →
      s.acts c h = [] → exec (.st h ty a b m) s = .next (s.completed s c h))

/-- R83, R84, R87, R105, R401: the checks of Table 5-1 in order. A word after `rep` that may not repeat raises ILLOP, one outside
a root core's subset ILLOP with SUB ROOT, one whose feature the core or the image lacks FEATURE; an instruction or a register of
the supervisor's PRIV in a group; a scalar at or above SCALARS ILLOPND; and a collective whose run lacks a lane CONV. -/
def Obligations.IssueChecksTrap : Prop :=
  ∀ (s : State) (bid k : Nat) (h : Head) (a b d : Operand) (ty : Ty),
    let c : Ctx := .grp bid k
    let g := s.grp c
    (s.mayStart c h {} = true → g.rep.isSome = true → exec (.nop h) s = .next (s.trap c { cause := 0x01 }))
    ∧ (s.mayStart c h { coll := true, noRoot := true } = true → g.rep = none → isRoot (s.ctxUnit c) = true →
      exec (.cbar h a) s = .next (s.trap c { cause := 0x01, sub := 1 }))
    ∧ (s.mayStart c h (fpRow [.f64]) = true → g.iterationsDone = true → (s.feat (s.ctxUnit c) &&& s.needfeat c).getLsbD 9 = false →
      exec (.fadd h .f64 d a b) s = .next (s.trap c { cause := 0x0D }))
    ∧ (s.mayStart c h { sup := true } = true → g.rep = none →
      ∀ i ∈ [Instr.tlbinv h a b, .ctxswSave h a, .ctxswReady h a, .ctxswDiscard h a, .ctxswPool h a, .wsave h, .wrest h],
        exec i s = .next (s.trap c { cause := 0x06 }))
    ∧ (s.mayStart c h { rpt := true } = true → g.iterationsDone = true →
      (∀ n : BitVec 8, 38 ≤ n.toNat → n.toNat < 64 → exec (.mov h ty d (.special n)) s = .next (s.trap c { cause := 0x06 }))
      ∧ (∀ n : BitVec 6, g.nscal ≤ n.toNat → (∀ x, d ≠ .special x) →
        exec (.mov h ty d (.s n)) s = .next (s.trap c { cause := 0x02 })))
    ∧ (s.mayStart c h { coll := true } = true → g.rep = none → (s.acts c h).length ≠ g.width →
      exec (.vote h .ballot (.v 0) (.p 0)) s = .next (s.trap c { cause := 0x03, addr := w64 (laneMask g.run) }))

/-! ### Taking a trap, the handler and the return from it -/

/-- R397, R412: a trap of a group that runs no speculative task writes TRAPC, TRAPA, TRAPPC, and PSNM where it is a consumption,
stops the group with its lanes, registers, counts and other pending traps as they were, and, where the slot of its scheduler is
free, starts that slot at the supervisor's entry with SVPC = TRAPPC and SVDISP, SVEVT 0; where it is not, the slot goes on and the
trap waits. The groups beside it run on. A trap of the supervisor slot itself halts the core. That a trap which is no consumption
leaves PSNM as it was is the model's choice (assumption 30). -/
def Obligations.TrapStopsAndSaves : Prop :=
  (∀ (s : State) (bid k : Nat) (i : TrapInfo),
    let c : Ctx := .grp bid k
    let g := s.grp c
    let u := s.ctxUnit c
    (s.group? c).isSome = true → s.specTask c = none →
      let t := s.trap c i
      let x := t.grp c
      (x.trapc = BitVec.ofNat 32 (i.cause + 256 * i.sub + (if i.cons then 2 ^ 16 else 0)) ∧ x.trapa = i.addr ∧ x.trappc = g.pc
        ∧ x.psnm = i.psnm.getD g.psnm ∧ x.trapRun = g.run ∧ x.lanes = g.lanes ∧ x.regs = g.regs ∧ x.scal = g.scal
        ∧ x.flags = g.flags ∧ x.repi = g.repi ∧ x.pend = g.pend ∧ x.asyncs = g.asyncs ∧ x.rb = g.rb ∧ x.hb = g.hb)
      ∧ (∀ c', c' ≠ c → c' ≠ .sup u g.sched → t.group? c' = s.group? c')
      ∧ ((s.sup u g.sched).active = true → x.hold = .svWait ∧ t.sup u g.sched = s.sup u g.sched)
      ∧ ((s.sup u g.sched).active = false → x.hold = .trapped ∧
          let p := t.sup u g.sched
          p.active = true ∧ p.svpc = g.pc ∧ p.svdisp = 0 ∧ p.svevt = 0 ∧ p.svgrp = BitVec.ofNat 32 (g.slot + 32 * g.sched)
            ∧ p.g.win = 4 ∧ p.g.nscal = 64 ∧ p.g.lanes.length = g.width
            ∧ (∀ l ∈ p.g.lanes, l.pc = Config.supervisorEntry ∧ l.live = true ∧ l.depth = 0)))
  ∧ (∀ (s : State) (u sc : Nat) (i : TrapInfo), ((s.trap (.sup u sc) i).proc u).halted = true)

/-- R398, R417, R104: the entry to the handler and its undoing. For every lane of the trapping run: two windows deeper, SVPC in
v0:v1 and TRAPC in v2 of the new window, and the handler's address as PC; HB and HR are saved and REPI reads 0; and an `rti` of
those lanes, v0:v1 left as entry wrote them, puts every lane's depth back, its PC at SVPC, and REPI as it was. -/
def Obligations.HandlerEntryAndReturn : Prop :=
  ∀ (g : Group) (svpc pc : W64) (d : Nat), g.trapRun ≠ [] → (∀ l ∈ g.trapRun, l < 32 ∧ l < g.lanes.length) →
    (∀ l ∈ g.trapRun, (g.lane l).live = true ∧ (g.lane l).depth = d) → (∀ l, (g.lane l).live = true → (g.lane l).depth ≤ d) →
      let x := g.enterHandler svpc pc
      (∀ l ∈ g.trapRun, (x.lane l).depth = d + 2 ∧ (x.lane l).pc = pc ∧ (x.vreg 0 l).v = svpc.setWidth 32
        ∧ (x.vreg 1 l).v = (svpc >>> 32).setWidth 32 ∧ (x.vreg 2 l).v = g.trapc)
      ∧ (∀ l, l ∉ g.trapRun → x.lane l = g.lane l)
      ∧ x.hb = some (d + 2) ∧ x.hr = g.repi ∧ x.repi = 0 ∧ x.hold = .none ∧ x.inHandler = true
      ∧ x.scal = g.scal ∧ x.flags = g.flags ∧ x.trapc = g.trapc
      ∧ (let y := x.leaveHandler g.trapRun []
         (∀ l ∈ g.trapRun, (y.lane l).depth = d ∧ (y.lane l).pc = svpc) ∧ y.repi = g.repi ∧ y.hb = none ∧ y.inHandler = false)

/-- R69, R142, R207, R213: a call in which a lane's window would leave the resident ones raises WOVF, a return in which a lane's
would WUNF (so a return at depth 0 does); and an access whose address is no multiple of its size raises MISAL with the lowest
such lane's address, but for a speculative task's access that its target parks first (R376). -/
def Obligations.WindowAndAlignmentTraps : Prop :=
  ∀ (s : State) (c : Ctx) (h : Head),
    let g := s.grp c
    (s.clear c h {} [] = true →
      (∀ x : BitVec 32, (∃ l ∈ s.acts c h, g.win ≤ (g.lane l).depth + 1 - g.rb) →
        exec (.call h x) s = .next (s.trap c { cause := 0x04 }))
      ∧ ((∃ l ∈ s.acts c h, (g.lane l).depth ≤ g.rb) → exec (.ret h) s = .next (s.trap c { cause := 0x05 }))
      ∧ ((∃ l ∈ s.acts c h, (g.lane l).depth = 0) → exec (.ret h) s = .next (s.trap c { cause := 0x05 })))
    ∧ (∀ (ty : Ty) (d a b : Operand) (m : MemMod) (e : Nat × W64),
      (let sl := [loadSlot ty (countOf m.cnt) d, addrSlot a]
       s.clear c h { rpt := true, ld := true } sl = true →
        s.parksOn c (s.addresses (s.view c h sl) m.off) = false →
        (s.addresses (s.view c h sl) m.off).find? (fun x => x.2.toNat % (countOf m.cnt * tyBytes ty) != 0) = some e →
          exec (.ld h ty d a m) s = .next (s.trap c { cause := 0x08, addr := e.2 }))
      ∧ (let sl := [addrSlot a, dataSlot ty (countOf m.cnt) b]
       s.clear c h { rpt := true, st := true } sl = true →
        s.parksOn c (s.addresses (s.view c h sl) m.off) = false →
        (s.addresses (s.view c h sl) m.off).find? (fun x => x.2.toNat % (countOf m.cnt * tyBytes ty) != 0) = some e →
          exec (.st h ty a b m) s = .next (s.trap c { cause := 0x08, addr := e.2 }))
      ∧ (let sl := [loadSlot ty 1 d, spadSlot a]
       s.clear c h { rpt := true, ld := true } sl = true →
        (∀ x ∈ s.spadAddresses (s.view c h sl), (s.spTarget (s.blockOf c) x.2.toNat (tyBytes ty)).isSome = true) →
        (s.spadAddresses (s.view c h sl)).find? (fun x => x.2.toNat % tyBytes ty != 0) = some e →
          exec (.ldsp h ty d a) s = .next (s.trap c { cause := 0x08, addr := e.2 })))

/-! ### Registers of the package and numbers -/

/-- R21, R40: the supervisor's first store to MEMCNT since module reset sets CXLG from bits [47:32], every later one and every
store of the host to the block changes nothing. QBASE, QRES and QPTR change only while EN is 0, LOGN only then and only to 4-14, a
write with another LOGN is then ignored whole; EN from 0 to 1 empties the queue and clears QERR; and a doorbell that makes the
pending count exceed 2^LOGN sets QERR[8], clears EN and leaves QCI. -/
def Obligations.QueueAndMemcntRules : Prop :=
  (∀ (s : State) (v : W64),
    (s.cxlgWritten = false → exec (.memcntWrite v) s = .next { s with cxlg := field v.toNat 32 16, cxlgWritten := true })
    ∧ (s.cxlgWritten = true → exec (.memcntWrite v) s = .next s)
    ∧ (∀ adr, adr < 0x1000 → exec (.registerWrite true adr v) s = .next s)
    ∧ (s.cxlgWritten = false → ∀ pa, 2 ^ 43 ≤ pa → pa < 2 ^ 43 + 2 ^ 42 → s.spot pa = .unbacked))
  ∧ (∀ (x : HQueue) (v : W64),
    (x.en = true → x.write 0x00 v = x ∧ x.write 0x08 v = x ∧ x.write 0x30 v = x
      ∧ x.write 0x10 v = { x with pause := v.getLsbD 1, en := v.getLsbD 0 })
    ∧ (x.en = false → (field v.toNat 8 4 < 4 ∨ 14 < field v.toNat 8 4) → x.write 0x10 v = x)
    ∧ (x.en = false → 4 ≤ field v.toNat 8 4 → field v.toNat 8 4 ≤ 14 →
      x.write 0x10 v = if v.getLsbD 0 then { x with pause := v.getLsbD 1, en := true, logn := field v.toNat 8 4, qci := x.qpi, qerr := 0 }
        else { x with pause := v.getLsbD 1, logn := field v.toNat 8 4 })
    ∧ (2 ^ x.logn < (v.setWidth 32 - x.qci).toNat →
      x.write 0x18 v = { x with qpi := v.setWidth 32, qerr := x.qerr ||| 0x100, en := false })
    ∧ ((v.setWidth 32 - x.qci).toNat ≤ 2 ^ x.logn → x.write 0x18 v = { x with qpi := v.setWidth 32 }))

/-- R133: where a lane of the run raises an exception whose EN bit is set, the instruction takes FPX and nothing else, so FLAGS
and D stay; TRAPA holds the mask of those lanes in [31:0] and the OR of the enabled exceptions raised in [36:32]. That `fcvt.sr` and
`pack.sr` then take no draw of the generator is the model's reading of R133 against R128 (assumption 94). -/
def Obligations.EnabledExceptionsTrap : Prop :=
  ∀ (s : State) (c : Ctx) (h : Head) (ty : Ty) (d a b e : Operand),
    let w := tyWide ty
    let dl := Deliver.ofMods h.mods
    let f := fmtOf ty
    let en : Nat := field (s.grp c).flags.toNat 16 5
    let draws (n : Nat) : List Nat := ((s.proc (s.ctxUnit c)).drawN n).1
    let fpx (i : Instr) (res : List FLane) : Prop :=
      (∃ r ∈ res, en &&& r.fl ≠ 0) →
        let lanes := (res.filter (fun r => en &&& r.fl != 0)).map (·.lane)
        let all : Nat := res.foldl (fun m r => m ||| r.fl) 0
        exec i s = .next (s.trap c { cause := 0x10, addr := w64 (laneMask lanes + (en &&& all) * 2 ^ 32) })
    (let sl := [slotFD d w, slotFS .a a ty, slotFS .b b ty]
     s.clear c h (fpRow [ty]) sl = true →
      let v := s.view c h sl
      let res (op : Nat → Nat → FRes) : List FLane := (s.acts c h).map (fun l => fLane l [s.fsrc v .a ty l, s.fsrc v .b ty l]
        [op (fbits ty (s.fsrc v .a ty l).v) (fbits ty (s.fsrc v .b ty l).v)])
      fpx (.fadd h ty d a b) (res (fAdd f dl)) ∧ fpx (.fsub h ty d a b) (res (fSub f dl)) ∧ fpx (.fmul h ty d a b) (res (fMul f dl))
        ∧ fpx (.fdiv h ty d a b) (res (fDiv f dl)) ∧ fpx (.fmin h ty d a b) (res (fMinMax f false dl))
        ∧ fpx (.fmax h ty d a b) (res (fMinMax f true dl)))
    ∧ (let sl := [slotFD d w, slotFS .a a ty, slotFS .b b ty, slotFS .c e ty]
     s.clear c h (fpRow [ty]) sl = true →
      let v := s.view c h sl
      fpx (.fma h ty d a b e) ((s.acts c h).map (fun l => fLane l [s.fsrc v .a ty l, s.fsrc v .b ty l, s.fsrc v .c ty l]
        [fMa f dl (fbits ty (s.fsrc v .a ty l).v) (fbits ty (s.fsrc v .b ty l).v) (fbits ty (s.fsrc v .c ty l).v)])))
    ∧ (∀ cc : Cmp,
     let sl := [slotP .d d true, { slotFS .a a ty with consumed := true }, { slotFS .b b ty with consumed := true }]
     s.clear c h (fpRow [ty]) sl = true →
      let v := s.view c h sl
      fpx (.fcmp h cc ty d a b) ((s.acts c h).map (fun l =>
        let r := fCmp f cc h.mods.fzi (fbits ty (s.fsrc v .a ty l).v) (fbits ty (s.fsrc v .b ty l).v)
        fLane l [s.fsrc v .a ty l, s.fsrc v .b ty l] [⟨r.1.toNat, r.2⟩])))
    ∧ (let sl := [slotFD d false, slotFS .a a ty, slotFS .b b ty, slotFS .c e .f32]
     s.clear c h (fpRow [ty]) sl = true →
      let v := s.view c h sl
      let p (op : Operand) (x : W64) : Nat := (twoValues op x).1 + 2 ^ 16 * (twoValues op x).2
      fpx (.fdot2 h ty d a b e) ((s.acts c h).map (fun l => fLane l [s.fsrc v .a ty l, s.fsrc v .b ty l, s.fsrc v .c .f32 l]
        [fDot2 f dl (p a (s.fsrc v .a ty l).v) (p b (s.fsrc v .b ty l).v) (fbits .f32 (s.fsrc v .c .f32 l).v)])))
    ∧ (let sl := packSlots ty d a b
     s.clear c h (fpRow [ty]) sl = true →
      let v := s.view c h sl
      let n := 2 * packRun ty
      fpx (.pack h ty d a b) ((s.acts c h).map (fun l =>
        let xs := s.packSources v ty l
        fLane l xs [packed ty (xs.map (fun x => fConvert f fF32 dl (fbits .f32 x.v)))]))
      ∧ fpx (.packSr h ty d a b) ((s.acts c h).zipIdx.map (fun li =>
        let xs := s.packSources v ty li.1
        fLane li.1 xs [packed ty ((xs.zip ((draws (n * (s.acts c h).length)).drop (n * li.2))).map (fun xq =>
          fConvertSr f dl xq.2 (fbits .f32 xq.1.v)))])))
    ∧ (let n := unpackRun ty
     let mx := Ty.nf.contains ty
     let sl := [{ slotFD d false with run := n, okS := false, okK := false }, slotFS .a a ty,
      if mx then { pos := .b, op := b } else { pos := .b, op := b, okV := false, okS := false, okP := false, okSp := false, okK := b = .k 0 }]
     s.clear c h (fpRow [ty]) sl = true →
      let v := s.view c h sl
      fpx (.unpack h ty d a b) ((s.acts c h).map (fun l =>
        let x := s.fsrc v .a ty l
        let y := s.src c (s.grp c) (v.op .b) false none l
        fLane l [x, y] ((List.range n).map (fun j =>
          let k := field x.v.toNat (packBits ty * j) (packBits ty)
          if mx then fUnpackMx f dl (field y.v.toNat 0 8) k else fWiden f dl k)))))
    ∧ (let one (td tf : Ty) (i : Instr) (op : Nat → FRes) : Prop :=
       let sl := [slotFD d (tyWide td), slotFS .a a tf]
       s.clear c h (fpRow [td, tf]) sl = true →
        let v := s.view c h sl
        fpx i ((s.acts c h).map (fun l => fLane l [(s.fsrc v .a tf l).spread (tyWide td) (tyWide tf)]
          [op (fbits tf (s.fsrc v .a tf l).v)]))
     one ty ty (.sqrt h ty d a) (fSqrt f dl) ∧ one ty ty (.frint h ty d a) (fRint f dl)
      ∧ one ty .f32 (.fcvt h ty d a) (fConvert f fF32 dl) ∧ one .f32 ty (.fcvtToF32 h ty d a) (fWiden f dl)
      ∧ one ty ty (.rcp h ty d a) (spEval .rcp ty dl) ∧ one ty ty (.rsq h ty d a) (spEval .rsq ty dl)
      ∧ one ty ty (.exp2 h ty d a) (spEval .exp2 ty dl) ∧ one ty ty (.log2 h ty d a) (spEval .log2 ty dl)
      ∧ one ty ty (.sinpi h ty d a) (spEval .sinpi ty dl) ∧ one ty ty (.cospi h ty d a) (spEval .cospi ty dl)
      ∧ one ty ty (.tanh h ty d a) (spEval .tanh ty dl))
    ∧ (let sl := [slotFD d false, slotFS .a a .f32]
     s.clear c h (fpRow [ty]) sl = true →
      let v := s.view c h sl
      fpx (.fcvtSr h ty d a) (((s.acts c h).zip (draws (s.acts c h).length)).map (fun lq => fLane lq.1 [s.fsrc v .a .f32 lq.1]
        [fConvertSr f dl lq.2 (fbits .f32 (s.fsrc v .a .f32 lq.1).v)])))
    ∧ (∀ it : Ty,
      (let sl := [slotFD d w, { pos := .a, op := a, wide := tyWide it }]
       s.clear c h (fpRow [ty]) sl = true →
        let v := s.view c h sl
        fpx (.icvt h ty it d a) ((s.acts c h).map (fun l =>
          let x := s.src c (s.grp c) (v.op .a) (tyWide it) none l
          fLane l [x.spread w (tyWide it)] [fFromInt f h.mods.rnd (intOf it x.v.toNat)])))
      ∧ (let sl := [slotFD d (tyWide it), slotFS .a a ty]
       s.clear c h (fpRow [ty]) sl = true →
        let v := s.view c h sl
        fpx (.fcvti h ty it d a) ((s.acts c h).map (fun l => fLane l [(s.fsrc v .a ty l).spread (tyWide it) w]
          [fToInt f it dl (fbits ty (s.fsrc v .a ty l).v)]))))

/-- R129: a core with no draw left steps its generator by the three shifts and takes the four fields of the new value in order;
one with draws left takes the next and steps nothing; and module reset gives every core the constant. -/
def Obligations.GeneratorDraws : Prop :=
  (∀ p : Proc, p.draws = [] →
    let a := p.gen ^^^ (p.gen <<< 13)
    let b := a ^^^ (a >>> 7)
    let n := b ^^^ (b <<< 17)
    p.drawN 4 = ([field n.toNat 0 16, field n.toNat 16 16, field n.toNat 32 16, field n.toNat 48 16], { p with gen := n, draws := [] })
    ∧ p.drawN 1 = ([field n.toNat 0 16], { p with gen := n, draws := [n.extractLsb' 16 16, n.extractLsb' 32 16, n.extractLsb' 48 16] }))
  ∧ (∀ (p : Proc) (q : BitVec 16) (r : List (BitVec 16)), p.draws = q :: r → p.drawN 1 = ([q.toNat], { p with draws := r }))
  ∧ (∀ (s t : State) (u : Nat), exec .moduleReset s = .next t → (t.proc u).gen = 0x9E3779B97F4A7C15 ∧ (t.proc u).draws = [])

/-! ### What instructions leave as it was -/

/-- R11, R71, R72, R100, R132, R140: the frame of the instructions that only give a result (`resultIn`). One that a group issues and
that takes no trap leaves all memory, the stores and caches of every unit and everything outside the group as it was; of the
group, only D in the active lanes, and for the floating-point chapter sticky bits of FLAGS, may change beside the PC. -/
def Obligations.ResultsKeepTheRest : Prop :=
  ∀ (s t : State) (bid k : Nat) (i : Instr) (h : Head) (d : Operand) (n : Nat),
    let c : Ctx := .grp bid k
    let g := s.grp c
    let x := t.grp c
    let od := match g.rep with | none => d | some r => stepOperand r .d g.repi.toNat d
    s.sel = some c → (s.group? c).isSome = true → g.hold = .none → resultIn i = some (h, d, n) → exec i s = .next t →
    x.hold = .none →
      keepsOutside s t ∧ (∀ key pa, t.byteUnder key pa = s.byteUnder key pa)
      ∧ t.blocks.map (fun b => { b with groups := [] }) = s.blocks.map (fun b => { b with groups := [] })
      ∧ (∀ c', c' ≠ c → t.group? c' = s.group? c')
      ∧ (∀ u, keepsStores (s.proc u) (t.proc u)
          ∧ ((u ≠ s.ctxUnit c ∨ takesDraws i = false) → (t.proc u).gen = (s.proc u).gen ∧ (t.proc u).draws = (s.proc u).draws))
      ∧ keepsGroup g x
      ∧ (∀ l, (x.lane l).live = (g.lane l).live ∧ (x.lane l).depth = (g.lane l).depth)
      ∧ (∀ j l, x.elemAt j l ≠ g.elemAt j l → ∃ m l' q, od = .v m ∧ l' ∈ g.active h ∧ q < n
          ∧ 32 * j + l = 32 * g.slotOf (g.lane l').depth (m.toNat + q) + l')
      ∧ (∀ j, x.sreg j ≠ g.sreg j → ∃ m, od = .s m ∧ j = m.toNat)
      ∧ (∀ l p, (x.lane l).pred p ≠ (g.lane l).pred p → od = .p p ∧ l ∈ g.active h)
      ∧ (od ≠ .special 32 → setsFlags i = false → x.flags = g.flags)
      ∧ (od ≠ .special 32 → x.flags >>> 6 = g.flags >>> 6 ∧ x.flags &&& g.flags = g.flags)

/-- R197, R207, R211, R213, R214: the frame of stores. `stsp` changes the bytes that its lanes' targets name in their units'
scratchpads and no other, and nothing outside; `stfe`, when it issues, only adds its accesses to those that wait at their
scratchpads, and changes no byte. `st` is stated where its core's L1 holds nothing written that it would give up, the home L2s
have room, no page is in migration, and no granule access waits on a granule that it fills (which R214 would then perform). There
it changes, of what is read at its home under the key it stores under (a line it does not store to: under any key), only the bytes
that its lanes' translated addresses name. Where also no watch is armed and no task has a mark or a version, it changes no other
core's L1, and in its own core's a line afterwards holds, in each byte not stored to, what it held under that key before or what
is at the home, as not written. None changes a register, a predicate, FLAGS or a special register of its group. Setting the A and
D bits of the leaf entries (R186) is part of the translation, before the store. -/
def Obligations.StoresKeepTheRest : Prop :=
  ∀ (s t : State) (bid k : Nat) (h : Head) (ty : Ty) (a b : Operand),
    let c : Ctx := .grp bid k
    let g := s.grp c
    let x := t.grp c
    let same : Prop := keepsGroup { g with pend := [] } { x with pend := [] } ∧ x.regs = g.regs ∧ x.scal = g.scal ∧ x.flags = g.flags
      ∧ ∀ l, (x.lane l).preds = (g.lane l).preds ∧ (x.lane l).depth = (g.lane l).depth ∧ (x.lane l).live = (g.lane l).live
    let others : Prop := ∀ c', c' ≠ c → t.group? c' = s.group? c'
    (let sl := [spadSlot a, dataSlot ty 1 b]
     s.clear c h { rpt := true, st := true } sl = true → ∀ ts, s.spadChecked (s.view c h sl) ty = .ok ts →
      (exec (.stsp h ty a b) s = .next t →
        same ∧ keepsOutside s t ∧ others
        ∧ (∀ u at_, (∀ y ∈ ts, ¬(y.2.2.1.unit = u ∧ y.2.2.1.spBase + y.2.2.2 ≤ at_
            ∧ at_ < y.2.2.1.spBase + y.2.2.2 + tyBytes ty)) →
              Memory.read (t.proc u).sp at_ = Memory.read (s.proc u).sp at_)
        ∧ (∀ u, (t.proc u).full = (s.proc u).full ∧ (t.proc u).acc = (s.proc u).acc ∧ (t.proc u).l1 = (s.proc u).l1
            ∧ (t.proc u).grans = (s.proc u).grans))
      ∧ (exec (.stfe h ty a b) s = .next t →
        same ∧ keepsOutside s t ∧ others
        ∧ (∀ u, (t.proc u).sp = (s.proc u).sp ∧ (t.proc u).full = (s.proc u).full ∧ (t.proc u).spPoison = (s.proc u).spPoison
            ∧ (t.proc u).acc = (s.proc u).acc ∧ (t.proc u).l1 = (s.proc u).l1
            ∧ ∃ new, (t.proc u).grans = (s.proc u).grans ++ new ∧ ∀ e ∈ new, e.ctx = c ∧ e.load = false)))
    ∧ (∀ m : MemMod,
      let n := countOf m.cnt
      let sl := [addrSlot a, dataSlot ty n b]
      s.clear c h { rpt := true, st := true } sl = true →
        let v := s.view c h sl
        let eas := s.addresses v m.off
        let y := s.translateLanes c .write eas
        let own := s.ctxUnit c
        let apart (key pa : Nat) : Prop := ∀ z ∈ y.2, ∀ r sp, z.r = .ok (r, sp) →
          ¬(r.pa ≤ pa ∧ pa < r.pa + n * tyBytes ty) ∧ (r.pa / 128 = pa / 128 → leafKey r.leaf = key)
        misaligned (n * tyBytes ty) eas = none → writeTrap v.sup (tyBytes ty) y.2 = none →
        s.parksOn c eas = false → y.1.behindGranule c (n * tyBytes ty) (windowParts y.2) = false →
        (m.ord == .rel && y.1.unperformed c) = false → y.1.lacksRoom c true y.2 = none →
        (∀ e ∈ (s.proc own).l1, e.2.mask = 0) → y.1.l2.length + y.1.hostLines.length + 64 ≤ Config.l2Lines → s.migs = [] →
        (∀ p ∈ windowParts y.2, ∀ e ∈ (s.proc p.2.1).grans, e.granule ∉ granulesOf p.2.2 (n * tyBytes ty)) →
        exec (.st h ty a b m) s = .next t →
          (∀ key pa, apart key pa → t.byteUnder key pa = y.1.byteUnder key pa)
          ∧ (s.watches = [] → s.versions = [] →
              same ∧ others ∧ (∀ u, u ≠ own → (t.proc u).l1 = (s.proc u).l1)
              ∧ (∀ line l i, Cells.find (t.proc own).l1 line = some l → i < 128 → apart l.key (128 * line + i) →
                  l.mask.getLsbD i = false
                  ∧ ((∃ l0, Cells.find (s.proc own).l1 line = some l0 ∧ l0.key = l.key ∧ lineByte l.data i = lineByte l0.data i)
                    ∨ lineByte l.data i = y.1.byteUnder l.key (128 * line + i)))))
end

