-- ==== Sys2Proof/Laws/Cells.lean ====
section
/-! SUPPORT. Reading after writing in finite tables and memories, and the canonical form of a memory, which
every memory operation keeps. -/

namespace Sys2Proof.Laws
open Sys2Proof.Machine

/-! ### Reading -/

@[simp] theorem Cells.get_nil {α : Type} (d : α) (a : Nat) : Cells.get d ([] : Cells α) a = d := rfl

@[simp] theorem Cells.get_cons_same {α : Type} (d : α) (a : Nat) (v : α) (r : Cells α) : Cells.get d ((a, v) :: r) a = v := by
  simp [Cells.get]

theorem Cells.get_cons_other {α : Type} (d : α) {a k : Nat} (v : α) (r : Cells α) (h : a ≠ k) :
    Cells.get d ((k, v) :: r) a = Cells.get d r a := by simp [Cells.get, h]

@[simp] theorem Cells.get_set_same {α : Type} (d : α) (m : Cells α) (a : Nat) (v : α) : Cells.get d (Cells.set m a v) a = v := by
  induction m with
  | nil => simp [Cells.set]
  | cons x r ih =>
    obtain ⟨k, w⟩ := x
    unfold Cells.set
    split
    · simp
    · split
      · simp
      · rename_i h; rw [Cells.get_cons_other _ _ _ h, ih]

theorem Cells.get_set_other {α : Type} (d : α) (m : Cells α) {a b : Nat} (v : α) (h : b ≠ a) :
    Cells.get d (Cells.set m a v) b = Cells.get d m b := by
  induction m with
  | nil => simp [Cells.set, Cells.get, h]
  | cons x r ih =>
    obtain ⟨k, w⟩ := x
    unfold Cells.set
    split
    · rw [Cells.get_cons_other _ _ _ h]
    · split
      · rename_i hk; subst hk; rw [Cells.get_cons_other _ _ _ h, Cells.get_cons_other _ _ _ h]
      · by_cases hb : b = k
        · subst hb; simp
        · rw [Cells.get_cons_other _ _ _ hb, Cells.get_cons_other _ _ _ hb, ih]

@[simp] theorem Cells.get_erase_same {α : Type} (d : α) (m : Cells α) (a : Nat) : Cells.get d (Cells.erase m a) a = d := by
  induction m with
  | nil => rfl
  | cons x r ih =>
    obtain ⟨k, w⟩ := x
    unfold Cells.erase
    split
    · exact ih
    · rename_i h; rw [Cells.get_cons_other _ _ _ h, ih]

theorem Cells.get_erase_other {α : Type} (d : α) (m : Cells α) {a b : Nat} (h : b ≠ a) :
    Cells.get d (Cells.erase m a) b = Cells.get d m b := by
  induction m with
  | nil => rfl
  | cons x r ih =>
    obtain ⟨k, w⟩ := x
    unfold Cells.erase
    split
    · rename_i hk; subst hk; rw [ih, Cells.get_cons_other _ _ _ h]
    · by_cases hb : b = k
      · subst hb; simp
      · rw [Cells.get_cons_other _ _ _ hb, Cells.get_cons_other _ _ _ hb, ih]

@[simp] theorem Cells.get_put_same {α : Type} [DecidableEq α] (d : α) (m : Cells α) (a : Nat) (v : α) :
    Cells.get d (Cells.put d m a v) a = v := by
  unfold Cells.put
  split
  · rename_i h; rw [Cells.get_erase_same, h]
  · exact Cells.get_set_same d m a v

theorem Cells.get_put_other {α : Type} [DecidableEq α] (d : α) (m : Cells α) {a b : Nat} (v : α) (h : b ≠ a) :
    Cells.get d (Cells.put d m a v) b = Cells.get d m b := by
  unfold Cells.put
  split
  · exact Cells.get_erase_other d m h
  · exact Cells.get_set_other d m v h

@[simp] theorem Memory.read_write_same (m : List Host.Cell) (a : Nat) (b : Byte) : Memory.read (Memory.write m a b) a = b :=
  Cells.get_put_same 0 m a b

theorem Memory.read_write_other (m : List Host.Cell) {a x : Nat} (b : Byte) (h : x ≠ a) :
    Memory.read (Memory.write m a b) x = Memory.read m x := Cells.get_put_other 0 m b h

theorem Memory.read_writeN_below (bs : List Byte) (m : List Host.Cell) {a x : Nat} (h : x < a) :
    Memory.read (Memory.writeN m a bs) x = Memory.read m x := by
  induction bs generalizing m a with
  | nil => rfl
  | cons b r ih =>
    rw [Memory.writeN, ih _ (by omega), Memory.read_write_other _ _ (by omega)]

theorem Memory.read_writeN_above (bs : List Byte) (m : List Host.Cell) {a x : Nat} (h : a + bs.length ≤ x) :
    Memory.read (Memory.writeN m a bs) x = Memory.read m x := by
  induction bs generalizing m a with
  | nil => rfl
  | cons b r ih =>
    simp only [List.length_cons] at h
    rw [Memory.writeN, ih _ (by omega), Memory.read_write_other _ _ (by omega)]

/-- Bytes written are read back. -/
theorem Memory.readN_writeN (bs : List Byte) (m : List Host.Cell) (a : Nat) :
    Memory.readN (Memory.writeN m a bs) a bs.length = bs := by
  induction bs generalizing m a with
  | nil => rfl
  | cons b r ih =>
    simp only [Memory.writeN, List.length_cons, Memory.readN, ih]
    rw [Memory.read_writeN_below _ _ (by omega), Memory.read_write_same]

@[simp] theorem Memory.readN_length (m : List Host.Cell) (a n : Nat) : (Memory.readN m a n).length = n := by
  induction n generalizing a with
  | zero => rfl
  | succ n ih => simp [Memory.readN, ih]

/-! ### The canonical form -/

/-- A key lies above a bound, when one is given. -/
def belowKey (lo : Option Nat) (k : Nat) : Bool := match lo with | none => true | some b => decide (b < k)

theorem risingFrom_cons {α : Type} (lo : Option Nat) (k : Nat) (v : α) (r : Cells α) :
    Cells.risingFrom lo ((k, v) :: r) = (belowKey lo k && Cells.risingFrom (some k) r) := rfl

theorem risingFrom_set {α : Type} (lo : Option Nat) (m : Cells α) (a : Nat) (v : α) (hm : Cells.risingFrom lo m = true)
    (ha : belowKey lo a = true) : Cells.risingFrom lo (Cells.set m a v) = true := by
  induction m generalizing lo with
  | nil => simp only [Cells.set, risingFrom_cons, Cells.risingFrom, Bool.and_true]; exact ha
  | cons x r ih =>
    obtain ⟨k, w⟩ := x
    simp only [risingFrom_cons, Bool.and_eq_true] at hm
    unfold Cells.set
    split
    · rename_i hk
      simp only [risingFrom_cons, Bool.and_eq_true]
      exact ⟨ha, by simpa [belowKey] using hk, hm.2⟩
    · split
      · rename_i h; subst h
        simp only [risingFrom_cons, Bool.and_eq_true]; exact hm
      · simp only [risingFrom_cons, Bool.and_eq_true]
        exact ⟨hm.1, ih (some k) hm.2 (by simp [belowKey]; omega)⟩

theorem risingFrom_weaken {α : Type} (lo : Option Nat) (k : Nat) (m : Cells α) (hm : Cells.risingFrom (some k) m = true)
    (hk : belowKey lo k = true) : Cells.risingFrom lo m = true := by
  cases m with
  | nil => rfl
  | cons x r =>
    obtain ⟨j, w⟩ := x
    simp only [risingFrom_cons, Bool.and_eq_true] at hm ⊢
    refine ⟨?_, hm.2⟩
    cases lo with
    | none => rfl
    | some b => simp [belowKey] at hk hm ⊢; omega

theorem risingFrom_erase {α : Type} (lo : Option Nat) (m : Cells α) (a : Nat) (hm : Cells.risingFrom lo m = true) :
    Cells.risingFrom lo (Cells.erase m a) = true := by
  induction m generalizing lo with
  | nil => rfl
  | cons x r ih =>
    obtain ⟨k, w⟩ := x
    simp only [risingFrom_cons, Bool.and_eq_true] at hm
    unfold Cells.erase
    split
    · exact ih lo (risingFrom_weaken lo k r hm.2 hm.1)
    · simp only [risingFrom_cons, Bool.and_eq_true]; exact ⟨hm.1, ih _ hm.2⟩

theorem all_set {α : Type} (p : Nat × α → Bool) (m : Cells α) (a : Nat) (v : α) (hm : m.all p = true) (hv : p (a, v) = true) :
    (Cells.set m a v).all p = true := by
  induction m with
  | nil => simp [Cells.set, hv]
  | cons x r ih =>
    obtain ⟨k, w⟩ := x
    simp only [List.all_cons, Bool.and_eq_true] at hm
    unfold Cells.set
    split
    · simp [hv, hm.1, hm.2]
    · split
      · simp [hv, hm.2]
      · simp [hm.1, ih hm.2]

theorem all_erase {α : Type} (p : Nat × α → Bool) (m : Cells α) (a : Nat) (hm : m.all p = true) : (Cells.erase m a).all p = true := by
  induction m with
  | nil => rfl
  | cons x r ih =>
    obtain ⟨k, w⟩ := x
    simp only [List.all_cons, Bool.and_eq_true] at hm
    unfold Cells.erase
    split
    · exact ih hm.2
    · simp [hm.1, ih hm.2]

theorem Memory.wf_nil : Memory.wf [] = true := rfl

/-- A byte written keeps the canonical form. -/
theorem Memory.wf_write (m : List Host.Cell) (a : Nat) (b : Byte) (h : Memory.wf m = true) : Memory.wf (Memory.write m a b) = true := by
  simp only [Memory.wf, Cells.rising, Bool.and_eq_true] at h ⊢
  unfold Memory.write Cells.put
  split
  · exact ⟨risingFrom_erase _ _ _ h.1, all_erase _ _ _ h.2⟩
  · rename_i hb
    exact ⟨risingFrom_set _ _ _ _ h.1 rfl, all_set _ _ _ _ h.2 (by simpa using hb)⟩

/-- Bytes written keep the canonical form. -/
theorem Memory.wf_writeN (bs : List Byte) (m : List Host.Cell) (a : Nat) (h : Memory.wf m = true) :
    Memory.wf (Memory.writeN m a bs) = true := by
  induction bs generalizing m a with
  | nil => exact h
  | cons b r ih => exact ih _ _ (Memory.wf_write m a b h)

end Sys2Proof.Laws
end

