-- ==== Sys2Proof/Laws/Group.lean ====
section
/-! SUPPORT. A group changed is that group changed, and no other. -/

namespace Sys2Proof.Laws
open Sys2Proof Sys2Proof.Machine

/-- A list with one place changed, read. -/
theorem modifyAt_get {α : Type} (l : List α) (k : Nat) (f : α → α) (j : Nat) :
    (modifyAt l k f)[j]? = if j = k then l[j]?.map f else l[j]? := by
  simp only [modifyAt, List.getElem?_mapIdx]
  split <;> cases l[j]? <;> simp_all

/-- A unit changed, read. -/
theorem proc_onProc (s : State) (u w : Nat) (f : Proc → Proc) : (s.onProc u f).proc w = if w = u then f (s.proc u) else s.proc w := by
  simp only [State.onProc, State.setProc, State.proc]
  split
  · rename_i h; rw [h, Cells.get_set_same]
  · rename_i h; rw [Cells.get_set_other _ _ _ h]

/-- A supervisor slot changed, read. -/
theorem sup_onSup (s : State) (u k w j : Nat) (f : SupSlot → SupSlot) :
    (s.onSup u k f).sup w j = if w = u ∧ j = k then f (s.sup u k) else s.sup w j := by
  simp only [State.sup, State.onSup, proc_onProc]
  by_cases h : w = u
  · subst h
    by_cases hj : j = k
    · subst hj; simp
    · simp [hj, Cells.get_set_other]
  · simp [h]

/-- A block changed, read. -/
theorem block_onBlock (s : State) (bid b : Nat) (f : Block → Block) (hf : ∀ x, (f x).bid = x.bid) :
    (s.onBlock bid f).block? b = (s.block? b).map (fun x => if b = bid then f x else x) := by
  simp only [State.block?, State.onBlock, List.find?_map]
  rw [show (fun (x : Block) => decide (x.bid = b)) ∘ (fun x => if x.bid = bid then f x else x) = (fun x => decide (x.bid = b)) from ?_]
  · cases h : s.blocks.find? (fun x => decide (x.bid = b)) with
    | none => rfl
    | some x =>
      have : x.bid = b := by simpa using List.find?_some h
      simp [this]
  · funext x; simp only [Function.comp]; split <;> simp [hf]

/-- The group changed, read. -/
theorem group_onGroup (s : State) (c : Ctx) (f : Group → Group) : (s.onGroup c f).group? c = (s.group? c).map f := by
  cases c with
  | sup u k => simp [State.onGroup, State.group?, sup_onSup]
  | grp bid k =>
    simp only [State.group?, State.onGroup]
    rw [block_onBlock s bid _ (fun x => { x with groups := modifyAt x.groups k f }) (fun _ => rfl)]
    cases s.block? bid <;> simp [modifyAt_get]

/-- Every other group is as it was. -/
theorem group_onGroup_ne (s : State) (c c' : Ctx) (f : Group → Group) (h : c' ≠ c) : (s.onGroup c f).group? c' = s.group? c' := by
  cases c with
  | sup u k =>
    cases c' with
    | grp _ _ => rfl
    | sup u' k' =>
      simp only [State.onGroup, State.group?, sup_onSup]
      rw [if_neg]
      rintro ⟨rfl, rfl⟩; exact h rfl
  | grp bid k =>
    cases c' with
    | sup _ _ => rfl
    | grp b' k' =>
      simp only [State.group?, State.onGroup]
      rw [block_onBlock s bid _ (fun x => { x with groups := modifyAt x.groups k f }) (fun _ => rfl)]
      cases s.block? b' with
      | none => rfl
      | some x =>
        simp only [Option.map_some, Option.bind_some]
        split
        · rename_i hb
          rw [modifyAt_get, if_neg]
          intro hk; exact h (by rw [hb, hk])
        · rfl

/-- The unit of a context is as it was. -/
theorem ctxUnit_onGroup (s : State) (c c' : Ctx) (f : Group → Group) : (s.onGroup c f).ctxUnit c' = s.ctxUnit c' := by
  cases c' with
  | sup _ _ => rfl
  | grp b k =>
    cases c with
    | sup _ _ => rfl
    | grp bid j =>
      simp only [State.ctxUnit, State.onGroup]
      rw [block_onBlock s bid _ (fun x => { x with groups := modifyAt x.groups j f }) (fun _ => rfl)]
      cases s.block? b with
      | none => rfl
      | some x => simp only [Option.map_some]; split <;> rfl

/-! ### Releases and acquires (Table 12-4) -/

/-- A clean line's write-back changes nothing. -/
theorem l1WriteBack_clean {s : State} {core line : Nat} (h : ∀ l, Cells.find (s.proc core).l1 line = some l → l.mask = 0) :
    s.l1WriteBack core line = s := by
  unfold State.l1WriteBack
  split
  · rfl
  · rename_i l hl; simp [h l hl]

/-- A release within a block's scope only orders the group's earlier loads. -/
theorem release_narrow {sc : Scope} (h : Scope.wide sc = false) (s : State) (c : Ctx) : s.release c sc = s.orders c := by
  simp [State.release, State.cleanFor, h]

/-- An acquire within a block's scope only orders the group's earlier loads. -/
theorem acquire_narrow {sc : Scope} (h : Scope.wide sc = false) (s : State) (c : Ctx) : s.acquire c sc = s.orders c := by
  simp [State.acquire, State.flushFor, h]

@[simp] theorem orders_regs (g : Group) : g.orders.regs = g.regs := rfl
@[simp] theorem orders_scal (g : Group) : g.orders.scal = g.scal := rfl
@[simp] theorem orders_lanes (g : Group) : g.orders.lanes = g.lanes := rfl
@[simp] theorem orders_flags (g : Group) : g.orders.flags = g.flags := rfl
@[simp] theorem orders_hold (g : Group) : g.orders.hold = g.hold := rfl
@[simp] theorem orders_pend (g : Group) : g.orders.pend = g.pend := rfl
@[simp] theorem orders_nextId (g : Group) : g.orders.nextId = g.nextId := rfl
@[simp] theorem orders_ordered (g : Group) : g.orders.ordered = g.nextId := rfl

end Sys2Proof.Laws
end

