-- ==== Sys2Proof/Laws/State.lean ====
section
/-! SUPPORT. What each update of the state leaves as it was, field by field, and what it sets. -/

namespace Sys2Proof.Laws
open Sys2Proof.Machine

/-! ### `setProc` -/

@[simp] theorem setProc_turns (s : State) (u : Nat) (p : Proc) : (s.setProc u p).turns = s.turns := rfl
@[simp] theorem setProc_rotor (s : State) (u : Nat) (p : Proc) : (s.setProc u p).rotor = s.rotor := rfl
@[simp] theorem setProc_sel (s : State) (u : Nat) (p : Proc) : (s.setProc u p).sel = s.sel := rfl
@[simp] theorem setProc_fresh (s : State) (u : Nat) (p : Proc) : (s.setProc u p).fresh = s.fresh := rfl
@[simp] theorem setProc_time (s : State) (u : Nat) (p : Proc) : (s.setProc u p).time = s.time := rfl
@[simp] theorem setProc_phase20 (s : State) (u : Nat) (p : Proc) : (s.setProc u p).phase20 = s.phase20 := rfl
@[simp] theorem setProc_cfg (s : State) (u : Nat) (p : Proc) : (s.setProc u p).cfg = s.cfg := rfl
@[simp] theorem setProc_cxlg (s : State) (u : Nat) (p : Proc) : (s.setProc u p).cxlg = s.cxlg := rfl
@[simp] theorem setProc_cxlgWritten (s : State) (u : Nat) (p : Proc) : (s.setProc u p).cxlgWritten = s.cxlgWritten := rfl
@[simp] theorem setProc_cxlGib (s : State) (u : Nat) (p : Proc) : (s.setProc u p).cxlGib = s.cxlGib := rfl
@[simp] theorem setProc_plat (s : State) (u : Nat) (p : Proc) : (s.setProc u p).plat = s.plat := rfl
@[simp] theorem setProc_host (s : State) (u : Nat) (p : Proc) : (s.setProc u p).host = s.host := rfl
@[simp] theorem setProc_port (s : State) (u : Nat) (p : Proc) : (s.setProc u p).port = s.port := rfl
@[simp] theorem setProc_ulDown (s : State) (u : Nat) (p : Proc) : (s.setProc u p).ulDown = s.ulDown := rfl
@[simp] theorem setProc_dlink (s : State) (u : Nat) (p : Proc) : (s.setProc u p).dlink = s.dlink := rfl
@[simp] theorem setProc_dead (s : State) (u : Nat) (p : Proc) : (s.setProc u p).dead = s.dead := rfl
@[simp] theorem setProc_queues (s : State) (u : Nat) (p : Proc) : (s.setProc u p).queues = s.queues := rfl
@[simp] theorem setProc_parts (s : State) (u : Nat) (p : Proc) : (s.setProc u p).parts = s.parts := rfl
@[simp] theorem setProc_arb (s : State) (u : Nat) (p : Proc) : (s.setProc u p).arb = s.arb := rfl
@[simp] theorem setProc_launches (s : State) (u : Nat) (p : Proc) : (s.setProc u p).launches = s.launches := rfl
@[simp] theorem setProc_blocks (s : State) (u : Nat) (p : Proc) : (s.setProc u p).blocks = s.blocks := rfl
@[simp] theorem setProc_images (s : State) (u : Nat) (p : Proc) : (s.setProc u p).images = s.images := rfl
@[simp] theorem setProc_pool (s : State) (u : Nat) (p : Proc) : (s.setProc u p).pool = s.pool := rfl
@[simp] theorem setProc_nextBid (s : State) (u : Nat) (p : Proc) : (s.setProc u p).nextBid = s.nextBid := rfl
@[simp] theorem setProc_nextCmd (s : State) (u : Nat) (p : Proc) : (s.setProc u p).nextCmd = s.nextCmd := rfl
@[simp] theorem setProc_mem (s : State) (u : Nat) (p : Proc) : (s.setProc u p).mem = s.mem := rfl
@[simp] theorem setProc_keyOf (s : State) (u : Nat) (p : Proc) : (s.setProc u p).keyOf = s.keyOf := rfl
@[simp] theorem setProc_poison (s : State) (u : Nat) (p : Proc) : (s.setProc u p).poison = s.poison := rfl
@[simp] theorem setProc_colErr (s : State) (u : Nat) (p : Proc) : (s.setProc u p).colErr = s.colErr := rfl
@[simp] theorem setProc_reported (s : State) (u : Nat) (p : Proc) : (s.setProc u p).reported = s.reported := rfl
@[simp] theorem setProc_l2 (s : State) (u : Nat) (p : Proc) : (s.setProc u p).l2 = s.l2 := rfl
@[simp] theorem setProc_hostLines (s : State) (u : Nat) (p : Proc) : (s.setProc u p).hostLines = s.hostLines := rfl
@[simp] theorem setProc_held (s : State) (u : Nat) (p : Proc) : (s.setProc u p).held = s.held := rfl
@[simp] theorem setProc_watches (s : State) (u : Nat) (p : Proc) : (s.setProc u p).watches = s.watches := rfl
@[simp] theorem setProc_watchSeq (s : State) (u : Nat) (p : Proc) : (s.setProc u p).watchSeq = s.watchSeq := rfl
@[simp] theorem setProc_wovlb (s : State) (u : Nat) (p : Proc) : (s.setProc u p).wovlb = s.wovlb := rfl
@[simp] theorem setProc_wovln (s : State) (u : Nat) (p : Proc) : (s.setProc u p).wovln = s.wovln := rfl
@[simp] theorem setProc_migs (s : State) (u : Nat) (p : Proc) : (s.setProc u p).migs = s.migs := rfl
@[simp] theorem setProc_versions (s : State) (u : Nat) (p : Proc) : (s.setProc u p).versions = s.versions := rfl
@[simp] theorem setProc_tfront (s : State) (u : Nat) (p : Proc) : (s.setProc u p).tfront = s.tfront := rfl
@[simp] theorem setProc_sampledAt (s : State) (u : Nat) (p : Proc) : (s.setProc u p).sampledAt = s.sampledAt := rfl
@[simp] theorem setProc_calls (s : State) (u : Nat) (p : Proc) : (s.setProc u p).calls = s.calls := rfl
@[simp] theorem setProc_nextCall (s : State) (u : Nat) (p : Proc) : (s.setProc u p).nextCall = s.nextCall := rfl
@[simp] theorem setProc_packets (s : State) (u : Nat) (p : Proc) : (s.setProc u p).packets = s.packets := rfl
@[simp] theorem setProc_lands (s : State) (u : Nat) (p : Proc) : (s.setProc u p).lands = s.lands := rfl
@[simp] theorem setProc_ghosts (s : State) (u : Nat) (p : Proc) : (s.setProc u p).ghosts = s.ghosts := rfl
@[simp] theorem setProc_colClass (s : State) (u : Nat) (p : Proc) : (s.setProc u p).colClass = s.colClass := rfl
@[simp] theorem setProc_hostBad (s : State) (u : Nat) (p : Proc) : (s.setProc u p).hostBad = s.hostBad := rfl
@[simp] theorem setProc_rereads (s : State) (u : Nat) (p : Proc) : (s.setProc u p).rereads = s.rereads := rfl
@[simp] theorem setProc_sent (s : State) (u : Nat) (p : Proc) : (s.setProc u p).sent = s.sent := rfl

@[simp] theorem setProc_units (s : State) (u : Nat) (p : Proc) : (s.setProc u p).units = Cells.set s.units u p := rfl

/-! ### `onProc` -/

@[simp] theorem onProc_turns (s : State) (u : Nat) (f : Proc → Proc) : (s.onProc u f).turns = s.turns := rfl
@[simp] theorem onProc_rotor (s : State) (u : Nat) (f : Proc → Proc) : (s.onProc u f).rotor = s.rotor := rfl
@[simp] theorem onProc_sel (s : State) (u : Nat) (f : Proc → Proc) : (s.onProc u f).sel = s.sel := rfl
@[simp] theorem onProc_fresh (s : State) (u : Nat) (f : Proc → Proc) : (s.onProc u f).fresh = s.fresh := rfl
@[simp] theorem onProc_time (s : State) (u : Nat) (f : Proc → Proc) : (s.onProc u f).time = s.time := rfl
@[simp] theorem onProc_phase20 (s : State) (u : Nat) (f : Proc → Proc) : (s.onProc u f).phase20 = s.phase20 := rfl
@[simp] theorem onProc_cfg (s : State) (u : Nat) (f : Proc → Proc) : (s.onProc u f).cfg = s.cfg := rfl
@[simp] theorem onProc_cxlg (s : State) (u : Nat) (f : Proc → Proc) : (s.onProc u f).cxlg = s.cxlg := rfl
@[simp] theorem onProc_cxlgWritten (s : State) (u : Nat) (f : Proc → Proc) : (s.onProc u f).cxlgWritten = s.cxlgWritten := rfl
@[simp] theorem onProc_cxlGib (s : State) (u : Nat) (f : Proc → Proc) : (s.onProc u f).cxlGib = s.cxlGib := rfl
@[simp] theorem onProc_plat (s : State) (u : Nat) (f : Proc → Proc) : (s.onProc u f).plat = s.plat := rfl
@[simp] theorem onProc_host (s : State) (u : Nat) (f : Proc → Proc) : (s.onProc u f).host = s.host := rfl
@[simp] theorem onProc_port (s : State) (u : Nat) (f : Proc → Proc) : (s.onProc u f).port = s.port := rfl
@[simp] theorem onProc_ulDown (s : State) (u : Nat) (f : Proc → Proc) : (s.onProc u f).ulDown = s.ulDown := rfl
@[simp] theorem onProc_dlink (s : State) (u : Nat) (f : Proc → Proc) : (s.onProc u f).dlink = s.dlink := rfl
@[simp] theorem onProc_dead (s : State) (u : Nat) (f : Proc → Proc) : (s.onProc u f).dead = s.dead := rfl
@[simp] theorem onProc_queues (s : State) (u : Nat) (f : Proc → Proc) : (s.onProc u f).queues = s.queues := rfl
@[simp] theorem onProc_parts (s : State) (u : Nat) (f : Proc → Proc) : (s.onProc u f).parts = s.parts := rfl
@[simp] theorem onProc_arb (s : State) (u : Nat) (f : Proc → Proc) : (s.onProc u f).arb = s.arb := rfl
@[simp] theorem onProc_launches (s : State) (u : Nat) (f : Proc → Proc) : (s.onProc u f).launches = s.launches := rfl
@[simp] theorem onProc_blocks (s : State) (u : Nat) (f : Proc → Proc) : (s.onProc u f).blocks = s.blocks := rfl
@[simp] theorem onProc_images (s : State) (u : Nat) (f : Proc → Proc) : (s.onProc u f).images = s.images := rfl
@[simp] theorem onProc_pool (s : State) (u : Nat) (f : Proc → Proc) : (s.onProc u f).pool = s.pool := rfl
@[simp] theorem onProc_nextBid (s : State) (u : Nat) (f : Proc → Proc) : (s.onProc u f).nextBid = s.nextBid := rfl
@[simp] theorem onProc_nextCmd (s : State) (u : Nat) (f : Proc → Proc) : (s.onProc u f).nextCmd = s.nextCmd := rfl
@[simp] theorem onProc_mem (s : State) (u : Nat) (f : Proc → Proc) : (s.onProc u f).mem = s.mem := rfl
@[simp] theorem onProc_keyOf (s : State) (u : Nat) (f : Proc → Proc) : (s.onProc u f).keyOf = s.keyOf := rfl
@[simp] theorem onProc_poison (s : State) (u : Nat) (f : Proc → Proc) : (s.onProc u f).poison = s.poison := rfl
@[simp] theorem onProc_colErr (s : State) (u : Nat) (f : Proc → Proc) : (s.onProc u f).colErr = s.colErr := rfl
@[simp] theorem onProc_reported (s : State) (u : Nat) (f : Proc → Proc) : (s.onProc u f).reported = s.reported := rfl
@[simp] theorem onProc_l2 (s : State) (u : Nat) (f : Proc → Proc) : (s.onProc u f).l2 = s.l2 := rfl
@[simp] theorem onProc_hostLines (s : State) (u : Nat) (f : Proc → Proc) : (s.onProc u f).hostLines = s.hostLines := rfl
@[simp] theorem onProc_held (s : State) (u : Nat) (f : Proc → Proc) : (s.onProc u f).held = s.held := rfl
@[simp] theorem onProc_watches (s : State) (u : Nat) (f : Proc → Proc) : (s.onProc u f).watches = s.watches := rfl
@[simp] theorem onProc_watchSeq (s : State) (u : Nat) (f : Proc → Proc) : (s.onProc u f).watchSeq = s.watchSeq := rfl
@[simp] theorem onProc_wovlb (s : State) (u : Nat) (f : Proc → Proc) : (s.onProc u f).wovlb = s.wovlb := rfl
@[simp] theorem onProc_wovln (s : State) (u : Nat) (f : Proc → Proc) : (s.onProc u f).wovln = s.wovln := rfl
@[simp] theorem onProc_migs (s : State) (u : Nat) (f : Proc → Proc) : (s.onProc u f).migs = s.migs := rfl
@[simp] theorem onProc_versions (s : State) (u : Nat) (f : Proc → Proc) : (s.onProc u f).versions = s.versions := rfl
@[simp] theorem onProc_tfront (s : State) (u : Nat) (f : Proc → Proc) : (s.onProc u f).tfront = s.tfront := rfl
@[simp] theorem onProc_sampledAt (s : State) (u : Nat) (f : Proc → Proc) : (s.onProc u f).sampledAt = s.sampledAt := rfl
@[simp] theorem onProc_calls (s : State) (u : Nat) (f : Proc → Proc) : (s.onProc u f).calls = s.calls := rfl
@[simp] theorem onProc_nextCall (s : State) (u : Nat) (f : Proc → Proc) : (s.onProc u f).nextCall = s.nextCall := rfl
@[simp] theorem onProc_packets (s : State) (u : Nat) (f : Proc → Proc) : (s.onProc u f).packets = s.packets := rfl
@[simp] theorem onProc_lands (s : State) (u : Nat) (f : Proc → Proc) : (s.onProc u f).lands = s.lands := rfl
@[simp] theorem onProc_ghosts (s : State) (u : Nat) (f : Proc → Proc) : (s.onProc u f).ghosts = s.ghosts := rfl
@[simp] theorem onProc_colClass (s : State) (u : Nat) (f : Proc → Proc) : (s.onProc u f).colClass = s.colClass := rfl
@[simp] theorem onProc_hostBad (s : State) (u : Nat) (f : Proc → Proc) : (s.onProc u f).hostBad = s.hostBad := rfl
@[simp] theorem onProc_rereads (s : State) (u : Nat) (f : Proc → Proc) : (s.onProc u f).rereads = s.rereads := rfl
@[simp] theorem onProc_sent (s : State) (u : Nat) (f : Proc → Proc) : (s.onProc u f).sent = s.sent := rfl

@[simp] theorem onProc_units (s : State) (u : Nat) (f : Proc → Proc) : (s.onProc u f).units = Cells.set s.units u (f (s.proc u)) := rfl

/-! ### `onBlock` -/

@[simp] theorem onBlock_turns (s : State) (b : Nat) (f : Block → Block) : (s.onBlock b f).turns = s.turns := rfl
@[simp] theorem onBlock_rotor (s : State) (b : Nat) (f : Block → Block) : (s.onBlock b f).rotor = s.rotor := rfl
@[simp] theorem onBlock_sel (s : State) (b : Nat) (f : Block → Block) : (s.onBlock b f).sel = s.sel := rfl
@[simp] theorem onBlock_fresh (s : State) (b : Nat) (f : Block → Block) : (s.onBlock b f).fresh = s.fresh := rfl
@[simp] theorem onBlock_time (s : State) (b : Nat) (f : Block → Block) : (s.onBlock b f).time = s.time := rfl
@[simp] theorem onBlock_phase20 (s : State) (b : Nat) (f : Block → Block) : (s.onBlock b f).phase20 = s.phase20 := rfl
@[simp] theorem onBlock_cfg (s : State) (b : Nat) (f : Block → Block) : (s.onBlock b f).cfg = s.cfg := rfl
@[simp] theorem onBlock_cxlg (s : State) (b : Nat) (f : Block → Block) : (s.onBlock b f).cxlg = s.cxlg := rfl
@[simp] theorem onBlock_cxlgWritten (s : State) (b : Nat) (f : Block → Block) : (s.onBlock b f).cxlgWritten = s.cxlgWritten := rfl
@[simp] theorem onBlock_cxlGib (s : State) (b : Nat) (f : Block → Block) : (s.onBlock b f).cxlGib = s.cxlGib := rfl
@[simp] theorem onBlock_plat (s : State) (b : Nat) (f : Block → Block) : (s.onBlock b f).plat = s.plat := rfl
@[simp] theorem onBlock_host (s : State) (b : Nat) (f : Block → Block) : (s.onBlock b f).host = s.host := rfl
@[simp] theorem onBlock_port (s : State) (b : Nat) (f : Block → Block) : (s.onBlock b f).port = s.port := rfl
@[simp] theorem onBlock_ulDown (s : State) (b : Nat) (f : Block → Block) : (s.onBlock b f).ulDown = s.ulDown := rfl
@[simp] theorem onBlock_dlink (s : State) (b : Nat) (f : Block → Block) : (s.onBlock b f).dlink = s.dlink := rfl
@[simp] theorem onBlock_dead (s : State) (b : Nat) (f : Block → Block) : (s.onBlock b f).dead = s.dead := rfl
@[simp] theorem onBlock_queues (s : State) (b : Nat) (f : Block → Block) : (s.onBlock b f).queues = s.queues := rfl
@[simp] theorem onBlock_parts (s : State) (b : Nat) (f : Block → Block) : (s.onBlock b f).parts = s.parts := rfl
@[simp] theorem onBlock_arb (s : State) (b : Nat) (f : Block → Block) : (s.onBlock b f).arb = s.arb := rfl
@[simp] theorem onBlock_launches (s : State) (b : Nat) (f : Block → Block) : (s.onBlock b f).launches = s.launches := rfl
@[simp] theorem onBlock_images (s : State) (b : Nat) (f : Block → Block) : (s.onBlock b f).images = s.images := rfl
@[simp] theorem onBlock_pool (s : State) (b : Nat) (f : Block → Block) : (s.onBlock b f).pool = s.pool := rfl
@[simp] theorem onBlock_units (s : State) (b : Nat) (f : Block → Block) : (s.onBlock b f).units = s.units := rfl
@[simp] theorem onBlock_nextBid (s : State) (b : Nat) (f : Block → Block) : (s.onBlock b f).nextBid = s.nextBid := rfl
@[simp] theorem onBlock_nextCmd (s : State) (b : Nat) (f : Block → Block) : (s.onBlock b f).nextCmd = s.nextCmd := rfl
@[simp] theorem onBlock_mem (s : State) (b : Nat) (f : Block → Block) : (s.onBlock b f).mem = s.mem := rfl
@[simp] theorem onBlock_keyOf (s : State) (b : Nat) (f : Block → Block) : (s.onBlock b f).keyOf = s.keyOf := rfl
@[simp] theorem onBlock_poison (s : State) (b : Nat) (f : Block → Block) : (s.onBlock b f).poison = s.poison := rfl
@[simp] theorem onBlock_colErr (s : State) (b : Nat) (f : Block → Block) : (s.onBlock b f).colErr = s.colErr := rfl
@[simp] theorem onBlock_reported (s : State) (b : Nat) (f : Block → Block) : (s.onBlock b f).reported = s.reported := rfl
@[simp] theorem onBlock_l2 (s : State) (b : Nat) (f : Block → Block) : (s.onBlock b f).l2 = s.l2 := rfl
@[simp] theorem onBlock_hostLines (s : State) (b : Nat) (f : Block → Block) : (s.onBlock b f).hostLines = s.hostLines := rfl
@[simp] theorem onBlock_held (s : State) (b : Nat) (f : Block → Block) : (s.onBlock b f).held = s.held := rfl
@[simp] theorem onBlock_watches (s : State) (b : Nat) (f : Block → Block) : (s.onBlock b f).watches = s.watches := rfl
@[simp] theorem onBlock_watchSeq (s : State) (b : Nat) (f : Block → Block) : (s.onBlock b f).watchSeq = s.watchSeq := rfl
@[simp] theorem onBlock_wovlb (s : State) (b : Nat) (f : Block → Block) : (s.onBlock b f).wovlb = s.wovlb := rfl
@[simp] theorem onBlock_wovln (s : State) (b : Nat) (f : Block → Block) : (s.onBlock b f).wovln = s.wovln := rfl
@[simp] theorem onBlock_migs (s : State) (b : Nat) (f : Block → Block) : (s.onBlock b f).migs = s.migs := rfl
@[simp] theorem onBlock_versions (s : State) (b : Nat) (f : Block → Block) : (s.onBlock b f).versions = s.versions := rfl
@[simp] theorem onBlock_tfront (s : State) (b : Nat) (f : Block → Block) : (s.onBlock b f).tfront = s.tfront := rfl
@[simp] theorem onBlock_sampledAt (s : State) (b : Nat) (f : Block → Block) : (s.onBlock b f).sampledAt = s.sampledAt := rfl
@[simp] theorem onBlock_calls (s : State) (b : Nat) (f : Block → Block) : (s.onBlock b f).calls = s.calls := rfl
@[simp] theorem onBlock_nextCall (s : State) (b : Nat) (f : Block → Block) : (s.onBlock b f).nextCall = s.nextCall := rfl
@[simp] theorem onBlock_packets (s : State) (b : Nat) (f : Block → Block) : (s.onBlock b f).packets = s.packets := rfl
@[simp] theorem onBlock_lands (s : State) (b : Nat) (f : Block → Block) : (s.onBlock b f).lands = s.lands := rfl
@[simp] theorem onBlock_ghosts (s : State) (b : Nat) (f : Block → Block) : (s.onBlock b f).ghosts = s.ghosts := rfl
@[simp] theorem onBlock_colClass (s : State) (b : Nat) (f : Block → Block) : (s.onBlock b f).colClass = s.colClass := rfl
@[simp] theorem onBlock_hostBad (s : State) (b : Nat) (f : Block → Block) : (s.onBlock b f).hostBad = s.hostBad := rfl
@[simp] theorem onBlock_rereads (s : State) (b : Nat) (f : Block → Block) : (s.onBlock b f).rereads = s.rereads := rfl
@[simp] theorem onBlock_sent (s : State) (b : Nat) (f : Block → Block) : (s.onBlock b f).sent = s.sent := rfl

@[simp] theorem onBlock_blocks (s : State) (b : Nat) (f : Block → Block) :
    (s.onBlock b f).blocks = s.blocks.map (fun x => if x.bid = b then f x else x) := rfl

/-! ### `onLaunch` -/

@[simp] theorem onLaunch_turns (s : State) (l : Nat) (f : Launch → Launch) : (s.onLaunch l f).turns = s.turns := rfl
@[simp] theorem onLaunch_rotor (s : State) (l : Nat) (f : Launch → Launch) : (s.onLaunch l f).rotor = s.rotor := rfl
@[simp] theorem onLaunch_sel (s : State) (l : Nat) (f : Launch → Launch) : (s.onLaunch l f).sel = s.sel := rfl
@[simp] theorem onLaunch_fresh (s : State) (l : Nat) (f : Launch → Launch) : (s.onLaunch l f).fresh = s.fresh := rfl
@[simp] theorem onLaunch_time (s : State) (l : Nat) (f : Launch → Launch) : (s.onLaunch l f).time = s.time := rfl
@[simp] theorem onLaunch_phase20 (s : State) (l : Nat) (f : Launch → Launch) : (s.onLaunch l f).phase20 = s.phase20 := rfl
@[simp] theorem onLaunch_cfg (s : State) (l : Nat) (f : Launch → Launch) : (s.onLaunch l f).cfg = s.cfg := rfl
@[simp] theorem onLaunch_cxlg (s : State) (l : Nat) (f : Launch → Launch) : (s.onLaunch l f).cxlg = s.cxlg := rfl
@[simp] theorem onLaunch_cxlgWritten (s : State) (l : Nat) (f : Launch → Launch) : (s.onLaunch l f).cxlgWritten = s.cxlgWritten := rfl
@[simp] theorem onLaunch_cxlGib (s : State) (l : Nat) (f : Launch → Launch) : (s.onLaunch l f).cxlGib = s.cxlGib := rfl
@[simp] theorem onLaunch_plat (s : State) (l : Nat) (f : Launch → Launch) : (s.onLaunch l f).plat = s.plat := rfl
@[simp] theorem onLaunch_host (s : State) (l : Nat) (f : Launch → Launch) : (s.onLaunch l f).host = s.host := rfl
@[simp] theorem onLaunch_port (s : State) (l : Nat) (f : Launch → Launch) : (s.onLaunch l f).port = s.port := rfl
@[simp] theorem onLaunch_ulDown (s : State) (l : Nat) (f : Launch → Launch) : (s.onLaunch l f).ulDown = s.ulDown := rfl
@[simp] theorem onLaunch_dlink (s : State) (l : Nat) (f : Launch → Launch) : (s.onLaunch l f).dlink = s.dlink := rfl
@[simp] theorem onLaunch_dead (s : State) (l : Nat) (f : Launch → Launch) : (s.onLaunch l f).dead = s.dead := rfl
@[simp] theorem onLaunch_queues (s : State) (l : Nat) (f : Launch → Launch) : (s.onLaunch l f).queues = s.queues := rfl
@[simp] theorem onLaunch_parts (s : State) (l : Nat) (f : Launch → Launch) : (s.onLaunch l f).parts = s.parts := rfl
@[simp] theorem onLaunch_arb (s : State) (l : Nat) (f : Launch → Launch) : (s.onLaunch l f).arb = s.arb := rfl
@[simp] theorem onLaunch_blocks (s : State) (l : Nat) (f : Launch → Launch) : (s.onLaunch l f).blocks = s.blocks := rfl
@[simp] theorem onLaunch_images (s : State) (l : Nat) (f : Launch → Launch) : (s.onLaunch l f).images = s.images := rfl
@[simp] theorem onLaunch_pool (s : State) (l : Nat) (f : Launch → Launch) : (s.onLaunch l f).pool = s.pool := rfl
@[simp] theorem onLaunch_units (s : State) (l : Nat) (f : Launch → Launch) : (s.onLaunch l f).units = s.units := rfl
@[simp] theorem onLaunch_nextBid (s : State) (l : Nat) (f : Launch → Launch) : (s.onLaunch l f).nextBid = s.nextBid := rfl
@[simp] theorem onLaunch_nextCmd (s : State) (l : Nat) (f : Launch → Launch) : (s.onLaunch l f).nextCmd = s.nextCmd := rfl
@[simp] theorem onLaunch_mem (s : State) (l : Nat) (f : Launch → Launch) : (s.onLaunch l f).mem = s.mem := rfl
@[simp] theorem onLaunch_keyOf (s : State) (l : Nat) (f : Launch → Launch) : (s.onLaunch l f).keyOf = s.keyOf := rfl
@[simp] theorem onLaunch_poison (s : State) (l : Nat) (f : Launch → Launch) : (s.onLaunch l f).poison = s.poison := rfl
@[simp] theorem onLaunch_colErr (s : State) (l : Nat) (f : Launch → Launch) : (s.onLaunch l f).colErr = s.colErr := rfl
@[simp] theorem onLaunch_reported (s : State) (l : Nat) (f : Launch → Launch) : (s.onLaunch l f).reported = s.reported := rfl
@[simp] theorem onLaunch_l2 (s : State) (l : Nat) (f : Launch → Launch) : (s.onLaunch l f).l2 = s.l2 := rfl
@[simp] theorem onLaunch_hostLines (s : State) (l : Nat) (f : Launch → Launch) : (s.onLaunch l f).hostLines = s.hostLines := rfl
@[simp] theorem onLaunch_held (s : State) (l : Nat) (f : Launch → Launch) : (s.onLaunch l f).held = s.held := rfl
@[simp] theorem onLaunch_watches (s : State) (l : Nat) (f : Launch → Launch) : (s.onLaunch l f).watches = s.watches := rfl
@[simp] theorem onLaunch_watchSeq (s : State) (l : Nat) (f : Launch → Launch) : (s.onLaunch l f).watchSeq = s.watchSeq := rfl
@[simp] theorem onLaunch_wovlb (s : State) (l : Nat) (f : Launch → Launch) : (s.onLaunch l f).wovlb = s.wovlb := rfl
@[simp] theorem onLaunch_wovln (s : State) (l : Nat) (f : Launch → Launch) : (s.onLaunch l f).wovln = s.wovln := rfl
@[simp] theorem onLaunch_migs (s : State) (l : Nat) (f : Launch → Launch) : (s.onLaunch l f).migs = s.migs := rfl
@[simp] theorem onLaunch_versions (s : State) (l : Nat) (f : Launch → Launch) : (s.onLaunch l f).versions = s.versions := rfl
@[simp] theorem onLaunch_tfront (s : State) (l : Nat) (f : Launch → Launch) : (s.onLaunch l f).tfront = s.tfront := rfl
@[simp] theorem onLaunch_sampledAt (s : State) (l : Nat) (f : Launch → Launch) : (s.onLaunch l f).sampledAt = s.sampledAt := rfl
@[simp] theorem onLaunch_calls (s : State) (l : Nat) (f : Launch → Launch) : (s.onLaunch l f).calls = s.calls := rfl
@[simp] theorem onLaunch_nextCall (s : State) (l : Nat) (f : Launch → Launch) : (s.onLaunch l f).nextCall = s.nextCall := rfl
@[simp] theorem onLaunch_packets (s : State) (l : Nat) (f : Launch → Launch) : (s.onLaunch l f).packets = s.packets := rfl
@[simp] theorem onLaunch_lands (s : State) (l : Nat) (f : Launch → Launch) : (s.onLaunch l f).lands = s.lands := rfl
@[simp] theorem onLaunch_ghosts (s : State) (l : Nat) (f : Launch → Launch) : (s.onLaunch l f).ghosts = s.ghosts := rfl
@[simp] theorem onLaunch_colClass (s : State) (l : Nat) (f : Launch → Launch) : (s.onLaunch l f).colClass = s.colClass := rfl
@[simp] theorem onLaunch_hostBad (s : State) (l : Nat) (f : Launch → Launch) : (s.onLaunch l f).hostBad = s.hostBad := rfl
@[simp] theorem onLaunch_rereads (s : State) (l : Nat) (f : Launch → Launch) : (s.onLaunch l f).rereads = s.rereads := rfl
@[simp] theorem onLaunch_sent (s : State) (l : Nat) (f : Launch → Launch) : (s.onLaunch l f).sent = s.sent := rfl

@[simp] theorem onLaunch_launches (s : State) (l : Nat) (f : Launch → Launch) :
    (s.onLaunch l f).launches = s.launches.map (fun x => if x.lid = l then f x else x) := rfl

/-! ### `onSup` -/

@[simp] theorem onSup_turns (s : State) (u i : Nat) (f : SupSlot → SupSlot) : (s.onSup u i f).turns = s.turns := rfl
@[simp] theorem onSup_rotor (s : State) (u i : Nat) (f : SupSlot → SupSlot) : (s.onSup u i f).rotor = s.rotor := rfl
@[simp] theorem onSup_sel (s : State) (u i : Nat) (f : SupSlot → SupSlot) : (s.onSup u i f).sel = s.sel := rfl
@[simp] theorem onSup_fresh (s : State) (u i : Nat) (f : SupSlot → SupSlot) : (s.onSup u i f).fresh = s.fresh := rfl
@[simp] theorem onSup_time (s : State) (u i : Nat) (f : SupSlot → SupSlot) : (s.onSup u i f).time = s.time := rfl
@[simp] theorem onSup_phase20 (s : State) (u i : Nat) (f : SupSlot → SupSlot) : (s.onSup u i f).phase20 = s.phase20 := rfl
@[simp] theorem onSup_cfg (s : State) (u i : Nat) (f : SupSlot → SupSlot) : (s.onSup u i f).cfg = s.cfg := rfl
@[simp] theorem onSup_cxlg (s : State) (u i : Nat) (f : SupSlot → SupSlot) : (s.onSup u i f).cxlg = s.cxlg := rfl
@[simp] theorem onSup_cxlgWritten (s : State) (u i : Nat) (f : SupSlot → SupSlot) : (s.onSup u i f).cxlgWritten = s.cxlgWritten := rfl
@[simp] theorem onSup_cxlGib (s : State) (u i : Nat) (f : SupSlot → SupSlot) : (s.onSup u i f).cxlGib = s.cxlGib := rfl
@[simp] theorem onSup_plat (s : State) (u i : Nat) (f : SupSlot → SupSlot) : (s.onSup u i f).plat = s.plat := rfl
@[simp] theorem onSup_host (s : State) (u i : Nat) (f : SupSlot → SupSlot) : (s.onSup u i f).host = s.host := rfl
@[simp] theorem onSup_port (s : State) (u i : Nat) (f : SupSlot → SupSlot) : (s.onSup u i f).port = s.port := rfl
@[simp] theorem onSup_ulDown (s : State) (u i : Nat) (f : SupSlot → SupSlot) : (s.onSup u i f).ulDown = s.ulDown := rfl
@[simp] theorem onSup_dlink (s : State) (u i : Nat) (f : SupSlot → SupSlot) : (s.onSup u i f).dlink = s.dlink := rfl
@[simp] theorem onSup_dead (s : State) (u i : Nat) (f : SupSlot → SupSlot) : (s.onSup u i f).dead = s.dead := rfl
@[simp] theorem onSup_queues (s : State) (u i : Nat) (f : SupSlot → SupSlot) : (s.onSup u i f).queues = s.queues := rfl
@[simp] theorem onSup_parts (s : State) (u i : Nat) (f : SupSlot → SupSlot) : (s.onSup u i f).parts = s.parts := rfl
@[simp] theorem onSup_arb (s : State) (u i : Nat) (f : SupSlot → SupSlot) : (s.onSup u i f).arb = s.arb := rfl
@[simp] theorem onSup_launches (s : State) (u i : Nat) (f : SupSlot → SupSlot) : (s.onSup u i f).launches = s.launches := rfl
@[simp] theorem onSup_blocks (s : State) (u i : Nat) (f : SupSlot → SupSlot) : (s.onSup u i f).blocks = s.blocks := rfl
@[simp] theorem onSup_images (s : State) (u i : Nat) (f : SupSlot → SupSlot) : (s.onSup u i f).images = s.images := rfl
@[simp] theorem onSup_pool (s : State) (u i : Nat) (f : SupSlot → SupSlot) : (s.onSup u i f).pool = s.pool := rfl
@[simp] theorem onSup_nextBid (s : State) (u i : Nat) (f : SupSlot → SupSlot) : (s.onSup u i f).nextBid = s.nextBid := rfl
@[simp] theorem onSup_nextCmd (s : State) (u i : Nat) (f : SupSlot → SupSlot) : (s.onSup u i f).nextCmd = s.nextCmd := rfl
@[simp] theorem onSup_mem (s : State) (u i : Nat) (f : SupSlot → SupSlot) : (s.onSup u i f).mem = s.mem := rfl
@[simp] theorem onSup_keyOf (s : State) (u i : Nat) (f : SupSlot → SupSlot) : (s.onSup u i f).keyOf = s.keyOf := rfl
@[simp] theorem onSup_poison (s : State) (u i : Nat) (f : SupSlot → SupSlot) : (s.onSup u i f).poison = s.poison := rfl
@[simp] theorem onSup_colErr (s : State) (u i : Nat) (f : SupSlot → SupSlot) : (s.onSup u i f).colErr = s.colErr := rfl
@[simp] theorem onSup_reported (s : State) (u i : Nat) (f : SupSlot → SupSlot) : (s.onSup u i f).reported = s.reported := rfl
@[simp] theorem onSup_l2 (s : State) (u i : Nat) (f : SupSlot → SupSlot) : (s.onSup u i f).l2 = s.l2 := rfl
@[simp] theorem onSup_hostLines (s : State) (u i : Nat) (f : SupSlot → SupSlot) : (s.onSup u i f).hostLines = s.hostLines := rfl
@[simp] theorem onSup_held (s : State) (u i : Nat) (f : SupSlot → SupSlot) : (s.onSup u i f).held = s.held := rfl
@[simp] theorem onSup_watches (s : State) (u i : Nat) (f : SupSlot → SupSlot) : (s.onSup u i f).watches = s.watches := rfl
@[simp] theorem onSup_watchSeq (s : State) (u i : Nat) (f : SupSlot → SupSlot) : (s.onSup u i f).watchSeq = s.watchSeq := rfl
@[simp] theorem onSup_wovlb (s : State) (u i : Nat) (f : SupSlot → SupSlot) : (s.onSup u i f).wovlb = s.wovlb := rfl
@[simp] theorem onSup_wovln (s : State) (u i : Nat) (f : SupSlot → SupSlot) : (s.onSup u i f).wovln = s.wovln := rfl
@[simp] theorem onSup_migs (s : State) (u i : Nat) (f : SupSlot → SupSlot) : (s.onSup u i f).migs = s.migs := rfl
@[simp] theorem onSup_versions (s : State) (u i : Nat) (f : SupSlot → SupSlot) : (s.onSup u i f).versions = s.versions := rfl
@[simp] theorem onSup_tfront (s : State) (u i : Nat) (f : SupSlot → SupSlot) : (s.onSup u i f).tfront = s.tfront := rfl
@[simp] theorem onSup_sampledAt (s : State) (u i : Nat) (f : SupSlot → SupSlot) : (s.onSup u i f).sampledAt = s.sampledAt := rfl
@[simp] theorem onSup_calls (s : State) (u i : Nat) (f : SupSlot → SupSlot) : (s.onSup u i f).calls = s.calls := rfl
@[simp] theorem onSup_nextCall (s : State) (u i : Nat) (f : SupSlot → SupSlot) : (s.onSup u i f).nextCall = s.nextCall := rfl
@[simp] theorem onSup_packets (s : State) (u i : Nat) (f : SupSlot → SupSlot) : (s.onSup u i f).packets = s.packets := rfl
@[simp] theorem onSup_lands (s : State) (u i : Nat) (f : SupSlot → SupSlot) : (s.onSup u i f).lands = s.lands := rfl
@[simp] theorem onSup_ghosts (s : State) (u i : Nat) (f : SupSlot → SupSlot) : (s.onSup u i f).ghosts = s.ghosts := rfl
@[simp] theorem onSup_colClass (s : State) (u i : Nat) (f : SupSlot → SupSlot) : (s.onSup u i f).colClass = s.colClass := rfl
@[simp] theorem onSup_hostBad (s : State) (u i : Nat) (f : SupSlot → SupSlot) : (s.onSup u i f).hostBad = s.hostBad := rfl
@[simp] theorem onSup_rereads (s : State) (u i : Nat) (f : SupSlot → SupSlot) : (s.onSup u i f).rereads = s.rereads := rfl
@[simp] theorem onSup_sent (s : State) (u i : Nat) (f : SupSlot → SupSlot) : (s.onSup u i f).sent = s.sent := rfl

/-! ### `onGroup` -/

@[simp] theorem onGroup_turns (s : State) (c : Ctx) (f : Group → Group) : (s.onGroup c f).turns = s.turns := by cases c <;> rfl
@[simp] theorem onGroup_rotor (s : State) (c : Ctx) (f : Group → Group) : (s.onGroup c f).rotor = s.rotor := by cases c <;> rfl
@[simp] theorem onGroup_sel (s : State) (c : Ctx) (f : Group → Group) : (s.onGroup c f).sel = s.sel := by cases c <;> rfl
@[simp] theorem onGroup_fresh (s : State) (c : Ctx) (f : Group → Group) : (s.onGroup c f).fresh = s.fresh := by cases c <;> rfl
@[simp] theorem onGroup_time (s : State) (c : Ctx) (f : Group → Group) : (s.onGroup c f).time = s.time := by cases c <;> rfl
@[simp] theorem onGroup_phase20 (s : State) (c : Ctx) (f : Group → Group) : (s.onGroup c f).phase20 = s.phase20 := by cases c <;> rfl
@[simp] theorem onGroup_cfg (s : State) (c : Ctx) (f : Group → Group) : (s.onGroup c f).cfg = s.cfg := by cases c <;> rfl
@[simp] theorem onGroup_cxlg (s : State) (c : Ctx) (f : Group → Group) : (s.onGroup c f).cxlg = s.cxlg := by cases c <;> rfl
@[simp] theorem onGroup_cxlgWritten (s : State) (c : Ctx) (f : Group → Group) : (s.onGroup c f).cxlgWritten = s.cxlgWritten := by cases c <;> rfl
@[simp] theorem onGroup_cxlGib (s : State) (c : Ctx) (f : Group → Group) : (s.onGroup c f).cxlGib = s.cxlGib := by cases c <;> rfl
@[simp] theorem onGroup_plat (s : State) (c : Ctx) (f : Group → Group) : (s.onGroup c f).plat = s.plat := by cases c <;> rfl
@[simp] theorem onGroup_host (s : State) (c : Ctx) (f : Group → Group) : (s.onGroup c f).host = s.host := by cases c <;> rfl
@[simp] theorem onGroup_port (s : State) (c : Ctx) (f : Group → Group) : (s.onGroup c f).port = s.port := by cases c <;> rfl
@[simp] theorem onGroup_ulDown (s : State) (c : Ctx) (f : Group → Group) : (s.onGroup c f).ulDown = s.ulDown := by cases c <;> rfl
@[simp] theorem onGroup_dlink (s : State) (c : Ctx) (f : Group → Group) : (s.onGroup c f).dlink = s.dlink := by cases c <;> rfl
@[simp] theorem onGroup_dead (s : State) (c : Ctx) (f : Group → Group) : (s.onGroup c f).dead = s.dead := by cases c <;> rfl
@[simp] theorem onGroup_queues (s : State) (c : Ctx) (f : Group → Group) : (s.onGroup c f).queues = s.queues := by cases c <;> rfl
@[simp] theorem onGroup_parts (s : State) (c : Ctx) (f : Group → Group) : (s.onGroup c f).parts = s.parts := by cases c <;> rfl
@[simp] theorem onGroup_arb (s : State) (c : Ctx) (f : Group → Group) : (s.onGroup c f).arb = s.arb := by cases c <;> rfl
@[simp] theorem onGroup_launches (s : State) (c : Ctx) (f : Group → Group) : (s.onGroup c f).launches = s.launches := by cases c <;> rfl
@[simp] theorem onGroup_images (s : State) (c : Ctx) (f : Group → Group) : (s.onGroup c f).images = s.images := by cases c <;> rfl
@[simp] theorem onGroup_pool (s : State) (c : Ctx) (f : Group → Group) : (s.onGroup c f).pool = s.pool := by cases c <;> rfl
@[simp] theorem onGroup_nextBid (s : State) (c : Ctx) (f : Group → Group) : (s.onGroup c f).nextBid = s.nextBid := by cases c <;> rfl
@[simp] theorem onGroup_nextCmd (s : State) (c : Ctx) (f : Group → Group) : (s.onGroup c f).nextCmd = s.nextCmd := by cases c <;> rfl
@[simp] theorem onGroup_mem (s : State) (c : Ctx) (f : Group → Group) : (s.onGroup c f).mem = s.mem := by cases c <;> rfl
@[simp] theorem onGroup_keyOf (s : State) (c : Ctx) (f : Group → Group) : (s.onGroup c f).keyOf = s.keyOf := by cases c <;> rfl
@[simp] theorem onGroup_poison (s : State) (c : Ctx) (f : Group → Group) : (s.onGroup c f).poison = s.poison := by cases c <;> rfl
@[simp] theorem onGroup_colErr (s : State) (c : Ctx) (f : Group → Group) : (s.onGroup c f).colErr = s.colErr := by cases c <;> rfl
@[simp] theorem onGroup_reported (s : State) (c : Ctx) (f : Group → Group) : (s.onGroup c f).reported = s.reported := by cases c <;> rfl
@[simp] theorem onGroup_l2 (s : State) (c : Ctx) (f : Group → Group) : (s.onGroup c f).l2 = s.l2 := by cases c <;> rfl
@[simp] theorem onGroup_hostLines (s : State) (c : Ctx) (f : Group → Group) : (s.onGroup c f).hostLines = s.hostLines := by cases c <;> rfl
@[simp] theorem onGroup_held (s : State) (c : Ctx) (f : Group → Group) : (s.onGroup c f).held = s.held := by cases c <;> rfl
@[simp] theorem onGroup_watches (s : State) (c : Ctx) (f : Group → Group) : (s.onGroup c f).watches = s.watches := by cases c <;> rfl
@[simp] theorem onGroup_watchSeq (s : State) (c : Ctx) (f : Group → Group) : (s.onGroup c f).watchSeq = s.watchSeq := by cases c <;> rfl
@[simp] theorem onGroup_wovlb (s : State) (c : Ctx) (f : Group → Group) : (s.onGroup c f).wovlb = s.wovlb := by cases c <;> rfl
@[simp] theorem onGroup_wovln (s : State) (c : Ctx) (f : Group → Group) : (s.onGroup c f).wovln = s.wovln := by cases c <;> rfl
@[simp] theorem onGroup_migs (s : State) (c : Ctx) (f : Group → Group) : (s.onGroup c f).migs = s.migs := by cases c <;> rfl
@[simp] theorem onGroup_versions (s : State) (c : Ctx) (f : Group → Group) : (s.onGroup c f).versions = s.versions := by cases c <;> rfl
@[simp] theorem onGroup_tfront (s : State) (c : Ctx) (f : Group → Group) : (s.onGroup c f).tfront = s.tfront := by cases c <;> rfl
@[simp] theorem onGroup_sampledAt (s : State) (c : Ctx) (f : Group → Group) : (s.onGroup c f).sampledAt = s.sampledAt := by cases c <;> rfl
@[simp] theorem onGroup_calls (s : State) (c : Ctx) (f : Group → Group) : (s.onGroup c f).calls = s.calls := by cases c <;> rfl
@[simp] theorem onGroup_nextCall (s : State) (c : Ctx) (f : Group → Group) : (s.onGroup c f).nextCall = s.nextCall := by cases c <;> rfl
@[simp] theorem onGroup_packets (s : State) (c : Ctx) (f : Group → Group) : (s.onGroup c f).packets = s.packets := by cases c <;> rfl
@[simp] theorem onGroup_lands (s : State) (c : Ctx) (f : Group → Group) : (s.onGroup c f).lands = s.lands := by cases c <;> rfl
@[simp] theorem onGroup_ghosts (s : State) (c : Ctx) (f : Group → Group) : (s.onGroup c f).ghosts = s.ghosts := by cases c <;> rfl
@[simp] theorem onGroup_colClass (s : State) (c : Ctx) (f : Group → Group) : (s.onGroup c f).colClass = s.colClass := by cases c <;> rfl
@[simp] theorem onGroup_hostBad (s : State) (c : Ctx) (f : Group → Group) : (s.onGroup c f).hostBad = s.hostBad := by cases c <;> rfl
@[simp] theorem onGroup_rereads (s : State) (c : Ctx) (f : Group → Group) : (s.onGroup c f).rereads = s.rereads := by cases c <;> rfl
@[simp] theorem onGroup_sent (s : State) (c : Ctx) (f : Group → Group) : (s.onGroup c f).sent = s.sent := by cases c <;> rfl

/-! ### `wakeCore` -/

@[simp] theorem wakeCore_turns (s : State) (u : Nat) : (s.wakeCore u).turns = s.turns := by
  unfold State.wakeCore; split <;> rfl
@[simp] theorem wakeCore_rotor (s : State) (u : Nat) : (s.wakeCore u).rotor = s.rotor := by
  unfold State.wakeCore; split <;> rfl
@[simp] theorem wakeCore_sel (s : State) (u : Nat) : (s.wakeCore u).sel = s.sel := by
  unfold State.wakeCore; split <;> rfl
@[simp] theorem wakeCore_fresh (s : State) (u : Nat) : (s.wakeCore u).fresh = s.fresh := by
  unfold State.wakeCore; split <;> rfl
@[simp] theorem wakeCore_time (s : State) (u : Nat) : (s.wakeCore u).time = s.time := by
  unfold State.wakeCore; split <;> rfl
@[simp] theorem wakeCore_phase20 (s : State) (u : Nat) : (s.wakeCore u).phase20 = s.phase20 := by
  unfold State.wakeCore; split <;> rfl
@[simp] theorem wakeCore_cfg (s : State) (u : Nat) : (s.wakeCore u).cfg = s.cfg := by
  unfold State.wakeCore; split <;> rfl
@[simp] theorem wakeCore_cxlg (s : State) (u : Nat) : (s.wakeCore u).cxlg = s.cxlg := by
  unfold State.wakeCore; split <;> rfl
@[simp] theorem wakeCore_cxlgWritten (s : State) (u : Nat) : (s.wakeCore u).cxlgWritten = s.cxlgWritten := by
  unfold State.wakeCore; split <;> rfl
@[simp] theorem wakeCore_cxlGib (s : State) (u : Nat) : (s.wakeCore u).cxlGib = s.cxlGib := by
  unfold State.wakeCore; split <;> rfl
@[simp] theorem wakeCore_plat (s : State) (u : Nat) : (s.wakeCore u).plat = s.plat := by
  unfold State.wakeCore; split <;> rfl
@[simp] theorem wakeCore_host (s : State) (u : Nat) : (s.wakeCore u).host = s.host := by
  unfold State.wakeCore; split <;> rfl
@[simp] theorem wakeCore_port (s : State) (u : Nat) : (s.wakeCore u).port = s.port := by
  unfold State.wakeCore; split <;> rfl
@[simp] theorem wakeCore_ulDown (s : State) (u : Nat) : (s.wakeCore u).ulDown = s.ulDown := by
  unfold State.wakeCore; split <;> rfl
@[simp] theorem wakeCore_dlink (s : State) (u : Nat) : (s.wakeCore u).dlink = s.dlink := by
  unfold State.wakeCore; split <;> rfl
@[simp] theorem wakeCore_dead (s : State) (u : Nat) : (s.wakeCore u).dead = s.dead := by
  unfold State.wakeCore; split <;> rfl
@[simp] theorem wakeCore_queues (s : State) (u : Nat) : (s.wakeCore u).queues = s.queues := by
  unfold State.wakeCore; split <;> rfl
@[simp] theorem wakeCore_parts (s : State) (u : Nat) : (s.wakeCore u).parts = s.parts := by
  unfold State.wakeCore; split <;> rfl
@[simp] theorem wakeCore_arb (s : State) (u : Nat) : (s.wakeCore u).arb = s.arb := by
  unfold State.wakeCore; split <;> rfl
@[simp] theorem wakeCore_launches (s : State) (u : Nat) : (s.wakeCore u).launches = s.launches := by
  unfold State.wakeCore; split <;> rfl
@[simp] theorem wakeCore_blocks (s : State) (u : Nat) : (s.wakeCore u).blocks = s.blocks := by
  unfold State.wakeCore; split <;> rfl
@[simp] theorem wakeCore_images (s : State) (u : Nat) : (s.wakeCore u).images = s.images := by
  unfold State.wakeCore; split <;> rfl
@[simp] theorem wakeCore_ghosts (s : State) (u : Nat) : (s.wakeCore u).ghosts = s.ghosts := by
  unfold State.wakeCore; split <;> rfl
@[simp] theorem wakeCore_pool (s : State) (u : Nat) : (s.wakeCore u).pool = s.pool := by
  unfold State.wakeCore; split <;> rfl
@[simp] theorem wakeCore_nextBid (s : State) (u : Nat) : (s.wakeCore u).nextBid = s.nextBid := by
  unfold State.wakeCore; split <;> rfl
@[simp] theorem wakeCore_nextCmd (s : State) (u : Nat) : (s.wakeCore u).nextCmd = s.nextCmd := by
  unfold State.wakeCore; split <;> rfl
@[simp] theorem wakeCore_mem (s : State) (u : Nat) : (s.wakeCore u).mem = s.mem := by
  unfold State.wakeCore; split <;> rfl
@[simp] theorem wakeCore_keyOf (s : State) (u : Nat) : (s.wakeCore u).keyOf = s.keyOf := by
  unfold State.wakeCore; split <;> rfl
@[simp] theorem wakeCore_poison (s : State) (u : Nat) : (s.wakeCore u).poison = s.poison := by
  unfold State.wakeCore; split <;> rfl
@[simp] theorem wakeCore_colErr (s : State) (u : Nat) : (s.wakeCore u).colErr = s.colErr := by
  unfold State.wakeCore; split <;> rfl
@[simp] theorem wakeCore_colClass (s : State) (u : Nat) : (s.wakeCore u).colClass = s.colClass := by
  unfold State.wakeCore; split <;> rfl
@[simp] theorem wakeCore_reported (s : State) (u : Nat) : (s.wakeCore u).reported = s.reported := by
  unfold State.wakeCore; split <;> rfl
@[simp] theorem wakeCore_l2 (s : State) (u : Nat) : (s.wakeCore u).l2 = s.l2 := by
  unfold State.wakeCore; split <;> rfl
@[simp] theorem wakeCore_hostLines (s : State) (u : Nat) : (s.wakeCore u).hostLines = s.hostLines := by
  unfold State.wakeCore; split <;> rfl
@[simp] theorem wakeCore_hostBad (s : State) (u : Nat) : (s.wakeCore u).hostBad = s.hostBad := by
  unfold State.wakeCore; split <;> rfl
@[simp] theorem wakeCore_rereads (s : State) (u : Nat) : (s.wakeCore u).rereads = s.rereads := by
  unfold State.wakeCore; split <;> rfl
@[simp] theorem wakeCore_held (s : State) (u : Nat) : (s.wakeCore u).held = s.held := by
  unfold State.wakeCore; split <;> rfl
@[simp] theorem wakeCore_watches (s : State) (u : Nat) : (s.wakeCore u).watches = s.watches := by
  unfold State.wakeCore; split <;> rfl
@[simp] theorem wakeCore_watchSeq (s : State) (u : Nat) : (s.wakeCore u).watchSeq = s.watchSeq := by
  unfold State.wakeCore; split <;> rfl
@[simp] theorem wakeCore_wovlb (s : State) (u : Nat) : (s.wakeCore u).wovlb = s.wovlb := by
  unfold State.wakeCore; split <;> rfl
@[simp] theorem wakeCore_wovln (s : State) (u : Nat) : (s.wakeCore u).wovln = s.wovln := by
  unfold State.wakeCore; split <;> rfl
@[simp] theorem wakeCore_migs (s : State) (u : Nat) : (s.wakeCore u).migs = s.migs := by
  unfold State.wakeCore; split <;> rfl
@[simp] theorem wakeCore_versions (s : State) (u : Nat) : (s.wakeCore u).versions = s.versions := by
  unfold State.wakeCore; split <;> rfl
@[simp] theorem wakeCore_tfront (s : State) (u : Nat) : (s.wakeCore u).tfront = s.tfront := by
  unfold State.wakeCore; split <;> rfl
@[simp] theorem wakeCore_sampledAt (s : State) (u : Nat) : (s.wakeCore u).sampledAt = s.sampledAt := by
  unfold State.wakeCore; split <;> rfl
@[simp] theorem wakeCore_calls (s : State) (u : Nat) : (s.wakeCore u).calls = s.calls := by
  unfold State.wakeCore; split <;> rfl
@[simp] theorem wakeCore_nextCall (s : State) (u : Nat) : (s.wakeCore u).nextCall = s.nextCall := by
  unfold State.wakeCore; split <;> rfl
@[simp] theorem wakeCore_packets (s : State) (u : Nat) : (s.wakeCore u).packets = s.packets := by
  unfold State.wakeCore; split <;> rfl
@[simp] theorem wakeCore_sent (s : State) (u : Nat) : (s.wakeCore u).sent = s.sent := by
  unfold State.wakeCore; split <;> rfl
@[simp] theorem wakeCore_lands (s : State) (u : Nat) : (s.wakeCore u).lands = s.lands := by
  unfold State.wakeCore; split <;> rfl

/-! ### `unitEvent` -/

@[simp] theorem unitEvent_turns (s : State) (u e n : Nat) : (s.unitEvent u e n).turns = s.turns := rfl
@[simp] theorem unitEvent_rotor (s : State) (u e n : Nat) : (s.unitEvent u e n).rotor = s.rotor := rfl
@[simp] theorem unitEvent_sel (s : State) (u e n : Nat) : (s.unitEvent u e n).sel = s.sel := rfl
@[simp] theorem unitEvent_fresh (s : State) (u e n : Nat) : (s.unitEvent u e n).fresh = s.fresh := rfl
@[simp] theorem unitEvent_time (s : State) (u e n : Nat) : (s.unitEvent u e n).time = s.time := rfl
@[simp] theorem unitEvent_phase20 (s : State) (u e n : Nat) : (s.unitEvent u e n).phase20 = s.phase20 := rfl
@[simp] theorem unitEvent_cfg (s : State) (u e n : Nat) : (s.unitEvent u e n).cfg = s.cfg := rfl
@[simp] theorem unitEvent_cxlg (s : State) (u e n : Nat) : (s.unitEvent u e n).cxlg = s.cxlg := rfl
@[simp] theorem unitEvent_cxlgWritten (s : State) (u e n : Nat) : (s.unitEvent u e n).cxlgWritten = s.cxlgWritten := rfl
@[simp] theorem unitEvent_cxlGib (s : State) (u e n : Nat) : (s.unitEvent u e n).cxlGib = s.cxlGib := rfl
@[simp] theorem unitEvent_plat (s : State) (u e n : Nat) : (s.unitEvent u e n).plat = s.plat := rfl
@[simp] theorem unitEvent_host (s : State) (u e n : Nat) : (s.unitEvent u e n).host = s.host := rfl
@[simp] theorem unitEvent_port (s : State) (u e n : Nat) : (s.unitEvent u e n).port = s.port := rfl
@[simp] theorem unitEvent_ulDown (s : State) (u e n : Nat) : (s.unitEvent u e n).ulDown = s.ulDown := rfl
@[simp] theorem unitEvent_dlink (s : State) (u e n : Nat) : (s.unitEvent u e n).dlink = s.dlink := rfl
@[simp] theorem unitEvent_dead (s : State) (u e n : Nat) : (s.unitEvent u e n).dead = s.dead := rfl
@[simp] theorem unitEvent_queues (s : State) (u e n : Nat) : (s.unitEvent u e n).queues = s.queues := rfl
@[simp] theorem unitEvent_parts (s : State) (u e n : Nat) : (s.unitEvent u e n).parts = s.parts := rfl
@[simp] theorem unitEvent_arb (s : State) (u e n : Nat) : (s.unitEvent u e n).arb = s.arb := rfl
@[simp] theorem unitEvent_launches (s : State) (u e n : Nat) : (s.unitEvent u e n).launches = s.launches := rfl
@[simp] theorem unitEvent_blocks (s : State) (u e n : Nat) : (s.unitEvent u e n).blocks = s.blocks := rfl
@[simp] theorem unitEvent_images (s : State) (u e n : Nat) : (s.unitEvent u e n).images = s.images := rfl
@[simp] theorem unitEvent_pool (s : State) (u e n : Nat) : (s.unitEvent u e n).pool = s.pool := rfl
@[simp] theorem unitEvent_nextBid (s : State) (u e n : Nat) : (s.unitEvent u e n).nextBid = s.nextBid := rfl
@[simp] theorem unitEvent_nextCmd (s : State) (u e n : Nat) : (s.unitEvent u e n).nextCmd = s.nextCmd := rfl
@[simp] theorem unitEvent_mem (s : State) (u e n : Nat) : (s.unitEvent u e n).mem = s.mem := rfl
@[simp] theorem unitEvent_keyOf (s : State) (u e n : Nat) : (s.unitEvent u e n).keyOf = s.keyOf := rfl
@[simp] theorem unitEvent_poison (s : State) (u e n : Nat) : (s.unitEvent u e n).poison = s.poison := rfl
@[simp] theorem unitEvent_colErr (s : State) (u e n : Nat) : (s.unitEvent u e n).colErr = s.colErr := rfl
@[simp] theorem unitEvent_reported (s : State) (u e n : Nat) : (s.unitEvent u e n).reported = s.reported := rfl
@[simp] theorem unitEvent_l2 (s : State) (u e n : Nat) : (s.unitEvent u e n).l2 = s.l2 := rfl
@[simp] theorem unitEvent_hostLines (s : State) (u e n : Nat) : (s.unitEvent u e n).hostLines = s.hostLines := rfl
@[simp] theorem unitEvent_held (s : State) (u e n : Nat) : (s.unitEvent u e n).held = s.held := rfl
@[simp] theorem unitEvent_watches (s : State) (u e n : Nat) : (s.unitEvent u e n).watches = s.watches := rfl
@[simp] theorem unitEvent_watchSeq (s : State) (u e n : Nat) : (s.unitEvent u e n).watchSeq = s.watchSeq := rfl
@[simp] theorem unitEvent_wovlb (s : State) (u e n : Nat) : (s.unitEvent u e n).wovlb = s.wovlb := rfl
@[simp] theorem unitEvent_wovln (s : State) (u e n : Nat) : (s.unitEvent u e n).wovln = s.wovln := rfl
@[simp] theorem unitEvent_migs (s : State) (u e n : Nat) : (s.unitEvent u e n).migs = s.migs := rfl
@[simp] theorem unitEvent_versions (s : State) (u e n : Nat) : (s.unitEvent u e n).versions = s.versions := rfl
@[simp] theorem unitEvent_tfront (s : State) (u e n : Nat) : (s.unitEvent u e n).tfront = s.tfront := rfl
@[simp] theorem unitEvent_sampledAt (s : State) (u e n : Nat) : (s.unitEvent u e n).sampledAt = s.sampledAt := rfl
@[simp] theorem unitEvent_calls (s : State) (u e n : Nat) : (s.unitEvent u e n).calls = s.calls := rfl
@[simp] theorem unitEvent_nextCall (s : State) (u e n : Nat) : (s.unitEvent u e n).nextCall = s.nextCall := rfl
@[simp] theorem unitEvent_packets (s : State) (u e n : Nat) : (s.unitEvent u e n).packets = s.packets := rfl
@[simp] theorem unitEvent_lands (s : State) (u e n : Nat) : (s.unitEvent u e n).lands = s.lands := rfl
@[simp] theorem unitEvent_ghosts (s : State) (u e n : Nat) : (s.unitEvent u e n).ghosts = s.ghosts := rfl
@[simp] theorem unitEvent_colClass (s : State) (u e n : Nat) : (s.unitEvent u e n).colClass = s.colClass := rfl
@[simp] theorem unitEvent_hostBad (s : State) (u e n : Nat) : (s.unitEvent u e n).hostBad = s.hostBad := rfl
@[simp] theorem unitEvent_rereads (s : State) (u e n : Nat) : (s.unitEvent u e n).rereads = s.rereads := rfl
@[simp] theorem unitEvent_sent (s : State) (u e n : Nat) : (s.unitEvent u e n).sent = s.sent := rfl

/-! ### `pkgEvent` -/

@[simp] theorem pkgEvent_turns (s : State) (e l d : Nat) : (s.pkgEvent e l d).turns = s.turns := rfl
@[simp] theorem pkgEvent_rotor (s : State) (e l d : Nat) : (s.pkgEvent e l d).rotor = s.rotor := rfl
@[simp] theorem pkgEvent_sel (s : State) (e l d : Nat) : (s.pkgEvent e l d).sel = s.sel := rfl
@[simp] theorem pkgEvent_fresh (s : State) (e l d : Nat) : (s.pkgEvent e l d).fresh = s.fresh := rfl
@[simp] theorem pkgEvent_time (s : State) (e l d : Nat) : (s.pkgEvent e l d).time = s.time := rfl
@[simp] theorem pkgEvent_phase20 (s : State) (e l d : Nat) : (s.pkgEvent e l d).phase20 = s.phase20 := rfl
@[simp] theorem pkgEvent_cfg (s : State) (e l d : Nat) : (s.pkgEvent e l d).cfg = s.cfg := rfl
@[simp] theorem pkgEvent_cxlg (s : State) (e l d : Nat) : (s.pkgEvent e l d).cxlg = s.cxlg := rfl
@[simp] theorem pkgEvent_cxlgWritten (s : State) (e l d : Nat) : (s.pkgEvent e l d).cxlgWritten = s.cxlgWritten := rfl
@[simp] theorem pkgEvent_cxlGib (s : State) (e l d : Nat) : (s.pkgEvent e l d).cxlGib = s.cxlGib := rfl
@[simp] theorem pkgEvent_host (s : State) (e l d : Nat) : (s.pkgEvent e l d).host = s.host := rfl
@[simp] theorem pkgEvent_port (s : State) (e l d : Nat) : (s.pkgEvent e l d).port = s.port := rfl
@[simp] theorem pkgEvent_ulDown (s : State) (e l d : Nat) : (s.pkgEvent e l d).ulDown = s.ulDown := rfl
@[simp] theorem pkgEvent_dlink (s : State) (e l d : Nat) : (s.pkgEvent e l d).dlink = s.dlink := rfl
@[simp] theorem pkgEvent_dead (s : State) (e l d : Nat) : (s.pkgEvent e l d).dead = s.dead := rfl
@[simp] theorem pkgEvent_queues (s : State) (e l d : Nat) : (s.pkgEvent e l d).queues = s.queues := rfl
@[simp] theorem pkgEvent_parts (s : State) (e l d : Nat) : (s.pkgEvent e l d).parts = s.parts := rfl
@[simp] theorem pkgEvent_arb (s : State) (e l d : Nat) : (s.pkgEvent e l d).arb = s.arb := rfl
@[simp] theorem pkgEvent_launches (s : State) (e l d : Nat) : (s.pkgEvent e l d).launches = s.launches := rfl
@[simp] theorem pkgEvent_blocks (s : State) (e l d : Nat) : (s.pkgEvent e l d).blocks = s.blocks := rfl
@[simp] theorem pkgEvent_images (s : State) (e l d : Nat) : (s.pkgEvent e l d).images = s.images := rfl
@[simp] theorem pkgEvent_pool (s : State) (e l d : Nat) : (s.pkgEvent e l d).pool = s.pool := rfl
@[simp] theorem pkgEvent_units (s : State) (e l d : Nat) : (s.pkgEvent e l d).units = s.units := rfl
@[simp] theorem pkgEvent_nextBid (s : State) (e l d : Nat) : (s.pkgEvent e l d).nextBid = s.nextBid := rfl
@[simp] theorem pkgEvent_nextCmd (s : State) (e l d : Nat) : (s.pkgEvent e l d).nextCmd = s.nextCmd := rfl
@[simp] theorem pkgEvent_mem (s : State) (e l d : Nat) : (s.pkgEvent e l d).mem = s.mem := rfl
@[simp] theorem pkgEvent_keyOf (s : State) (e l d : Nat) : (s.pkgEvent e l d).keyOf = s.keyOf := rfl
@[simp] theorem pkgEvent_poison (s : State) (e l d : Nat) : (s.pkgEvent e l d).poison = s.poison := rfl
@[simp] theorem pkgEvent_colErr (s : State) (e l d : Nat) : (s.pkgEvent e l d).colErr = s.colErr := rfl
@[simp] theorem pkgEvent_reported (s : State) (e l d : Nat) : (s.pkgEvent e l d).reported = s.reported := rfl
@[simp] theorem pkgEvent_l2 (s : State) (e l d : Nat) : (s.pkgEvent e l d).l2 = s.l2 := rfl
@[simp] theorem pkgEvent_hostLines (s : State) (e l d : Nat) : (s.pkgEvent e l d).hostLines = s.hostLines := rfl
@[simp] theorem pkgEvent_held (s : State) (e l d : Nat) : (s.pkgEvent e l d).held = s.held := rfl
@[simp] theorem pkgEvent_watches (s : State) (e l d : Nat) : (s.pkgEvent e l d).watches = s.watches := rfl
@[simp] theorem pkgEvent_watchSeq (s : State) (e l d : Nat) : (s.pkgEvent e l d).watchSeq = s.watchSeq := rfl
@[simp] theorem pkgEvent_wovlb (s : State) (e l d : Nat) : (s.pkgEvent e l d).wovlb = s.wovlb := rfl
@[simp] theorem pkgEvent_wovln (s : State) (e l d : Nat) : (s.pkgEvent e l d).wovln = s.wovln := rfl
@[simp] theorem pkgEvent_migs (s : State) (e l d : Nat) : (s.pkgEvent e l d).migs = s.migs := rfl
@[simp] theorem pkgEvent_versions (s : State) (e l d : Nat) : (s.pkgEvent e l d).versions = s.versions := rfl
@[simp] theorem pkgEvent_tfront (s : State) (e l d : Nat) : (s.pkgEvent e l d).tfront = s.tfront := rfl
@[simp] theorem pkgEvent_sampledAt (s : State) (e l d : Nat) : (s.pkgEvent e l d).sampledAt = s.sampledAt := rfl
@[simp] theorem pkgEvent_calls (s : State) (e l d : Nat) : (s.pkgEvent e l d).calls = s.calls := rfl
@[simp] theorem pkgEvent_nextCall (s : State) (e l d : Nat) : (s.pkgEvent e l d).nextCall = s.nextCall := rfl
@[simp] theorem pkgEvent_packets (s : State) (e l d : Nat) : (s.pkgEvent e l d).packets = s.packets := rfl
@[simp] theorem pkgEvent_lands (s : State) (e l d : Nat) : (s.pkgEvent e l d).lands = s.lands := rfl
@[simp] theorem pkgEvent_ghosts (s : State) (e l d : Nat) : (s.pkgEvent e l d).ghosts = s.ghosts := rfl
@[simp] theorem pkgEvent_colClass (s : State) (e l d : Nat) : (s.pkgEvent e l d).colClass = s.colClass := rfl
@[simp] theorem pkgEvent_hostBad (s : State) (e l d : Nat) : (s.pkgEvent e l d).hostBad = s.hostBad := rfl
@[simp] theorem pkgEvent_rereads (s : State) (e l d : Nat) : (s.pkgEvent e l d).rereads = s.rereads := rfl
@[simp] theorem pkgEvent_sent (s : State) (e l d : Nat) : (s.pkgEvent e l d).sent = s.sent := rfl

/-! ### Groups -/

@[simp] theorem onLanes_width (g : Group) (ls : List Nat) (f : Lane → Lane) : (g.onLanes ls f).width = g.width := rfl
@[simp] theorem onLanes_win (g : Group) (ls : List Nat) (f : Lane → Lane) : (g.onLanes ls f).win = g.win := rfl
@[simp] theorem onLanes_nscal (g : Group) (ls : List Nat) (f : Lane → Lane) : (g.onLanes ls f).nscal = g.nscal := rfl
@[simp] theorem onLanes_regs (g : Group) (ls : List Nat) (f : Lane → Lane) : (g.onLanes ls f).regs = g.regs := rfl
@[simp] theorem onLanes_scal (g : Group) (ls : List Nat) (f : Lane → Lane) : (g.onLanes ls f).scal = g.scal := rfl
@[simp] theorem onLanes_rb (g : Group) (ls : List Nat) (f : Lane → Lane) : (g.onLanes ls f).rb = g.rb := rfl
@[simp] theorem onLanes_hb (g : Group) (ls : List Nat) (f : Lane → Lane) : (g.onLanes ls f).hb = g.hb := rfl
@[simp] theorem onLanes_hr (g : Group) (ls : List Nat) (f : Lane → Lane) : (g.onLanes ls f).hr = g.hr := rfl
@[simp] theorem onLanes_hrPc (g : Group) (ls : List Nat) (f : Lane → Lane) : (g.onLanes ls f).hrPc = g.hrPc := rfl
@[simp] theorem onLanes_hrSame (g : Group) (ls : List Nat) (f : Lane → Lane) : (g.onLanes ls f).hrSame = g.hrSame := rfl
@[simp] theorem onLanes_sched (g : Group) (ls : List Nat) (f : Lane → Lane) : (g.onLanes ls f).sched = g.sched := rfl
@[simp] theorem onLanes_slot (g : Group) (ls : List Nat) (f : Lane → Lane) : (g.onLanes ls f).slot = g.slot := rfl
@[simp] theorem onLanes_stall (g : Group) (ls : List Nat) (f : Lane → Lane) : (g.onLanes ls f).stall = g.stall := rfl
@[simp] theorem onLanes_hold (g : Group) (ls : List Nat) (f : Lane → Lane) : (g.onLanes ls f).hold = g.hold := rfl
@[simp] theorem onLanes_ended (g : Group) (ls : List Nat) (f : Lane → Lane) : (g.onLanes ls f).ended = g.ended := rfl
@[simp] theorem onLanes_nextId (g : Group) (ls : List Nat) (f : Lane → Lane) : (g.onLanes ls f).nextId = g.nextId := rfl
@[simp] theorem onLanes_pend (g : Group) (ls : List Nat) (f : Lane → Lane) : (g.onLanes ls f).pend = g.pend := rfl
@[simp] theorem onLanes_flags (g : Group) (ls : List Nat) (f : Lane → Lane) : (g.onLanes ls f).flags = g.flags := rfl
@[simp] theorem onLanes_trapc (g : Group) (ls : List Nat) (f : Lane → Lane) : (g.onLanes ls f).trapc = g.trapc := rfl
@[simp] theorem onLanes_trapa (g : Group) (ls : List Nat) (f : Lane → Lane) : (g.onLanes ls f).trapa = g.trapa := rfl
@[simp] theorem onLanes_trappc (g : Group) (ls : List Nat) (f : Lane → Lane) : (g.onLanes ls f).trappc = g.trappc := rfl
@[simp] theorem onLanes_psnm (g : Group) (ls : List Nat) (f : Lane → Lane) : (g.onLanes ls f).psnm = g.psnm := rfl
@[simp] theorem onLanes_repi (g : Group) (ls : List Nat) (f : Lane → Lane) : (g.onLanes ls f).repi = g.repi := rfl
@[simp] theorem onLanes_rep (g : Group) (ls : List Nat) (f : Lane → Lane) : (g.onLanes ls f).rep = g.rep := rfl
@[simp] theorem onLanes_hstat (g : Group) (ls : List Nat) (f : Lane → Lane) : (g.onLanes ls f).hstat = g.hstat := rfl
@[simp] theorem onLanes_qstat (g : Group) (ls : List Nat) (f : Lane → Lane) : (g.onLanes ls f).qstat = g.qstat := rfl
@[simp] theorem onLanes_mprog (g : Group) (ls : List Nat) (f : Lane → Lane) : (g.onLanes ls f).mprog = g.mprog := rfl
@[simp] theorem onLanes_ts (g : Group) (ls : List Nat) (f : Lane → Lane) : (g.onLanes ls f).ts = g.ts := rfl
@[simp] theorem onLanes_taskid (g : Group) (ls : List Nat) (f : Lane → Lane) : (g.onLanes ls f).taskid = g.taskid := rfl
@[simp] theorem onLanes_task (g : Group) (ls : List Nat) (f : Lane → Lane) : (g.onLanes ls f).task = g.task := rfl
@[simp] theorem onLanes_freeSince (g : Group) (ls : List Nat) (f : Lane → Lane) : (g.onLanes ls f).freeSince = g.freeSince := rfl
@[simp] theorem onLanes_stopping (g : Group) (ls : List Nat) (f : Lane → Lane) : (g.onLanes ls f).stopping = g.stopping := rfl
@[simp] theorem onLanes_spawnWait (g : Group) (ls : List Nat) (f : Lane → Lane) : (g.onLanes ls f).spawnWait = g.spawnWait := rfl
@[simp] theorem onLanes_drain (g : Group) (ls : List Nat) (f : Lane → Lane) : (g.onLanes ls f).drain = g.drain := rfl
@[simp] theorem onLanes_ltrig (g : Group) (ls : List Nat) (f : Lane → Lane) : (g.onLanes ls f).ltrig = g.ltrig := rfl
@[simp] theorem onLanes_origins (g : Group) (ls : List Nat) (f : Lane → Lane) : (g.onLanes ls f).origins = g.origins := rfl
@[simp] theorem onLanes_originNext (g : Group) (ls : List Nat) (f : Lane → Lane) : (g.onLanes ls f).originNext = g.originNext := rfl
@[simp] theorem onLanes_wsarea (g : Group) (ls : List Nat) (f : Lane → Lane) : (g.onLanes ls f).wsarea = g.wsarea := rfl
@[simp] theorem onLanes_ahead (g : Group) (ls : List Nat) (f : Lane → Lane) : (g.onLanes ls f).ahead = g.ahead := rfl
@[simp] theorem onLanes_asyncs (g : Group) (ls : List Nat) (f : Lane → Lane) : (g.onLanes ls f).asyncs = g.asyncs := rfl
@[simp] theorem onLanes_item (g : Group) (ls : List Nat) (f : Lane → Lane) : (g.onLanes ls f).item = g.item := rfl
@[simp] theorem onLanes_trapRun (g : Group) (ls : List Nat) (f : Lane → Lane) : (g.onLanes ls f).trapRun = g.trapRun := rfl
@[simp] theorem onLanes_svcCmd (g : Group) (ls : List Nat) (f : Lane → Lane) : (g.onLanes ls f).svcCmd = g.svcCmd := rfl
@[simp] theorem onLanes_svcNow (g : Group) (ls : List Nat) (f : Lane → Lane) : (g.onLanes ls f).svcNow = g.svcNow := rfl
@[simp] theorem onLanes_ordered (g : Group) (ls : List Nat) (f : Lane → Lane) : (g.onLanes ls f).ordered = g.ordered := rfl
@[simp] theorem onLanes_trapWr (g : Group) (ls : List Nat) (f : Lane → Lane) : (g.onLanes ls f).trapWr = g.trapWr := rfl
@[simp] theorem onLanes_asked (g : Group) (ls : List Nat) (f : Lane → Lane) : (g.onLanes ls f).asked = g.asked := rfl
@[simp] theorem onLanes_lastIssue (g : Group) (ls : List Nat) (f : Lane → Lane) : (g.onLanes ls f).lastIssue = g.lastIssue := rfl
@[simp] theorem onLanes_push (g : Group) (ls : List Nat) (f : Lane → Lane) : (g.onLanes ls f).push = g.push := rfl
@[simp] theorem onLanes_issueNo (g : Group) (ls : List Nat) (f : Lane → Lane) : (g.onLanes ls f).issueNo = g.issueNo := rfl

@[simp] theorem advance_width (g : Group) (ls : List Nat) : (g.advance ls).width = g.width := rfl
@[simp] theorem advance_win (g : Group) (ls : List Nat) : (g.advance ls).win = g.win := rfl
@[simp] theorem advance_nscal (g : Group) (ls : List Nat) : (g.advance ls).nscal = g.nscal := rfl
@[simp] theorem advance_regs (g : Group) (ls : List Nat) : (g.advance ls).regs = g.regs := rfl
@[simp] theorem advance_scal (g : Group) (ls : List Nat) : (g.advance ls).scal = g.scal := rfl
@[simp] theorem advance_rb (g : Group) (ls : List Nat) : (g.advance ls).rb = g.rb := rfl
@[simp] theorem advance_hb (g : Group) (ls : List Nat) : (g.advance ls).hb = g.hb := rfl
@[simp] theorem advance_hr (g : Group) (ls : List Nat) : (g.advance ls).hr = g.hr := rfl
@[simp] theorem advance_hrPc (g : Group) (ls : List Nat) : (g.advance ls).hrPc = g.hrPc := rfl
@[simp] theorem advance_hrSame (g : Group) (ls : List Nat) : (g.advance ls).hrSame = g.hrSame := rfl
@[simp] theorem advance_sched (g : Group) (ls : List Nat) : (g.advance ls).sched = g.sched := rfl
@[simp] theorem advance_slot (g : Group) (ls : List Nat) : (g.advance ls).slot = g.slot := rfl
@[simp] theorem advance_stall (g : Group) (ls : List Nat) : (g.advance ls).stall = g.stall := rfl
@[simp] theorem advance_hold (g : Group) (ls : List Nat) : (g.advance ls).hold = g.hold := rfl
@[simp] theorem advance_ended (g : Group) (ls : List Nat) : (g.advance ls).ended = g.ended := rfl
@[simp] theorem advance_nextId (g : Group) (ls : List Nat) : (g.advance ls).nextId = g.nextId := rfl
@[simp] theorem advance_pend (g : Group) (ls : List Nat) : (g.advance ls).pend = g.pend := rfl
@[simp] theorem advance_flags (g : Group) (ls : List Nat) : (g.advance ls).flags = g.flags := rfl
@[simp] theorem advance_trapc (g : Group) (ls : List Nat) : (g.advance ls).trapc = g.trapc := rfl
@[simp] theorem advance_trapa (g : Group) (ls : List Nat) : (g.advance ls).trapa = g.trapa := rfl
@[simp] theorem advance_trappc (g : Group) (ls : List Nat) : (g.advance ls).trappc = g.trappc := rfl
@[simp] theorem advance_psnm (g : Group) (ls : List Nat) : (g.advance ls).psnm = g.psnm := rfl
@[simp] theorem advance_repi (g : Group) (ls : List Nat) : (g.advance ls).repi = g.repi := rfl
@[simp] theorem advance_rep (g : Group) (ls : List Nat) : (g.advance ls).rep = g.rep := rfl
@[simp] theorem advance_hstat (g : Group) (ls : List Nat) : (g.advance ls).hstat = g.hstat := rfl
@[simp] theorem advance_qstat (g : Group) (ls : List Nat) : (g.advance ls).qstat = g.qstat := rfl
@[simp] theorem advance_mprog (g : Group) (ls : List Nat) : (g.advance ls).mprog = g.mprog := rfl
@[simp] theorem advance_ts (g : Group) (ls : List Nat) : (g.advance ls).ts = g.ts := rfl
@[simp] theorem advance_taskid (g : Group) (ls : List Nat) : (g.advance ls).taskid = g.taskid := rfl
@[simp] theorem advance_task (g : Group) (ls : List Nat) : (g.advance ls).task = g.task := rfl
@[simp] theorem advance_freeSince (g : Group) (ls : List Nat) : (g.advance ls).freeSince = g.freeSince := rfl
@[simp] theorem advance_stopping (g : Group) (ls : List Nat) : (g.advance ls).stopping = g.stopping := rfl
@[simp] theorem advance_spawnWait (g : Group) (ls : List Nat) : (g.advance ls).spawnWait = g.spawnWait := rfl
@[simp] theorem advance_drain (g : Group) (ls : List Nat) : (g.advance ls).drain = g.drain := rfl
@[simp] theorem advance_ltrig (g : Group) (ls : List Nat) : (g.advance ls).ltrig = g.ltrig := rfl
@[simp] theorem advance_origins (g : Group) (ls : List Nat) : (g.advance ls).origins = g.origins := rfl
@[simp] theorem advance_originNext (g : Group) (ls : List Nat) : (g.advance ls).originNext = g.originNext := rfl
@[simp] theorem advance_wsarea (g : Group) (ls : List Nat) : (g.advance ls).wsarea = g.wsarea := rfl
@[simp] theorem advance_ahead (g : Group) (ls : List Nat) : (g.advance ls).ahead = g.ahead := rfl
@[simp] theorem advance_asyncs (g : Group) (ls : List Nat) : (g.advance ls).asyncs = g.asyncs := rfl
@[simp] theorem advance_item (g : Group) (ls : List Nat) : (g.advance ls).item = g.item := rfl
@[simp] theorem advance_trapRun (g : Group) (ls : List Nat) : (g.advance ls).trapRun = g.trapRun := rfl
@[simp] theorem advance_svcCmd (g : Group) (ls : List Nat) : (g.advance ls).svcCmd = g.svcCmd := rfl
@[simp] theorem advance_svcNow (g : Group) (ls : List Nat) : (g.advance ls).svcNow = g.svcNow := rfl
@[simp] theorem advance_ordered (g : Group) (ls : List Nat) : (g.advance ls).ordered = g.ordered := rfl
@[simp] theorem advance_trapWr (g : Group) (ls : List Nat) : (g.advance ls).trapWr = g.trapWr := rfl
@[simp] theorem advance_asked (g : Group) (ls : List Nat) : (g.advance ls).asked = g.asked := rfl
@[simp] theorem advance_lastIssue (g : Group) (ls : List Nat) : (g.advance ls).lastIssue = g.lastIssue := rfl
@[simp] theorem advance_push (g : Group) (ls : List Nat) : (g.advance ls).push = g.push := rfl
@[simp] theorem advance_issueNo (g : Group) (ls : List Nat) : (g.advance ls).issueNo = g.issueNo := rfl

@[simp] theorem setElemAt_width (g : Group) (i l : Nat) (e : Elem) : (g.setElemAt i l e).width = g.width := rfl
@[simp] theorem setElemAt_win (g : Group) (i l : Nat) (e : Elem) : (g.setElemAt i l e).win = g.win := rfl
@[simp] theorem setElemAt_nscal (g : Group) (i l : Nat) (e : Elem) : (g.setElemAt i l e).nscal = g.nscal := rfl
@[simp] theorem setElemAt_lanes (g : Group) (i l : Nat) (e : Elem) : (g.setElemAt i l e).lanes = g.lanes := rfl
@[simp] theorem setElemAt_scal (g : Group) (i l : Nat) (e : Elem) : (g.setElemAt i l e).scal = g.scal := rfl
@[simp] theorem setElemAt_rb (g : Group) (i l : Nat) (e : Elem) : (g.setElemAt i l e).rb = g.rb := rfl
@[simp] theorem setElemAt_hb (g : Group) (i l : Nat) (e : Elem) : (g.setElemAt i l e).hb = g.hb := rfl
@[simp] theorem setElemAt_hr (g : Group) (i l : Nat) (e : Elem) : (g.setElemAt i l e).hr = g.hr := rfl
@[simp] theorem setElemAt_hrPc (g : Group) (i l : Nat) (e : Elem) : (g.setElemAt i l e).hrPc = g.hrPc := rfl
@[simp] theorem setElemAt_hrSame (g : Group) (i l : Nat) (e : Elem) : (g.setElemAt i l e).hrSame = g.hrSame := rfl
@[simp] theorem setElemAt_sched (g : Group) (i l : Nat) (e : Elem) : (g.setElemAt i l e).sched = g.sched := rfl
@[simp] theorem setElemAt_slot (g : Group) (i l : Nat) (e : Elem) : (g.setElemAt i l e).slot = g.slot := rfl
@[simp] theorem setElemAt_stall (g : Group) (i l : Nat) (e : Elem) : (g.setElemAt i l e).stall = g.stall := rfl
@[simp] theorem setElemAt_hold (g : Group) (i l : Nat) (e : Elem) : (g.setElemAt i l e).hold = g.hold := rfl
@[simp] theorem setElemAt_ended (g : Group) (i l : Nat) (e : Elem) : (g.setElemAt i l e).ended = g.ended := rfl
@[simp] theorem setElemAt_nextId (g : Group) (i l : Nat) (e : Elem) : (g.setElemAt i l e).nextId = g.nextId := rfl
@[simp] theorem setElemAt_pend (g : Group) (i l : Nat) (e : Elem) : (g.setElemAt i l e).pend = g.pend := rfl
@[simp] theorem setElemAt_flags (g : Group) (i l : Nat) (e : Elem) : (g.setElemAt i l e).flags = g.flags := rfl
@[simp] theorem setElemAt_trapc (g : Group) (i l : Nat) (e : Elem) : (g.setElemAt i l e).trapc = g.trapc := rfl
@[simp] theorem setElemAt_trapa (g : Group) (i l : Nat) (e : Elem) : (g.setElemAt i l e).trapa = g.trapa := rfl
@[simp] theorem setElemAt_trappc (g : Group) (i l : Nat) (e : Elem) : (g.setElemAt i l e).trappc = g.trappc := rfl
@[simp] theorem setElemAt_psnm (g : Group) (i l : Nat) (e : Elem) : (g.setElemAt i l e).psnm = g.psnm := rfl
@[simp] theorem setElemAt_repi (g : Group) (i l : Nat) (e : Elem) : (g.setElemAt i l e).repi = g.repi := rfl
@[simp] theorem setElemAt_rep (g : Group) (i l : Nat) (e : Elem) : (g.setElemAt i l e).rep = g.rep := rfl
@[simp] theorem setElemAt_hstat (g : Group) (i l : Nat) (e : Elem) : (g.setElemAt i l e).hstat = g.hstat := rfl
@[simp] theorem setElemAt_qstat (g : Group) (i l : Nat) (e : Elem) : (g.setElemAt i l e).qstat = g.qstat := rfl
@[simp] theorem setElemAt_mprog (g : Group) (i l : Nat) (e : Elem) : (g.setElemAt i l e).mprog = g.mprog := rfl
@[simp] theorem setElemAt_ts (g : Group) (i l : Nat) (e : Elem) : (g.setElemAt i l e).ts = g.ts := rfl
@[simp] theorem setElemAt_taskid (g : Group) (i l : Nat) (e : Elem) : (g.setElemAt i l e).taskid = g.taskid := rfl
@[simp] theorem setElemAt_task (g : Group) (i l : Nat) (e : Elem) : (g.setElemAt i l e).task = g.task := rfl
@[simp] theorem setElemAt_freeSince (g : Group) (i l : Nat) (e : Elem) : (g.setElemAt i l e).freeSince = g.freeSince := rfl
@[simp] theorem setElemAt_stopping (g : Group) (i l : Nat) (e : Elem) : (g.setElemAt i l e).stopping = g.stopping := rfl
@[simp] theorem setElemAt_spawnWait (g : Group) (i l : Nat) (e : Elem) : (g.setElemAt i l e).spawnWait = g.spawnWait := rfl
@[simp] theorem setElemAt_drain (g : Group) (i l : Nat) (e : Elem) : (g.setElemAt i l e).drain = g.drain := rfl
@[simp] theorem setElemAt_ltrig (g : Group) (i l : Nat) (e : Elem) : (g.setElemAt i l e).ltrig = g.ltrig := rfl
@[simp] theorem setElemAt_origins (g : Group) (i l : Nat) (e : Elem) : (g.setElemAt i l e).origins = g.origins := rfl
@[simp] theorem setElemAt_originNext (g : Group) (i l : Nat) (e : Elem) : (g.setElemAt i l e).originNext = g.originNext := rfl
@[simp] theorem setElemAt_wsarea (g : Group) (i l : Nat) (e : Elem) : (g.setElemAt i l e).wsarea = g.wsarea := rfl
@[simp] theorem setElemAt_ahead (g : Group) (i l : Nat) (e : Elem) : (g.setElemAt i l e).ahead = g.ahead := rfl
@[simp] theorem setElemAt_asyncs (g : Group) (i l : Nat) (e : Elem) : (g.setElemAt i l e).asyncs = g.asyncs := rfl
@[simp] theorem setElemAt_item (g : Group) (i l : Nat) (e : Elem) : (g.setElemAt i l e).item = g.item := rfl
@[simp] theorem setElemAt_trapRun (g : Group) (i l : Nat) (e : Elem) : (g.setElemAt i l e).trapRun = g.trapRun := rfl
@[simp] theorem setElemAt_svcCmd (g : Group) (i l : Nat) (e : Elem) : (g.setElemAt i l e).svcCmd = g.svcCmd := rfl
@[simp] theorem setElemAt_svcNow (g : Group) (i l : Nat) (e : Elem) : (g.setElemAt i l e).svcNow = g.svcNow := rfl
@[simp] theorem setElemAt_ordered (g : Group) (i l : Nat) (e : Elem) : (g.setElemAt i l e).ordered = g.ordered := rfl
@[simp] theorem setElemAt_trapWr (g : Group) (i l : Nat) (e : Elem) : (g.setElemAt i l e).trapWr = g.trapWr := rfl
@[simp] theorem setElemAt_asked (g : Group) (i l : Nat) (e : Elem) : (g.setElemAt i l e).asked = g.asked := rfl
@[simp] theorem setElemAt_lastIssue (g : Group) (i l : Nat) (e : Elem) : (g.setElemAt i l e).lastIssue = g.lastIssue := rfl
@[simp] theorem setElemAt_push (g : Group) (i l : Nat) (e : Elem) : (g.setElemAt i l e).push = g.push := rfl
@[simp] theorem setElemAt_issueNo (g : Group) (i l : Nat) (e : Elem) : (g.setElemAt i l e).issueNo = g.issueNo := rfl

@[simp] theorem setVreg_width (g : Group) (n l : Nat) (e : Elem) : (g.setVreg n l e).width = g.width := rfl
@[simp] theorem setVreg_win (g : Group) (n l : Nat) (e : Elem) : (g.setVreg n l e).win = g.win := rfl
@[simp] theorem setVreg_nscal (g : Group) (n l : Nat) (e : Elem) : (g.setVreg n l e).nscal = g.nscal := rfl
@[simp] theorem setVreg_lanes (g : Group) (n l : Nat) (e : Elem) : (g.setVreg n l e).lanes = g.lanes := rfl
@[simp] theorem setVreg_scal (g : Group) (n l : Nat) (e : Elem) : (g.setVreg n l e).scal = g.scal := rfl
@[simp] theorem setVreg_rb (g : Group) (n l : Nat) (e : Elem) : (g.setVreg n l e).rb = g.rb := rfl
@[simp] theorem setVreg_hb (g : Group) (n l : Nat) (e : Elem) : (g.setVreg n l e).hb = g.hb := rfl
@[simp] theorem setVreg_hr (g : Group) (n l : Nat) (e : Elem) : (g.setVreg n l e).hr = g.hr := rfl
@[simp] theorem setVreg_hrPc (g : Group) (n l : Nat) (e : Elem) : (g.setVreg n l e).hrPc = g.hrPc := rfl
@[simp] theorem setVreg_hrSame (g : Group) (n l : Nat) (e : Elem) : (g.setVreg n l e).hrSame = g.hrSame := rfl
@[simp] theorem setVreg_sched (g : Group) (n l : Nat) (e : Elem) : (g.setVreg n l e).sched = g.sched := rfl
@[simp] theorem setVreg_slot (g : Group) (n l : Nat) (e : Elem) : (g.setVreg n l e).slot = g.slot := rfl
@[simp] theorem setVreg_stall (g : Group) (n l : Nat) (e : Elem) : (g.setVreg n l e).stall = g.stall := rfl
@[simp] theorem setVreg_hold (g : Group) (n l : Nat) (e : Elem) : (g.setVreg n l e).hold = g.hold := rfl
@[simp] theorem setVreg_ended (g : Group) (n l : Nat) (e : Elem) : (g.setVreg n l e).ended = g.ended := rfl
@[simp] theorem setVreg_nextId (g : Group) (n l : Nat) (e : Elem) : (g.setVreg n l e).nextId = g.nextId := rfl
@[simp] theorem setVreg_pend (g : Group) (n l : Nat) (e : Elem) : (g.setVreg n l e).pend = g.pend := rfl
@[simp] theorem setVreg_flags (g : Group) (n l : Nat) (e : Elem) : (g.setVreg n l e).flags = g.flags := rfl
@[simp] theorem setVreg_trapc (g : Group) (n l : Nat) (e : Elem) : (g.setVreg n l e).trapc = g.trapc := rfl
@[simp] theorem setVreg_trapa (g : Group) (n l : Nat) (e : Elem) : (g.setVreg n l e).trapa = g.trapa := rfl
@[simp] theorem setVreg_trappc (g : Group) (n l : Nat) (e : Elem) : (g.setVreg n l e).trappc = g.trappc := rfl
@[simp] theorem setVreg_psnm (g : Group) (n l : Nat) (e : Elem) : (g.setVreg n l e).psnm = g.psnm := rfl
@[simp] theorem setVreg_repi (g : Group) (n l : Nat) (e : Elem) : (g.setVreg n l e).repi = g.repi := rfl
@[simp] theorem setVreg_rep (g : Group) (n l : Nat) (e : Elem) : (g.setVreg n l e).rep = g.rep := rfl
@[simp] theorem setVreg_hstat (g : Group) (n l : Nat) (e : Elem) : (g.setVreg n l e).hstat = g.hstat := rfl
@[simp] theorem setVreg_qstat (g : Group) (n l : Nat) (e : Elem) : (g.setVreg n l e).qstat = g.qstat := rfl
@[simp] theorem setVreg_mprog (g : Group) (n l : Nat) (e : Elem) : (g.setVreg n l e).mprog = g.mprog := rfl
@[simp] theorem setVreg_ts (g : Group) (n l : Nat) (e : Elem) : (g.setVreg n l e).ts = g.ts := rfl
@[simp] theorem setVreg_taskid (g : Group) (n l : Nat) (e : Elem) : (g.setVreg n l e).taskid = g.taskid := rfl
@[simp] theorem setVreg_task (g : Group) (n l : Nat) (e : Elem) : (g.setVreg n l e).task = g.task := rfl
@[simp] theorem setVreg_freeSince (g : Group) (n l : Nat) (e : Elem) : (g.setVreg n l e).freeSince = g.freeSince := rfl
@[simp] theorem setVreg_stopping (g : Group) (n l : Nat) (e : Elem) : (g.setVreg n l e).stopping = g.stopping := rfl
@[simp] theorem setVreg_spawnWait (g : Group) (n l : Nat) (e : Elem) : (g.setVreg n l e).spawnWait = g.spawnWait := rfl
@[simp] theorem setVreg_drain (g : Group) (n l : Nat) (e : Elem) : (g.setVreg n l e).drain = g.drain := rfl
@[simp] theorem setVreg_ltrig (g : Group) (n l : Nat) (e : Elem) : (g.setVreg n l e).ltrig = g.ltrig := rfl
@[simp] theorem setVreg_origins (g : Group) (n l : Nat) (e : Elem) : (g.setVreg n l e).origins = g.origins := rfl
@[simp] theorem setVreg_originNext (g : Group) (n l : Nat) (e : Elem) : (g.setVreg n l e).originNext = g.originNext := rfl
@[simp] theorem setVreg_wsarea (g : Group) (n l : Nat) (e : Elem) : (g.setVreg n l e).wsarea = g.wsarea := rfl
@[simp] theorem setVreg_ahead (g : Group) (n l : Nat) (e : Elem) : (g.setVreg n l e).ahead = g.ahead := rfl
@[simp] theorem setVreg_asyncs (g : Group) (n l : Nat) (e : Elem) : (g.setVreg n l e).asyncs = g.asyncs := rfl
@[simp] theorem setVreg_item (g : Group) (n l : Nat) (e : Elem) : (g.setVreg n l e).item = g.item := rfl
@[simp] theorem setVreg_trapRun (g : Group) (n l : Nat) (e : Elem) : (g.setVreg n l e).trapRun = g.trapRun := rfl
@[simp] theorem setVreg_svcCmd (g : Group) (n l : Nat) (e : Elem) : (g.setVreg n l e).svcCmd = g.svcCmd := rfl
@[simp] theorem setVreg_svcNow (g : Group) (n l : Nat) (e : Elem) : (g.setVreg n l e).svcNow = g.svcNow := rfl
@[simp] theorem setVreg_ordered (g : Group) (n l : Nat) (e : Elem) : (g.setVreg n l e).ordered = g.ordered := rfl
@[simp] theorem setVreg_trapWr (g : Group) (n l : Nat) (e : Elem) : (g.setVreg n l e).trapWr = g.trapWr := rfl
@[simp] theorem setVreg_asked (g : Group) (n l : Nat) (e : Elem) : (g.setVreg n l e).asked = g.asked := rfl
@[simp] theorem setVreg_lastIssue (g : Group) (n l : Nat) (e : Elem) : (g.setVreg n l e).lastIssue = g.lastIssue := rfl
@[simp] theorem setVreg_push (g : Group) (n l : Nat) (e : Elem) : (g.setVreg n l e).push = g.push := rfl
@[simp] theorem setVreg_issueNo (g : Group) (n l : Nat) (e : Elem) : (g.setVreg n l e).issueNo = g.issueNo := rfl

@[simp] theorem setSreg_width (g : Group) (n : Nat) (v : Scal) : (g.setSreg n v).width = g.width := rfl
@[simp] theorem setSreg_win (g : Group) (n : Nat) (v : Scal) : (g.setSreg n v).win = g.win := rfl
@[simp] theorem setSreg_nscal (g : Group) (n : Nat) (v : Scal) : (g.setSreg n v).nscal = g.nscal := rfl
@[simp] theorem setSreg_lanes (g : Group) (n : Nat) (v : Scal) : (g.setSreg n v).lanes = g.lanes := rfl
@[simp] theorem setSreg_regs (g : Group) (n : Nat) (v : Scal) : (g.setSreg n v).regs = g.regs := rfl
@[simp] theorem setSreg_rb (g : Group) (n : Nat) (v : Scal) : (g.setSreg n v).rb = g.rb := rfl
@[simp] theorem setSreg_hb (g : Group) (n : Nat) (v : Scal) : (g.setSreg n v).hb = g.hb := rfl
@[simp] theorem setSreg_hr (g : Group) (n : Nat) (v : Scal) : (g.setSreg n v).hr = g.hr := rfl
@[simp] theorem setSreg_hrPc (g : Group) (n : Nat) (v : Scal) : (g.setSreg n v).hrPc = g.hrPc := rfl
@[simp] theorem setSreg_hrSame (g : Group) (n : Nat) (v : Scal) : (g.setSreg n v).hrSame = g.hrSame := rfl
@[simp] theorem setSreg_sched (g : Group) (n : Nat) (v : Scal) : (g.setSreg n v).sched = g.sched := rfl
@[simp] theorem setSreg_slot (g : Group) (n : Nat) (v : Scal) : (g.setSreg n v).slot = g.slot := rfl
@[simp] theorem setSreg_stall (g : Group) (n : Nat) (v : Scal) : (g.setSreg n v).stall = g.stall := rfl
@[simp] theorem setSreg_hold (g : Group) (n : Nat) (v : Scal) : (g.setSreg n v).hold = g.hold := rfl
@[simp] theorem setSreg_ended (g : Group) (n : Nat) (v : Scal) : (g.setSreg n v).ended = g.ended := rfl
@[simp] theorem setSreg_nextId (g : Group) (n : Nat) (v : Scal) : (g.setSreg n v).nextId = g.nextId := rfl
@[simp] theorem setSreg_pend (g : Group) (n : Nat) (v : Scal) : (g.setSreg n v).pend = g.pend := rfl
@[simp] theorem setSreg_flags (g : Group) (n : Nat) (v : Scal) : (g.setSreg n v).flags = g.flags := rfl
@[simp] theorem setSreg_trapc (g : Group) (n : Nat) (v : Scal) : (g.setSreg n v).trapc = g.trapc := rfl
@[simp] theorem setSreg_trapa (g : Group) (n : Nat) (v : Scal) : (g.setSreg n v).trapa = g.trapa := rfl
@[simp] theorem setSreg_trappc (g : Group) (n : Nat) (v : Scal) : (g.setSreg n v).trappc = g.trappc := rfl
@[simp] theorem setSreg_psnm (g : Group) (n : Nat) (v : Scal) : (g.setSreg n v).psnm = g.psnm := rfl
@[simp] theorem setSreg_repi (g : Group) (n : Nat) (v : Scal) : (g.setSreg n v).repi = g.repi := rfl
@[simp] theorem setSreg_rep (g : Group) (n : Nat) (v : Scal) : (g.setSreg n v).rep = g.rep := rfl
@[simp] theorem setSreg_hstat (g : Group) (n : Nat) (v : Scal) : (g.setSreg n v).hstat = g.hstat := rfl
@[simp] theorem setSreg_qstat (g : Group) (n : Nat) (v : Scal) : (g.setSreg n v).qstat = g.qstat := rfl
@[simp] theorem setSreg_mprog (g : Group) (n : Nat) (v : Scal) : (g.setSreg n v).mprog = g.mprog := rfl
@[simp] theorem setSreg_ts (g : Group) (n : Nat) (v : Scal) : (g.setSreg n v).ts = g.ts := rfl
@[simp] theorem setSreg_taskid (g : Group) (n : Nat) (v : Scal) : (g.setSreg n v).taskid = g.taskid := rfl
@[simp] theorem setSreg_task (g : Group) (n : Nat) (v : Scal) : (g.setSreg n v).task = g.task := rfl
@[simp] theorem setSreg_freeSince (g : Group) (n : Nat) (v : Scal) : (g.setSreg n v).freeSince = g.freeSince := rfl
@[simp] theorem setSreg_stopping (g : Group) (n : Nat) (v : Scal) : (g.setSreg n v).stopping = g.stopping := rfl
@[simp] theorem setSreg_spawnWait (g : Group) (n : Nat) (v : Scal) : (g.setSreg n v).spawnWait = g.spawnWait := rfl
@[simp] theorem setSreg_drain (g : Group) (n : Nat) (v : Scal) : (g.setSreg n v).drain = g.drain := rfl
@[simp] theorem setSreg_ltrig (g : Group) (n : Nat) (v : Scal) : (g.setSreg n v).ltrig = g.ltrig := rfl
@[simp] theorem setSreg_origins (g : Group) (n : Nat) (v : Scal) : (g.setSreg n v).origins = g.origins := rfl
@[simp] theorem setSreg_originNext (g : Group) (n : Nat) (v : Scal) : (g.setSreg n v).originNext = g.originNext := rfl
@[simp] theorem setSreg_wsarea (g : Group) (n : Nat) (v : Scal) : (g.setSreg n v).wsarea = g.wsarea := rfl
@[simp] theorem setSreg_ahead (g : Group) (n : Nat) (v : Scal) : (g.setSreg n v).ahead = g.ahead := rfl
@[simp] theorem setSreg_asyncs (g : Group) (n : Nat) (v : Scal) : (g.setSreg n v).asyncs = g.asyncs := rfl
@[simp] theorem setSreg_item (g : Group) (n : Nat) (v : Scal) : (g.setSreg n v).item = g.item := rfl
@[simp] theorem setSreg_trapRun (g : Group) (n : Nat) (v : Scal) : (g.setSreg n v).trapRun = g.trapRun := rfl
@[simp] theorem setSreg_svcCmd (g : Group) (n : Nat) (v : Scal) : (g.setSreg n v).svcCmd = g.svcCmd := rfl
@[simp] theorem setSreg_svcNow (g : Group) (n : Nat) (v : Scal) : (g.setSreg n v).svcNow = g.svcNow := rfl
@[simp] theorem setSreg_ordered (g : Group) (n : Nat) (v : Scal) : (g.setSreg n v).ordered = g.ordered := rfl
@[simp] theorem setSreg_trapWr (g : Group) (n : Nat) (v : Scal) : (g.setSreg n v).trapWr = g.trapWr := rfl
@[simp] theorem setSreg_asked (g : Group) (n : Nat) (v : Scal) : (g.setSreg n v).asked = g.asked := rfl
@[simp] theorem setSreg_lastIssue (g : Group) (n : Nat) (v : Scal) : (g.setSreg n v).lastIssue = g.lastIssue := rfl
@[simp] theorem setSreg_push (g : Group) (n : Nat) (v : Scal) : (g.setSreg n v).push = g.push := rfl
@[simp] theorem setSreg_issueNo (g : Group) (n : Nat) (v : Scal) : (g.setSreg n v).issueNo = g.issueNo := rfl

end Sys2Proof.Laws
end

