-- ==== Sys2Proof/Laws/Issue.lean ====
section
/-! SUPPORT. What an issue does, said once: where every check passes it is the instruction's own effect, and with a
context to issue it always answers a next state. -/

namespace Sys2Proof.Laws
open Sys2Proof Sys2Proof.Machine

theorem group_grp {s : State} {c : Ctx} (h : (s.group? c).isSome = true) : s.group? c = some (s.grp c) := by
  unfold State.grp
  cases hg : s.group? c with
  | none => simp [hg] at h
  | some g => rfl

/-- An instruction that nothing keeps from issuing, and whose checks pass, has its own effect. -/
theorem issue_clear {s : State} {c : Ctx} {h : Head} {row : RowInfo} {slots : List Slot} (hc : s.clear c h row slots = true)
    (body : State → View → Effect) :
    s.issue h row slots body = s.finish c h (s.grp c).run (body s (s.view c h slots)) := by
  simp only [State.clear, State.mayStart, Bool.and_eq_true, beq_iff_eq, Bool.not_eq_true', Option.isNone_iff_eq_none,
    State.acts] at hc
  obtain ⟨⟨⟨⟨⟨⟨⟨⟨hs, hg⟩, hi⟩, ha⟩, hh⟩, hw⟩, hr⟩, hk⟩, hn⟩ := hc
  simp [State.issue, State.atIssue, hs, group_grp hg, hi, ha, State.settleHold, hh, hw, hr, hk, hn, State.view, State.acts]

/-- Outside `rep`, and once every earlier iteration has written its destinations, no word waits for one (R102). -/
theorem awaitsIteration_done {s : State} {c : Ctx} {g : Group} (hg : g.iterationsDone = true) (h : Head) (slots : List Slot) :
    s.awaitsIteration c g h slots = false := by
  simp [State.awaitsIteration, hg]

theorem iterationsDone_noRep {g : Group} (hg : g.rep = none) : g.iterationsDone = true := by simp [Group.iterationsDone, hg]

/-- A word whose guard is false in every lane reads no register. -/
theorem readsOf_nil (g : Group) (slots : List Slot) : g.readsOf slots [] = [] := by
  simp only [Group.readsOf, List.flatMap_eq_nil_iff]
  intro x _
  split <;> simp

/-- A word that reads no register waits for no earlier iteration (R102). -/
theorem awaitsIteration_reads {s : State} {c : Ctx} {g : Group} {h : Head} {slots : List Slot}
    (hr : g.readsOf slots (g.active h) = []) : s.awaitsIteration c g h slots = false := by
  have hp : ∀ d : Dest, d.parts.any ([] : List Dest).contains = false := by intro d; cases d <;> rfl
  simp only [State.awaitsIteration, hr, hp]
  split <;> simp

@[simp] theorem finish_done (s t : State) (c : Ctx) (h : Head) (run : List Nat) :
    s.finish c h run (.done t) = .next ((t.onGroup c (fun x => (x.moveOn run).stalled h)).issued c h.hints.yld) := rfl
@[simp] theorem finish_goto (s t : State) (c : Ctx) (h : Head) (run : List Nat) :
    s.finish c h run (.goto t) = .next (t.jumped c h) := rfl
@[simp] theorem finish_held (s t : State) (c : Ctx) (h : Head) (run : List Nat) :
    s.finish c h run (.held t) = .next (t.issued c h.hints.yld) := rfl
@[simp] theorem finish_wait (s : State) (c : Ctx) (h : Head) (run : List Nat) : s.finish c h run .wait = .next s := rfl
@[simp] theorem finish_waitIn (s t : State) (c : Ctx) (h : Head) (run : List Nat) : s.finish c h run (.waitIn t) = .next t := rfl
@[simp] theorem finish_trap (s t : State) (c : Ctx) (h : Head) (run : List Nat) (i : TrapInfo) :
    s.finish c h run (.trap t i) = .next (t.trap c i) := rfl

/-- What follows an effect is always a next state. -/
theorem finish_next (s : State) (c : Ctx) (h : Head) (run : List Nat) (e : Effect) : ∃ t, s.finish c h run e = .next t := by
  cases e <;> exact ⟨_, rfl⟩

/-- With a context to issue, the issue boundary answers a next state when what follows it does. -/
theorem atIssue_next {s : State} {c : Ctx} (hs : s.sel = some c) (hg : (s.group? c).isSome = true)
    (w : State → Ctx → Group → Bool) (k : State → Ctx → Group → Host.Outcome State Fault Refusal)
    (hk : ∀ s' c' g', ∃ t, k s' c' g' = .next t) : ∃ t, s.atIssue w k = .next t := by
  simp only [State.atIssue, hs, group_grp hg]
  repeat' split
  all_goals first | exact ⟨_, rfl⟩ | exact hk _ _ _

/-- With a context to issue, an instruction answers a next state. -/
theorem issue_next {s : State} {c : Ctx} (hs : s.sel = some c) (hg : (s.group? c).isSome = true) (h : Head) (row : RowInfo)
    (slots : List Slot) (body : State → View → Effect) : ∃ t, s.issue h row slots body = .next t := by
  apply atIssue_next hs hg
  intro s' c' g'
  split
  · exact ⟨_, rfl⟩
  · exact finish_next _ _ _ _ _

/-- What a context's issue boundary may have done to a state: nothing, the acquire of an ended wait, or the end of a `wcnt`. -/
def Settled (s : State) (c : Ctx) (s1 : State) : Prop :=
  s1 = s ∨ (∃ sc, s1 = (s.acquire c sc).onGroup c (fun g => { g with hold := .none }))
    ∨ ∃ ldmax stmax stall yld, s1 = s.endWcnt c ldmax stmax stall yld

theorem settleHold_cases (s : State) (c : Ctx) (g : Group) : Settled s c (s.settleHold c g) := by
  unfold State.settleHold
  split
  · exact .inr (.inl ⟨_, rfl⟩)
  · exact .inr (.inr ⟨_, _, _, _, rfl⟩)
  · exact .inl rfl

/-- What every attempt to issue can do, before the instruction's own part: with the context's last wait settled or not, the context
waits, a pending trap comes first, or the state is passed on. -/
theorem atIssue_cases {s t : State} {waits : State → Ctx → Group → Bool}
    {k : State → Ctx → Group → Host.Outcome State Fault Refusal} (e : s.atIssue waits k = .next t) :
    ∃ c, s.sel = some c ∧
      ∃ s1, Settled s c s1 ∧
        (t = s1 ∨ (∃ a, t = s1.takeAsync c a) ∨ ∃ g, k s1 c g = .next t) := by
  unfold State.atIssue at e
  cases hs : s.sel with
  | none => simp [hs] at e
  | some c =>
    refine ⟨c, rfl, ?_⟩
    cases hg : s.group? c with
    | none => simp [hs, hg] at e
    | some g0 =>
      simp only [hs, hg] at e
      cases hc : s.canIssue c g0 with
      | false => simp [hc] at e; exact ⟨s, .inl rfl, .inl e.symm⟩
      | true =>
        cases hd : g0.dueAsync with
        | some a => simp [hc, hd] at e; exact ⟨_, settleHold_cases s c g0, .inr (.inl ⟨a, e.symm⟩)⟩
        | none =>
          simp only [hc, hd, Bool.not_true, Bool.false_eq_true, if_false] at e
          split at e
          · simp only [Host.Outcome.next.injEq] at e
            split at e
            · exact ⟨_, settleHold_cases s c g0, .inl e.symm⟩
            · exact ⟨s, .inl rfl, .inl e.symm⟩
          · refine ⟨_, settleHold_cases s c g0, ?_⟩
            split at e
            · simp at e; exact .inl e.symm
            · exact .inr (.inr ⟨_, e⟩)

/-- Everything an issue can do: with the context's last wait settled or not, it waits, the pending trap comes first, a check traps, or
the instruction has its effect. -/
theorem issue_cases {s t : State} {h : Head} {row : RowInfo} {slots : List Slot} {body : State → View → Effect}
    (e : s.issue h row slots body = .next t) :
    ∃ c, s.sel = some c ∧
      ∃ s1, Settled s c s1 ∧
        (t = s1 ∨ (∃ a, t = s1.takeAsync c a) ∨ (∃ i, t = s1.trap c i) ∨ ∃ g x, s1.finish c h g.run x = .next t
          ∧ (x = .done s1 ∨ x = body s1 { c, g, act := g.active h, op := opOf g slots })) := by
  obtain ⟨c, hs, s1, hp, h1 | h1 | ⟨g, h3⟩⟩ := atIssue_cases e
  · exact ⟨c, hs, s1, hp, .inl h1⟩
  · exact ⟨c, hs, s1, hp, .inr (.inl h1)⟩
  · refine ⟨c, hs, s1, hp, .inr (.inr ?_)⟩
    cases hi : s1.issueCheck c g h row slots with
    | some i => simp [hi] at h3; exact .inl ⟨i, h3.symm⟩
    | none =>
      simp only [hi] at h3
      refine .inr ⟨g, _, h3, ?_⟩
      split
      · exact .inl rfl
      · exact .inr rfl

end Sys2Proof.Laws
end

