-- ==== Sys2Proof/Laws/Memory.lean ====
section
/-! SUPPORT. Every operation that changes the memory keeps its canonical form, and the state after reset has it. -/

namespace Sys2Proof.Laws
open Sys2Proof Sys2Proof.Machine

/-- Folding operations that each keep a property keeps it. -/
theorem foldl_keeps {α β : Type} (P : α → Prop) (f : α → β → α) (hf : ∀ a b, P a → P (f a b)) (l : List β) (a : α) (h : P a) :
    P (l.foldl f a) := by
  induction l generalizing a with
  | nil => exact h
  | cons x r ih => exact ih _ (hf _ _ h)

theorem reset_mem_wf : Memory.wf State.reset.mem = true := rfl

theorem putCells_wf (cs : List (Nat × Byte)) (m : List Host.Cell) (line : Nat) (h : Memory.wf m = true) :
    Memory.wf (putCells m line cs) = true :=
  foldl_keeps (fun m => Memory.wf m = true) _ (fun _ _ h => Memory.wf_write _ _ _ h) cs m h

/-- A store at a line's home keeps the form. -/
theorem store_wf (s : State) (k line : Nat) (cs : List (Nat × Byte)) (h : Memory.wf s.mem = true) :
    Memory.wf (s.store k line cs).mem = true := by
  unfold State.store
  apply putCells_wf
  split
  · exact h
  · exact putCells_wf _ _ _ h

/-- A line's eviction keeps the form. -/
theorem evictL2_wf (s : State) (line : Nat) (h : Memory.wf s.mem = true) : Memory.wf (s.evictL2 line).mem = true := by
  unfold State.evictL2
  split
  · exact h
  · split
    · exact h
    · exact putCells_wf _ _ _ h

/-- A list of evictions keeps the form. -/
theorem evictAll_wf (ls : List Nat) (s : State) (h : Memory.wf s.mem = true) : Memory.wf (ls.foldl State.evictL2 s).mem = true :=
  foldl_keeps (fun s : State => Memory.wf s.mem = true) _ (fun _ _ h => evictL2_wf _ _ h) ls s h

/-- A line's ciphertext kept under another key keeps the form. -/
theorem turnLine_wf (s : State) (j k : Option (BitVec 512)) (line : Nat) (h : Memory.wf s.mem = true) :
    Memory.wf (s.turnLine j k line).mem = true := by
  unfold State.turnLine
  exact putCells_wf _ _ _ h

/-- A line kept as its ciphertext keeps the form. -/
theorem bareLine_wf (s : State) (line : Nat) (h : Memory.wf s.mem = true) : Memory.wf (s.bareLine line).mem = true := by
  simpa only [State.bareLine] using turnLine_wf s (s.key (Cells.get 0 s.keyOf line)) none line h

/-- A key slot's change keeps the form of the lines stored under it. -/
theorem rekeyLines_wf (s : State) (slot : Nat) (new : Option (BitVec 512)) (h : Memory.wf s.mem = true) :
    Memory.wf (s.rekeyLines slot new).mem = true := by
  unfold State.rekeyLines
  exact foldl_keeps (fun s : State => Memory.wf s.mem = true) _ (fun _ _ h => turnLine_wf _ _ _ _ h) _ s h

/-- A key loaded or cleared keeps the form. -/
theorem setKey_wf (s : State) (slot : Nat) (new : Option (BitVec 512)) (h : Memory.wf s.mem = true) :
    Memory.wf (s.setKey slot new).mem = true := by
  unfold State.setKey
  exact rekeyLines_wf _ _ _ (evictAll_wf _ _ h)

/-- An image put into its place keeps the form. -/
theorem putSaved_wf (s : State) (im : Image) (h : Memory.wf s.mem = true) : Memory.wf (s.putSaved im).mem = true :=
  Memory.wf_writeN _ _ _ h

/-- Entries kept of a memory in the form are in the form. -/
theorem wf_filter (p : Nat × Byte → Bool) (m : List Host.Cell) (h : Memory.wf m = true) : Memory.wf (m.filter p) = true := by
  simp only [Memory.wf, Cells.rising, Bool.and_eq_true, List.all_filter] at h ⊢
  refine ⟨?_, ?_⟩
  · have h1 := h.1
    clear h
    generalize (none : Option Nat) = lo at h1 ⊢
    induction m generalizing lo with
    | nil => rfl
    | cons x r ih =>
      obtain ⟨k, w⟩ := x
      simp only [risingFrom_cons, Bool.and_eq_true] at h1
      rw [List.filter_cons]
      split
      · simp only [risingFrom_cons, Bool.and_eq_true]; exact ⟨h1.1, ih _ h1.2⟩
      · exact ih lo (risingFrom_weaken lo k r h1.2 h1.1)
  · rw [List.all_eq_true] at h ⊢
    intro x hx
    have := h.2 x hx
    simp_all

/-- What a module reset keeps of memory, the host's and the peers', is in the form. -/
theorem hostMemory_wf (s : State) (h : Memory.wf s.mem = true) : Memory.wf s.hostMemory = true := by
  unfold State.hostMemory
  apply foldl_keeps (fun m => Memory.wf m = true)
  · intro m x hm
    dsimp only
    split <;> split <;> first | exact Memory.wf_writeN _ _ _ (Memory.wf_writeN _ _ _ hm) | exact Memory.wf_writeN _ _ _ hm | exact hm
  · exact wf_filter _ _ h

/-- The host's and the peers' own writes keep the form. -/
theorem outsideWrite_wf (s : State) (pa : Nat) (bs : List Byte) (h : Memory.wf s.mem = true) :
    Memory.wf (s.outsideWrite pa bs).mem = true := by
  unfold State.outsideWrite
  apply foldl_keeps (fun m => Memory.wf m = true) _ _ _ _ h
  intro m b hm
  dsimp only
  split
  · exact Memory.wf_write _ _ _ hm
  · exact hm

/-- Keys moved: the form is kept. -/
theorem rekey_wf (f : Nat → Nat) (m : List Host.Cell) (h : Memory.wf m = true) : Memory.wf (rekey f m) = true := by
  have key : ∀ (l acc : List Host.Cell), l.all (fun c => c.2 != 0) = true → Memory.wf acc = true →
      Memory.wf (l.foldl (fun acc c => Cells.set acc (f c.1) c.2) acc) = true := by
    intro l
    induction l with
    | nil => intro acc _ ha; exact ha
    | cons x r ih =>
      intro acc hl ha
      simp only [List.all_cons, Bool.and_eq_true] at hl
      refine ih _ hl.2 ?_
      simp only [Memory.wf, Cells.rising, Bool.and_eq_true] at ha ⊢
      exact ⟨risingFrom_set _ _ _ _ ha.1 rfl, all_set _ _ _ _ ha.2 hl.1⟩
  simp only [Memory.wf, Bool.and_eq_true] at h
  exact key m [] h.2 rfl

/-- Bytes written one after another at places of their own keep the form. -/
theorem tables_wf (l : List (Nat × Nat)) (m : List Host.Cell) (h : Memory.wf m = true) :
    Memory.wf (l.foldl (fun m e => Memory.writeN m e.1 (leBytes e.2 8)) m) = true :=
  foldl_keeps (fun m => Memory.wf m = true) _ (fun _ _ h => Memory.wf_writeN _ _ _ h) l m h

/-- A word placed where the next step fetches keeps the form. -/
theorem withFetchWord_wf (s : State) (nbits w : Nat) (h : Memory.wf s.mem = true) : Memory.wf (s.withFetchWord nbits w).mem = true :=
  Memory.wf_writeN _ _ _ (tables_wf _ _ h)

end Sys2Proof.Laws
end

