-- ==== Sys2Proof/Tests/Slice0.lean ====
section
/-! SUPPORT. Tests: words of the specification's encodings decoded, ill-formed terms refused, single steps on small states, and
for each statement a state and operands that meet its hypotheses. -/

namespace Sys2Proof.Tests
set_option Elab.async false

open Sys2Proof Sys2Proof.Machine

/-! ### Small states -/

/-- No MOD bit set. -/
def z : Mods := ⟨false, .rn, false, false, false⟩
/-- Guard p7, no hint, no modifier. -/
def hd : Head := headOf z
/-- Plain memory modifiers. -/
def mm : MemMod := ⟨0, .normal, .one, .grp, .none⟩
/-- The group of the test program. -/
def c0 : Ctx := .grp 1 0
/-- A group of core 0 about to issue, every lane live at one PC. -/
def P : State := { State.reset.withFetchWord 96 0 with turns := [], sel := some c0 }
/-- The same with its group changed. -/
def onG (f : Group → Group) : State := P.onGroup c0 f
/-- The same with its block changed. -/
def onB (f : Block → Block) : State := P.onBlock 1 f
/-- Guard p0. -/
def h1 : Head := { hd with guard := ⟨0, false⟩ }
/-- The group with p0 true in lane 0 alone. -/
def P1 : State := onG (fun g => g.onLanes [0] (fun l => l.setPred 0 true))
/-- A group of core 0's supervisor slot about to issue, its scheduler's group trapped. -/
def S : State :=
  { (onG (fun g => { g with hold := .trapped })).onSup 0 0 (fun p =>
      { p with active := true, g := { p.g with win := 4, nscal := 64, width := 32, lanes := List.replicate 32 {} } }) with
    sel := some (.sup 0 0) }

/-- The one lane's access that a translation gives, none if it fails. -/
def xlOne (x : State × List LaneXl) : Option (Xl × Spot) :=
  match x.2 with
  | [y] => y.r.toOption
  | _ => none

/-! ### States that meet the statements' hypotheses -/

theorem witness_IntegerArithmeticCompletes :
    P.clear c0 hd { rpt := true } [slotD (.v 2) (tyWide .i32), slotS .a (.v 0) (tyWide .i32) (.v 2), slotS .b (.k 1) (tyWide .i32) (.v 2)] = true
    ∧ P.clear c0 hd { rpt := true } [slotD (.v 2) (tyWide .i64), slotS .a (.v 0) (tyWide .i64) (.v 2),
        slotS .b (.v 4) (tyWide .i64) (.v 2), slotS .c (.s 63) (tyWide .i64) (.v 2)] = true
    ∧ P.clear c0 hd { rpt := true } [slotD (.v 2) true, slotS .a (.v 0) false (.v 2), slotS .b (.v 1) false (.v 2), slotS .c (.v 62) true (.v 2)] = true
    ∧ P.clear c0 hd { rpt := true } [slotD (.p 7) (tyWide .i32), slotS .a (.v 63) (tyWide .i32) (.p 7)] = true := by decide +kernel

theorem witness_BitwiseAndShiftsComplete :
    P.clear c0 hd { rpt := true } [slotD (.s 0) (tyWide .b64), slotS .a (.v 0) (tyWide .b64) (.s 0), slotS .b (.k 1) (tyWide .b64) (.s 0)] = true
    ∧ P.clear c0 hd { rpt := true } [slotD (.v 2) (tyWide .b64), slotS .a (.v 0) (tyWide .b64) (.v 2), slotS .b (.v 63) false (.v 2)] = true
    ∧ P.clear c0 hd { rpt := true } [slotD (.k 0) (tyWide .b32), slotS .a (.special 8) (tyWide .b32) (.k 0)] = true := by decide +kernel

theorem witness_FieldsAndMovesComplete :
    P.clear c0 hd { rpt := true } [slotD (.v 2) (tyWide .b32), slotS .a (.v 0) (tyWide .b32) (.v 2), slotS .b (.v 1) false (.v 2), slotS .c (.v 3) false (.v 2)] = true
    ∧ P.clear c0 hd { rpt := true } [slotD (.v 2) (tyWide .b64), slotS .a (.v 0) (tyWide .b64) (.v 2), slotS .b (.v 4) (tyWide .b64) (.v 2), slotS .c (.v 3) false (.v 2)] = true
    ∧ P.clear c0 hd { rpt := true } [slotD (.v 2) false, slotS .a (.v 0) false (.v 2), slotS .b (.v 1) false (.v 2), slotS .c (.v 3) false (.v 2)] = true
    ∧ P.clear c0 hd { rpt := true } [slotD (.v 2) (tyWide .b64), slotS .a (.v 0) (tyWide .b64) (.v 2), slotS .b (.v 4) (tyWide .b64) (.v 2), slotP .c (.p 1) false] = true
    ∧ P.clear c0 hd { rpt := true } [slotD (.v 2) (tyWide .b64), slotS .a (.v 0) (tyWide .b64) (.v 2)] = true
    ∧ P.clear c0 hd { rpt := true } [slotD (.v 2) (tyWide .b64)] = true
    ∧ P.clear c0 hd { rpt := true } [slotD (.v 2) (tyWide .b64), slotS .a (.v 0) (tyWide .b64) (.v 2), slotS .b (.v 4) false (.v 2)] = true := by decide +kernel

theorem witness_ComparisonsAndPredicatesComplete :
    P.clear c0 hd { rpt := true } [slotP .d (.p 7) true, slotS .a (.v 0) (tyWide .i32) (.p 7), slotS .b (.v 1) (tyWide .i32) (.p 7)] = true
    ∧ P.clear c0 hd { rpt := true } [slotP .d (.p 0) true, slotS .a (.v 0) (tyWide .i64) (.p 0)] = true
    ∧ P.clear c0 hd {} [slotP .d (.p 0) true, slotP .a (.p 7) false, slotP .b (.p 1) false] = true
    ∧ P.clear c0 hd {} [slotP .d (.p 0) true, slotP .a (.p 7) false] = true := by decide +kernel

theorem witness_LaneInstructionsComplete :
    P.clear c0 hd { coll := true } [{ slotD (.v 1) false with okP := false }, slotP .a (.p 0) false] = true
    ∧ (let sl := [slotD (.v 1) false, { pos := .a, op := .v 0, okS := false, okP := false, okSp := false, okK := false }, slotS .b (.k 3) false (.v 1)]
       P.clear c0 hd { coll := true, rpt := true } sl = true ∧ opOf (P.grp c0) sl .d = .v 1)
    ∧ (let sl := [slotD (.v 2) (tyWide .b64), { pos := .a, op := .v 0, wide := tyWide .b64, okS := false, okP := false, okSp := false, okK := false },
        { slotS .b (.k 31) false (.v 2) with okV := false, okP := false, okSp := false }]
       P.clear c0 hd { rpt := true } sl = true ∧ opOf (P.grp c0) sl .d = .v 2)
    ∧ P.clear c0 hd { coll := true, rpt := true } (laneSlots .add .f32 (.v 1) (.v 0)) = true := by decide +kernel

/-- With no exception enabled, nothing traps. -/
theorem noFpx_of_flags {s : State} {c : Ctx} (h : (s.grp c).flags = 0) (res : List FLane) : s.noFpx c res = true := by
  have e : fpxLanes (s.grp c).flags (res.map (fun r => (r.lane, r.fl))) = [] := by
    rw [h]; unfold fpxLanes enabledOf
    rw [List.filter_eq_nil_iff.mpr (by intro r _; simp [field])]; rfl
  unfold State.noFpx fpxOf; rw [e]; rfl

theorem witness_FloatArithmeticCompletes :
    (let sl := [slotFD (.v 2) (tyWide .f64), slotFS .a (.v 0) .f64, slotFS .b (.k 1) .f64]
     P.clear c0 hd (fpRow [.f64]) sl = true)
    ∧ P.clear c0 hd (fpRow [.f32, .f32]) [slotFD (.v 2) (tyWide .f32), slotFS .a (.v 0) .f32] = true
    ∧ P.clear c0 hd (fpRow [.f32]) [slotFD (.v 2) (tyWide .f32), slotFS .a (.v 0) .f32, slotFS .b (.v 1) .f32, slotFS .c (.v 3) .f32] = true
    ∧ P.clear c0 hd (fpRow [.f32]) [slotFD (.v 2) false, slotFS .a (.v 0) .f32] = true
    ∧ P.clear c0 hd (fpRow [.bf16]) [slotP .d (.p 1) true, { slotFS .a (.v 0) .bf16 with consumed := true }, { slotFS .b (.v 1) .bf16 with consumed := true }] = true
    ∧ (P.grp c0).flags = 0 := by decide +kernel

theorem witness_ConversionsAndSpecialFunctionsComplete :
    P.clear c0 hd (fpRow [.e4m3, .f32]) [slotFD (.v 2) (tyWide .e4m3), slotFS .a (.v 0) .f32] = true
    ∧ P.clear c0 hd (fpRow [.f32, .f64]) [slotFD (.v 2) (tyWide .f32), slotFS .a (.v 0) .f64] = true
    ∧ P.clear c0 hd (fpRow [.f16, .f16]) [slotFD (.v 2) (tyWide .f16), slotFS .a (.v 0) .f16] = true
    ∧ P.clear c0 hd (fpRow [.e5m2]) [slotFD (.v 2) false, slotFS .a (.v 0) .f32] = true
    ∧ P.clear c0 hd (fpRow [.f32]) [slotFD (.v 2) (tyWide .f32), { pos := .a, op := .v 0, wide := tyWide .i32 }] = true
    ∧ P.clear c0 hd (fpRow [.f32]) [slotFD (.v 2) (tyWide .i64), slotFS .a (.v 0) .f32] = true
    ∧ (P.grp c0).flags = 0 := by decide +kernel

theorem witness_PackedConversionsComplete :
    P.clear c0 hd (fpRow [.f16]) [slotFD (.v 2) false, slotFS .a (.v 0) .f16, slotFS .b (.v 1) .f16, slotFS .c (.v 3) .f32] = true
    ∧ P.clear c0 hd (fpRow [.e4m3]) (packSlots .e4m3 (.v 20) (.v 8) (.v 10)) = true
    ∧ P.clear c0 hd (fpRow [.e2m1]) [{ slotFD (.v 20) false with run := unpackRun .e2m1, okS := false, okK := false }, slotFS .a (.v 6) .e2m1, { pos := .b, op := .v 5 }] = true
    ∧ P.clear c0 hd (fpRow [.f16]) [{ slotFD (.v 20) false with run := unpackRun .f16, okS := false, okK := false }, slotFS .a (.v 6) .f16,
        { pos := .b, op := .k 0, okV := false, okS := false, okP := false, okSp := false, okK := true }] = true
    ∧ P.clear c0 hd (fpRow [.e4m3]) [slotFD (.v 5) false, slotFS .a (.v 4) .f32, { pos := .b, op := .k 0 }] = true
    ∧ (P.grp c0).flags = 0 := by decide +kernel

/-- The supervisor slot issues, and a group in its handler does. -/
theorem witness_ReturnFromTrapCompletes :
    S.clear (.sup 0 0) hd { hdl := true } [] = true
    ∧ (let s := onG (fun g => { g with hb := some 2, lanes := g.lanes.map (fun l => { l with depth := 2 }) })
       s.clear c0 hd { hdl := true } [] = true ∧ (∀ l ∈ s.acts c0 hd, (s.grp c0).rb + 2 ≤ ((s.grp c0).lane l).depth)
       ∧ ∀ l ∈ s.acts c0 hd, ((s.grp c0).vreg 0 l).tag = false ∧ ((s.grp c0).vreg 1 l).tag = false) := by decide +kernel

theorem witness_InvalidationsAndTagsComplete :
    (let sl := [scalarSlot .a (.s 0), scalarSlot .b (.s 1)]
     S.clear (.sup 0 0) hd { sup := true } sl = true
      ∧ field (S.src (.sup 0 0) (S.grp (.sup 0 0)) (opOf (S.grp (.sup 0 0)) sl .b) true none 0).v.toNat 34 30 = 0)
    ∧ P.clear c0 hd {} [scalarSlot .a (.s 0), { pos := .b, op := .k 4, okV := false, okP := false, okSp := false, consumed := true }] = true
    ∧ P.clear c0 hd {} [] = true
    ∧ P.clear c0 hd { rpt := true } [slotP .d (.p 0) true, tagSlot .a (.v 1) false] = true
    ∧ P.clear c0 hd { rpt := true } [tagSlot .d (.v 3) true] = true ∧ opOf (P.grp c0) [tagSlot .d (.v 3) true] .d = .v 3
    ∧ P.clear c0 hd { rpt := true } [tagSlot .d (.s 3) true] = true ∧ opOf (P.grp c0) [tagSlot .d (.s 3) true] .d = .s 3 := by decide +kernel

theorem witness_HousekeepingCompletes :
    P.clear c0 hd {} [] = true ∧ (P.grp c0).ldcnt ≤ (255#8).toNat ∧ (P.grp c0).stcnt ≤ (0#8).toNat
    ∧ (let s := onG (fun g => g.addPending true [] 0)
       s.clear c0 hd {} [] = true ∧ (0#8).toNat < (s.grp c0).ldcnt) := by decide +kernel

theorem witness_BranchesComplete :
    P.clear c0 hd {} [] = true ∧ P.clear c0 hd {} [slotTarget (.v 2)] = true
    ∧ (let s := onG (fun g => { g with lanes := g.lanes.map (fun l => { l with depth := 2 }) })
       s.clear c0 hd {} [] = true
       ∧ (∀ l ∈ s.acts c0 hd, ((s.grp c0).lane l).depth + 1 - (s.grp c0).rb < (s.grp c0).win))
    ∧ (let s := onG (fun g => { g with lanes := g.lanes.map (fun l => { l with depth := 1 }) })
       let up (x : Group) : Group := x.onLanes (s.acts c0 hd) (fun y => { y with depth := y.depth - 1 })
       s.clear c0 hd {} [] = true ∧ (∀ l ∈ s.acts c0 hd, (s.grp c0).rb < ((s.grp c0).lane l).depth)
       ∧ ∀ l ∈ s.acts c0 hd, ((up (s.grp c0)).vreg 46 l).tag = false ∧ ((up (s.grp c0)).vreg 47 l).tag = false) := by decide +kernel

theorem witness_ExitCompletes :
    P.clear c0 hd {} [] = true ∧ S.clear (.sup 0 0) hd {} [] = true
    ∧ (let half := { hd with guard := ⟨0, false⟩ }
       let s := onG (fun g => g.onLanes [0] (fun l => l.setPred 0 true))
       s.clear c0 half {} [] = true ∧ ((s.grp c0).leave (s.acts c0 half) ((s.grp c0).run.filter (fun l => !(s.acts c0 half).contains l))).alive = true)
    ∧ ((P.grp c0).leave (P.acts c0 hd) []).alive = false ∧ (P.grp c0).task.isSome = false := by decide +kernel

theorem witness_SpecialRegisterMovesComplete :
    P.clear c0 hd {} [slotD (.v 2) (operandWide64 (.special 19)),
      { pos := .a, op := .special 19, wide := true, okV := false, okS := false, okP := false, okK := false }] = true
    ∧ P.clear c0 hd {} [{ slotD (.special 32) false with okV := false, okS := false, okP := false, okK := false },
      { pos := .a, op := .v 0, consumed := true, low := true }] = true
    ∧ P.clear c0 hd {} [{ pos := .a, op := .k 0, wide := true, okP := false, okSp := false, consumed := true, low := true }] = true := by decide +kernel

/-- The supervisor slot with a command at physical 0. -/
def cmdAt (op : Nat) : State := { S with mem := Memory.writeN S.mem 0 (leBytes op 8) }

theorem witness_ContextCommandsComplete :
    (∀ op ∈ [0, 1, 2, 3, 4],
      let s := cmdAt op
      let c : Ctx := .sup 0 0
      s.clear c hd { sup := true } [scalarSlot .a (.s 0)] = true
      ∧ (s.src c (s.grp c) (opOf (s.grp c) [scalarSlot .a (.s 0)] .a) true none 0).v = 0
      ∧ isHbm 0 = true ∧ s.spot 0 ≠ .unbacked
      ∧ (ctxCmdOf (leNat ((s.homeTouch { die := dieOf (s.ctxUnit c) } 0).bytesUnder 0 0 64))).op = op
      ∧ (ctxCmdOf (leNat ((s.homeTouch { die := dieOf (s.ctxUnit c) } 0).bytesUnder 0 0 64))).ok = (op != 0)) := by decide +kernel

theorem witness_WindowMovesComplete :
    S.clear (.sup 0 0) hd { sup := true } [] = true ∧ S.svTarget 0 0 = some c0 ∧ (S.grp c0).pinned = true
    ∧ (let s := S.onGroup c0 (fun g => { g with rb := 1, lanes := g.lanes.map (fun l => { l with depth := 2 }) })
       s.clear (.sup 0 0) hd { sup := true } [] = true ∧ s.svTarget 0 0 = some c0 ∧ (s.grp c0).rb ≠ 0 ∧ (s.grp c0).pinned = false
       ∧ s.spot ((s.grp c0).frameAt (s.grp c0).rb) ≠ .unbacked) := by decide +kernel

/-- An access of lane 0 at virtual 0, which its table maps to HBM. -/
theorem witness_LoadsAndStoresComplete :
    (∀ m ∈ [mm, ⟨0, .normal, .four, .dev, .acq⟩],
      let sl := [loadSlot .b32 (countOf m.cnt) (.v 8), addrSlot (.v 2)]
      let eas := P1.addresses (P1.view c0 h1 sl) m.off
      let x := P1.translateLanes c0 .read eas
      P1.clear c0 h1 { rpt := true, ld := true } sl = true ∧ misaligned (countOf m.cnt * tyBytes .b32) eas = none
      ∧ windowTrap (P1.view c0 h1 sl).sup (tyBytes .b32) x.2 = none ∧ P1.parksOn c0 eas = false ∧ P1.taskLost x.1 c0 = false
      ∧ x.1.behindGranule c0 (countOf m.cnt * tyBytes .b32) (windowParts x.2) = false
      ∧ (x.1.lacksRoom c0 false x.2).isNone = true ∧ x.2.all (fun y => match y.r with | .ok z => z.1.pa = 0 | .error _ => false) = true)
    ∧ (∀ m ∈ [mm, ⟨8, .normal, .two, .sys, .rel⟩],
      let sl := [addrSlot (.s 4), dataSlot .b32 (countOf m.cnt) (.v 8)]
      let eas := P1.addresses (P1.view c0 h1 sl) m.off
      let x := P1.translateLanes c0 .write eas
      P1.clear c0 h1 { rpt := true, st := true } sl = true ∧ misaligned (countOf m.cnt * tyBytes .b32) eas = none
      ∧ writeTrap (P1.view c0 h1 sl).sup (tyBytes .b32) x.2 = none ∧ P1.parksOn c0 eas = false ∧ P1.taskLost x.1 c0 = false
      ∧ x.1.behindGranule c0 (countOf m.cnt * tyBytes .b32) (windowParts x.2) = false
      ∧ (m.ord == .rel && x.1.unperformed c0) = false ∧ (x.1.lacksRoom c0 true x.2).isNone = true
      ∧ x.1.taskLost (if m.ord == .rel then x.1.release c0 m.scope else x.1) c0 = false)
    ∧ (let sl := [loadSlot .b32 1 (.v 8), addrSlot (.v 2)]
      let x := P1.translateLanes c0 .read (P1.addresses (P1.view c0 h1 sl) 0)
      P1.taskLost x.1 c0 = false ∧ x.1.requestsFull c0 x.2 = false) := by decide +kernel

theorem witness_ScratchpadAccessesComplete :
    let clear (sl : List Slot) : Bool := match P1.spadChecked (P1.view c0 h1 sl) .b32 with
      | .ok ts => !P1.behindGranule c0 4 (spadParts ts)
      | .error _ => false
    (let sl := [loadSlot .b32 1 (.v 8), spadSlot (.v 2)]
     P1.clear c0 h1 { rpt := true, ld := true } sl = true ∧ clear sl = true)
    ∧ (let sl := [spadSlot (.v 2), dataSlot .b32 1 (.v 8)]
     P1.clear c0 h1 { rpt := true, st := true } sl = true ∧ clear sl = true) := by
  decide +kernel

theorem witness_CacheAndFenceInstructionsComplete :
    P1.clear c0 h1 { rpt := true } [addrSlot (.v 2)] = true
    ∧ P1.requestsFull c0 (P1.prefetchLanes c0 (P1.addresses (P1.view c0 h1 [addrSlot (.v 2)]) 0)) = false
    ∧ P1.clear c0 h1 { st := true, parks := true } [{ addrSlot (.s 4) with okV := false },
        { pos := .b, op := .k 4, okV := false, okP := false, okSp := false, consumed := true }] = true
    ∧ P1.clear c0 h1 {} [] = true ∧ P1.unperformedLoad c0 = false ∧ P1.unperformed c0 = false
    ∧ (let sl := [{ pos := .a, op := .k 0, okV := false, okP := false, okSp := false, consumed := true : Slot }]
       P1.clear c0 h1 { parks := true } sl = true
       ∧ (P1.src c0 (P1.grp c0) (opOf (P1.grp c0) sl .a) false none 0).v.toNat = 0 ∧ P1.coreEnabled 0 = true
       ∧ (P1.part (P1.partOf c0)).has 0 = true)
    ∧ P1.clear c0 h1 { parks := !P1.selOnRoot } [] = true ∧ P1.onRoot c0 = false := by decide +kernel

theorem witness_AtomicsComplete :
    (∀ m ∈ [mm, ⟨0, .normal, .one, .dev, .ar⟩],
      let sl := [loadSlot .i32 1 (.v 8), addrSlot (.v 2), atomSlot .b .i32 (.v 3)]
      let v := P1.view c0 h1 sl
      let eas := P1.addresses v m.off
      let x := P1.translateLanes c0 .write eas
      P1.clear c0 h1 { rpt := true, ld := true, feat := tyFeat .i32 } sl = true ∧ misaligned (tyBytes .i32) eas = none
      ∧ x.1.atomTrap v (pcieAdd .i32) (tyBytes .i32) x.2 = none ∧ P1.parksOn c0 eas = false
      ∧ P1.taskLost x.1 c0 = false ∧ x.1.unperformed c0 = false ∧ (x.1.atomLacksRoom c0 x.2).isNone = true
      ∧ x.1.taskLost (x.1.release c0 m.scope) c0 = false)
    ∧ (let sl := [loadSlot .b32 1 (.v 8), addrSlot (.v 2), atomSlot .b .b32 (.v 3), atomSlot .c .b32 (.v 5)]
       let v := P1.view c0 h1 sl
       let eas := P1.addresses v 0
       let x := P1.translateLanes c0 .write eas
       P1.clear c0 h1 { rpt := true, ld := true } sl = true ∧ misaligned (tyBytes .b32) eas = none
       ∧ x.1.atomTrap v .exchange (tyBytes .b32) x.2 = none ∧ P1.parksOn c0 eas = false ∧ P1.taskLost x.1 c0 = false
       ∧ x.1.unperformed c0 = false ∧ (x.1.atomLacksRoom c0 x.2).isNone = true) := by decide +kernel

/-- The same group on root core 0 (R309). -/
def R : State := { P1.onBlock 1 (fun b => { b with unit := 0x8000 }) with units := Cells.set P1.units 0x8000 (P1.proc 0x8000).cleared }

theorem witness_ReductionsComplete :
    (∀ s ∈ [P1, R],
      let sl := [addrSlot (.v 2), atomSlot .b .i32 (.v 3)]
      let v := s.view c0 h1 sl
      let eas := s.addresses v mm.off
      let x := s.translateLanes c0 .write eas
      misaligned (tyBytes .i32) eas = none ∧ x.1.atomTrap v .none (tyBytes .i32) x.2 = none
      ∧ s.clear c0 h1 { rpt := true, st := true, parks := true, feat := tyFeat .i32 } sl = true
      ∧ s.clear c0 h1 { rpt := true, ld := true, feat := tyFeat .i32 } sl = true
      ∧ x.1.requestsFull c0 x.2 = false ∧ s.parksOn c0 eas = false ∧ s.taskLost x.1 c0 = false ∧ (x.1.atomLacksRoom c0 x.2).isNone = true)
    ∧ P1.onRoot c0 = false ∧ R.onRoot c0 = true := by decide +kernel

/-- A row of four f32 elements at virtual 0. -/
def W : State := { P1 with mem := Memory.writeN P1.mem 8 [4, 0, 0, 2] }

/-- The header that a row instruction reads at an address. -/
def opened (s : State) (v : View) (k : AccKind) (ea : W64) : Option RowHdr :=
  match s.rowPlace v k ea with
  | (s1, .ok (.ok y)) => (s1.rowOpen (leafKey y.leaf) y.pa .f32).2.toOption
  | _ => none

theorem witness_RowInstructionsComplete :
    (let sl := [{ loadSlot .b32 3 (.v 8) with okS := false }, rowSlot (.s 4),
        { pos := .b, op := .k 0, okV := false, okP := false, okSp := false, consumed := true }]
     let v := W.view c0 h1 sl
     W.clear c0 h1 { ld := true, feat := 0x80, parks := true } sl = true ∧ (W.src c0 (W.grp c0) (v.op .a) true none v.low).v = 0
     ∧ opened W v .read 0 = some ⟨0, 4, 2⟩
     ∧ W.slotsFull c0 (rowSectors 0 (rowRanges 0 .f32 4 (rowNamed .f32 (W.grp c0).width 0 1 (W.acts c0 h1)))) = false)
    ∧ (let sl := [rowSlot (.s 4), rowData (.v 8) 1]
     let v := W.view c0 h1 sl
     W.clear c0 h1 { st := true, feat := 0x80, parks := true } sl = true ∧ (W.src c0 (W.grp c0) (v.op .a) true none v.low).v = 0
     ∧ opened W v .write 0 = some ⟨0, 4, 2⟩
     ∧ ∀ len ∈ [4, rowMax .f32],
       W.slotsFull c0 (rowSectors 0 (rowRanges 0 .f32 len (rowNamed .f32 (W.grp c0).width 0 1 (W.acts c0 h1)))) = false) := by
  constructor <;> decide +kernel

/-- The group of core 0 with operand maps and a tensor record, and its scalar s8 holding a map. -/
def M : State := (onB (fun b => { b with
    omaps := [(0, 0x200000000040000), (1, 0x200000000040000)]
    trecs := [(1, .valid ⟨0, 0, 1, 0, false, [16, 1, 1, 1, 1], [0, 0, 0, 0], [16, 1, 1, 1, 1], false⟩)] })).onGroup c0 (fun g =>
  g.setSreg 8 ⟨0x200000000040000, false⟩)

theorem witness_MultiplicationsComplete :
    (M.proc (M.ctxUnit c0)).mxQueued < 16
    ∧ (let sl := [numSlot .d (.k 0), numSlot .a (.k 0), numSlot .b (.k 1)]
       let v := M.view c0 hd sl
       M.clear c0 hd (mxRow (mxFeat .e4m3 .e4m3)) sl = true
       ∧ (M.blockOf c0).mapAt (M.num v .a) (some .e4m3) = some 0x200000000040000
       ∧ (M.blockOf c0).mapAt (M.num v .b) (some .e4m3) = some 0x200000000040000
       ∧ (M.blockOf c0).accBad (M.num v .d) (tileBytes .s32x32) = false
       ∧ mapFits 0x200000000040000 (mxBits .e4m3) 32 32 (M.blockOf c0).spLen = true)
    ∧ (let sl := [numSlot .d (.k 0), numSlot .a (.k 0), numSlot .b (.k 1), numSlot .c (.k 1)]
       let v := M.view c0 hd sl
       M.clear c0 hd (mxRow (2 ||| mxFeat .e4m3 .e4m3)) sl = true
       ∧ (M.blockOf c0).mapAt (M.num v .c) none = some 0x200000000040000
       ∧ mapKmaj 0x200000000040000 = true ∧ mapSwz 0x200000000040000 = false ∧ mapBase 0x200000000040000 + 16 ≤ (M.blockOf c0).spLen
       ∧ sparseFits 0x200000000040000 .e4m3 0 (BitVec.ofNat 128 (leNat (M.spBytes (M.blockOf c0) 0 16))) 2 1 (M.blockOf c0).spLen = (true, true))
    ∧ (let sl := [numSlot .d (.k 0), runSlot .a (.v 0) (fragRegs .e4m3), runSlot .b (.v 8) (fragRegs .e4m3), runSlot .c (.v 16) 1]
       M.clear c0 hd (mxRow (mxFeat .e4m3 .e4m3)) sl = true) := by decide +kernel

theorem witness_AccumulatorInstructionsComplete :
    (let sl := [pairSlot .d (.s 6) true, pairSlot .a (.s 8) false, numSlot .b (.k 3)]
     let v := M.view c0 hd sl
     M.clear c0 hd { noRoot := true, feat := 1 } sl = true ∧ M.num v .b < 16 ∧ mapValid (M.wide v .a &&& mapMask) = true)
    ∧ (let sl := [numSlot .a (.k 0), numSlot .b (.k 0)]
     let v := M.view c0 hd sl
     M.clear c0 hd (mxRow 0) sl = true ∧ (M.blockOf c0).accBad (M.num v .a) (M.num v .b) = false ∧ M.num v .b % 4096 = 0
     ∧ (M.blockOf c0).accBad (M.num v .a) (tileBytes .s32x32) = false
     ∧ (spadTrap (M.blockOf c0) (M.num v .b) (tyBytes .e4m3 * (tileBytes .s32x32 / 4))).isNone = true
     ∧ (M.accStTrap (M.blockOf c0) (M.num v .b) (tyBytes .e4m3 * (tileBytes .s32x32 / 4))).isNone = true)
    ∧ (let sl := [numSlot .a (.k 0), scalarSlot .b (.s 4)]
     M.clear c0 hd { mxRow 0 with parks := true } sl = true ∧ (M.wide (M.view c0 hd sl) .b).toNat % 16 = 0)
    ∧ (let sl := [numSlot .a (.k 0), scalarSlot .b (.s 4), scalarSlot .c (.s 4)]
     let v := M.view c0 hd sl
     M.clear c0 hd { mxRow 0x10 with parks := true } sl = true ∧ (M.wide v .c).toNat < 2 ^ 16 ∧ (M.wide v .b).toNat % 128 = 0
     ∧ ∀ acq ∈ [none, some Scope.sys], M.mayAcquire c0 acq = true
       ∧ ((M.acquired c0 acq).proc ((M.acquired c0 acq).ctxUnit c0)).mxQueued < 16) := by
  decide +kernel

theorem witness_TensorAndCopyInstructionsComplete :
    (let sl := [numSlot .d (.k 2), scalarSlot .a (.s 4)]
     let v := M.view c0 hd sl
     let va := M.wide v .a
     let x := M.translateLanes c0 .read [(v.low, va)]
     M.clear c0 hd (walkRow false true) sl = true ∧ M.num v .d < 16 ∧ va.toNat % 64 = 0 ∧ (xlOne x).isSome = true
     ∧ (windowTrap v.sup 8 x.2).isNone = true ∧ M.parksOn c0 [(v.low, va)] = false ∧ M.taskLost x.1 c0 = false ∧ (x.1.lacksRoom c0 false x.2).isNone = true)
    ∧ (let sl := [numSlot .a (.k 1), { runSlot .b (.v 0) 1 with consumed := false }, scalarSlot .c (.s 4)]
     let v := M.view c0 hd sl
     M.clear c0 hd (walkRow true false) sl = true ∧ M.num v .a = 1 ∧ (M.wide v .c).toNat = 0
     ∧ (v.coordPoison 1).isNone = true ∧ v.coords 1 = [0]
     ∧ (match Cells.get .empty (M.blockOf c0).trecs 1 with
        | .valid r => (r.mxl = false ∧ (M.boxPlace v r 0).toOption = some none : Bool) | _ => false) = true
     ∧ (M.proc (M.ctxUnit c0)).cmds = [] ∧ M.mayAcquire c0 (some .dev) = true)
    ∧ (let sl := [scalarSlot .a (.s 4), scalarSlot .b (.s 4), scalarSlot .c (.s 4)]
     M.clear c0 hd { st := true, parks := true } sl = true ∧ (M.wide (M.view c0 hd sl) .c).toNat = 0
     ∧ (ctlBar 0 (M.blockOf c0)).toOption = some none) := by decide +kernel

theorem witness_TransactionBarriersComplete :
    (let sl := [numSlot .a (.k 16), numSlot .b (.k 1)]
     let v := P.view c0 hd sl
     P.clear c0 hd {} sl = true ∧ (P.barAt v (P.num v .a)).toOption.isSome = true ∧ P.num v .b = 1 ∧ P.unperformed c0 = false)
    ∧ (let sl := [pairSlot .d (.s 6) true, numSlot .a (.k 16), numSlot .b (.k 1)]
     let v := P.view c0 hd sl
     P.clear c0 hd {} sl = true ∧ (P.num v .a).testBit 27 = false ∧ (P.num v .b).testBit 0 = true
     ∧ (match P.barAt v (P.num v .a) with
        | .ok x => ((P.proc x.1.unit).tbar (x.1.spBase + x.2)).phase | .error _ => true) = false)
    ∧ (let sl := [pairSlot .d (.s 6) true, numSlot .a (.s 4), numSlot .b (.k 1)]
     let s := P.onGroup c0 (fun g => g.setSreg 4 ⟨0x8000010, false⟩)
     s.clear c0 hd {} sl = true ∧ (s.num (s.view c0 hd sl) .a).testBit 27 = true) := by decide +kernel

theorem witness_BarrierInstructionsComplete :
    (∀ n ∈ [(0 : BitVec 8), 3], P.clear c0 hd { coll := true } [numSlot .a (.k n)] = true
      ∧ P.clear c0 hd { coll := true, noRoot := true } [numSlot .a (.k n)] = true ∧ P.num (P.view c0 hd [numSlot .a (.k n)]) .a < 4)
    ∧ P.unperformed c0 = false := by decide +kernel

/-- The block with a named queue of four slots that holds one handle of group 0. -/
def Q : State := onB (fun b => { b with queues := [⟨4, 8, 0, 0, [0], [2], [1]⟩] })

theorem witness_QueueInstructionsComplete_named :
    (let sl := [numSlot .a (.k 0), handleSource Q.selBlock (Q.queueNo (.k 0)) (.s 4)]
     let v := Q.view c0 hd sl
     Q.clear c0 hd { coll := true, noRoot := true } sl = true ∧ Q.num v .a = 0 ∧ Q.unperformed c0 = false
     ∧ (match Q.queueRef (Q.blockOf c0) 0 with
        | some (.named q) => q.pushers.length < q.slots && takeAt 0 q.inflight 0 < takeAt 0 q.allow 0 && q.pushers = [0]
        | _ => false) = true)
    ∧ (∀ hold : Bool,
      let sl := [handleDest Q.selBlock (Q.queueNo (.k 0)) (.s 4), numSlot .a (.k 0)]
      Q.clear c0 hd { coll := hold, noRoot := true } sl = true ∧ Q.num (Q.view c0 hd sl) .a = 0)
    ∧ (let sl := [numSlot .a (.k 0), numSlot .b (.k 0), numSlot .c (.k 1)]
     let v := Q.view c0 hd sl
     Q.clear c0 hd { noRoot := true } sl = true ∧ Q.num v .b < (Q.blockOf c0).groups.length ∧ Q.num v .c = 1) := by
  decide +kernel

/-- A launch of two stages, whose ring lies at virtual 0x8000 and holds one item, the group in the stage given. -/
def G (stage : Nat) : State :=
  (onB (fun b => { b with stage })).onLaunch 1 (fun l =>
    { l with stages := [⟨0x100, 16, 0x8000, 4, 1, 1, 1, [], 1, 0, 1, false, false⟩, ⟨0x100, 16, 0, 0, 1, 1, 1, [], 0, 0, 0, false, false⟩] })

theorem witness_QueueInstructionsComplete_stage :
    (let s := G 0
     let sl := [numSlot .a (.k 17), handleSource s.selBlock (s.queueNo (.k 17)) (.s 4)]
     let v := s.view c0 hd sl
     s.clear c0 hd { coll := true, noRoot := true } sl = true ∧ s.unperformed c0 = false
     ∧ (s.src c0 (s.grp c0) (v.op .b) false none v.low).v = 0
     ∧ (match s.queueRef (s.blockOf c0) (s.num v .a), s.spTarget (s.blockOf c0) 0 16 with
        | some (.output 0 r), some (x, off) => r.itemb = 16 && r.counted < r.qcap
            && ((s.release c0 .dev).engWrites c0 1 (((s.proc x.unit).spRead (x.spBase + off) r.itemb).zipIdx.map
              (fun y => (y.1, (s.proc x.unit).spBad (x.spBase + off + y.2) 1))) (pieces128 (r.item r.pushed) r.itemb)).2.2.isNone
        | _, _ => false) = true)
    ∧ (∀ hold : Bool,
      let s := G 1
      let sl := [handleDest s.selBlock (s.queueNo (.k 16)) (.s 4), numSlot .a (.k 16)]
      let v := s.view c0 hd sl
      s.clear c0 hd { coll := hold, noRoot := true } sl = true
      ∧ (match s.queueRef (s.blockOf c0) (s.num v .a) with
         | some (.input 0 r) => r.popped != r.pushed
         | _ => false) = true) := by decide +kernel

/-- R270's example: element (3, 37) lies at 0x1_0195; and maps with KMAJ = 0 and with scales. -/
theorem witness_OperandElementsLieInPlace :
    (0x300000000101000#64).getLsbD 57 = true ∧ mapBytes 0x300000000101000 8 3 37 = [0x10195]
    ∧ (0x1400000000040000#64).getLsbD 57 = false
    ∧ (0x2200000000040000#64).getLsbD 61 = true ∧ mxNarrow .e4m3 = true := by decide +kernel

/-- A launch with a phase tree and one destination. -/
def H : State := P.onLaunch 1 (fun l => { l with r := { l.r with phaseva := 0x100 }, dests := [(1, 1, 1)], phase := 1 })

theorem witness_WatchAndPhaseInstructionsComplete :
    (let sl := [pairSlot .a (.s 4) false, { pos := .b, op := .k 1, wide := true, okP := false, okSp := false, consumed := true, low := true },
        { pos := .c, op := .s 6, wide := true, okV := false, okP := false, okSp := false, consumed := true }]
     let v := P.view c0 hd sl
     let va := P.wide v .a
     let x := P.translateLanes c0 .watch [(v.low, va)]
     P.clear c0 hd { noRoot := true, parks := true } sl = true ∧ (misaligned 8 [(v.low, va)]).isNone = true
     ∧ (xlOne x).isSome = true ∧ (x.1.holdTrap false va x.2).isNone = true)
    ∧ (P.clear c0 hd { noRoot := true, parks := true } [numSlot .a (.k 0)] = true
      ∧ P.cancelTarget (P.view c0 hd [numSlot .a (.k 0)]) (P.num (P.view c0 hd [numSlot .a (.k 0)]) .a) = some c0 ∧ P.isArming c0 = false)
    ∧ (let sl := [numSlot .a (.k 1), numSlot .b (.k 1)]
     let v := H.view c0 hd sl
     H.clear c0 hd { parks := true } sl = true ∧ H.num v .b = 1
     ∧ (H.launch? 1).any (fun l => l.r.phaseva != 0 && l.dests.any (fun d => d.1 = H.num v .a)) = true ∧ H.unperformed c0 = false)
    ∧ H.clear c0 hd { parks := true } [] = true
    ∧ (match H.launch? (H.blockOf c0).lid with
       | some l => l.r.phaseva != 0 && (H.grp c0).drain.toNat < l.phase | none => false) = true := by decide +kernel

theorem witness_LaunchInstructionsComplete :
    (let sl := [{ pos := .d, op := .s 8, wide := true, okP := false, okSp := false, dst := true }, scalarSlot .a (.s 4)]
     let va := P.wide (P.view c0 hd sl) .a
     let x := P.recordBytes c0 va
     P.clear c0 hd { noRoot := true, parks := true, ld := true } sl = true ∧ va.toNat % 128 = 0 ∧ x.2.isSome = true
     ∧ (x.1.ctxLaunch? c0).isSome = true
     ∧ (takeAt [] x.1.arb.fifos (min 3 (recordOf (leNat (x.2.getD []))).prio)).length < 256)
    ∧ (∀ d ∈ [Operand.s 8, .v 8], P.clear c0 hd { noRoot := true, parks := true, ld := true } (rangeSlots d) = true)
    ∧ P.clear c0 hd { parks := true } [] = true ∧ P.onRoot c0 = false ∧ (P.grp c0).ltrig = false ∧ P.unperformed c0 = false
    ∧ (((P.launch? (P.blockOf c0).lid).map (fun l => l.prods)).getD []).any (· = .waiting) = false
    ∧ (let s := P.onLaunch 1 (fun l => { l with prods := [.waiting] })
       s.clear c0 hd { parks := true } [] = true
       ∧ (((s.launch? (s.blockOf c0).lid).map (fun l => l.prods)).getD []).any (· = .waiting) = true) := by decide +kernel

/-- The group runs task 0 of a task launch, whose next record lies at its scratchpad's start. -/
def T (ns : Bool) : State :=
  (P.spPut (P.blockOf c0) 0 (leBytes 0x1000000000000000000 64) false).onLaunch 1 (fun l =>
    { l with r := { l.r with lflags := 1 }, nextSeq := 1, tasks := [{ n := 0, ts := 0, entry := 0x100, nospec := false, parent := 0, args := [0, 0, 0, 0], rtiles := 0, wtiles := 0, st := .running 1 0, ns }] })
  |>.onGroup c0 (fun g => { g with task := some 0 })

theorem witness_TaskInstructionsComplete :
    (∀ ns : Bool, (T ns).clear c0 hd taskRow [] = true ∧ ((T ns).currentTask c0).map (fun x => x.2.ns) = some ns
      ∧ ((T ns).grp c0).ldcnt = 0 ∧ ((T ns).grp c0).stcnt = 0)
    ∧ (let s := T true
       let sl := [{ pos := .d, op := .s 8, okP := false, okSp := false, dst := true }, { spadSlot (.s 4) with low := true }]
       let v := s.view c0 hd sl
       s.clear c0 hd taskRow sl = true ∧ s.num v .a = 0
       ∧ (match s.currentTask c0, s.spTarget (s.blockOf c0) 0 64 with
          | some (l, p), some (_, off) => (s.spawnTrap (s.blockOf c0) l p 0 off).isNone
              && !s.behindGranule c0 64 [(v.low, (s.blockOf c0).unit, (s.blockOf c0).spBase + off)]
              && (s.enterRecord l 0 (taskOf (leNat (s.spBytes (s.blockOf c0) off 64)) l.nextSeq (p.n + 1))).isSome
          | _, _ => false) = true) := by decide +kernel

/-- A message at the scratchpad's start, and its entry in s6. -/
def C : State :=
  (P.spPut (P.blockOf c0) 0 ([1, 1, 1, 1, 0, 0x10] ++ List.replicate 18 0 ++ [1]) false).onGroup c0 (fun g => g.setSreg 6 ⟨0x100, false⟩)

theorem witness_RootCallsComplete :
    (let sl := [numSlot .a (.k 0), numSlot .b (.k 32), scalarSlot .c (.s 6)]
     let v := C.view c0 hd sl
     let blk := C.blockOf c0
     C.clear c0 hd { noRoot := true, st := true, parks := true, feat := 0x100 } sl = true
     ∧ (match C.messageAt blk (C.num v .a), C.barAt v (C.num v .b), C.ctxLaunch? c0 with
        | .ok (mb, off), .ok _, some l =>
          let msg := leNat (C.spBytes mb off 256)
          ((C.proc mb.unit).spBadAt (mb.spBase + off) 256).isNone && messageOk msg && l.img.entryOk (C.wide v .c).toNat
            && (match (C.translateParts c0 (messageParts msg)).2 with
              | .ok [p] => p.stack.isSome && (C.translateParts c0 (messageParts msg)).1.mayAcquire c0 (some .clu)
              | _ => false)
        | _, _, _ => false) = true) := by decide +kernel

/-- Root core 0 with its stack's memory its own, near-bank pages, a descriptor at virtual 0, operands in s5 and s6, and a
landing settled. -/
def B : State :=
  { R with
    parts := [(0, { Partition.zero with phbm := 0xF })]
    mem := Memory.writeN (Memory.writeN (Memory.writeN R.mem 0x3000 (leBytes 0x4000000000004001 8)) 0x4000 (leBytes 0xCCF 8)) 0
      (leBytes 0x8000 8 ++ leBytes 128 8 ++ [0, 1])
    lands := [⟨0, 1, 1, 0x80, 0, false, 1, [], none, false, false, false, false, 0⟩] }
  |>.onGroup c0 (fun g => (g.setSreg 5 ⟨0x40000, false⟩).setSreg 6 ⟨8, false⟩)

/-- A near-bank command of eight `f32` elements meets what its statement asks for. -/
def bnkMeets (op : Nat) (b : Operand) : Bool :=
  let sl := [scalarSlot .a (.s 4), bnkSlotB op b, scalarSlot .c (.s 6)]
  let v := B.view c0 h1 sl
  let ctl := (B.wide v .c).toNat
  let x := B.bnkPages c0 (if bnkWrites op then .write else .read) (pageRuns (B.wide v .a) 32)
  let y := if bnkTwo op then x.1.bnkPages c0 .read (pageRuns (B.wide v .b) 32) else (x.1, some [])
  B.clear c0 h1 { rootOnly := true, feat := 0x100, st := true } sl && max 1 (field ctl 0 24 * bnkWidth .f32) = 32
    && (match x.2, y.2 with
      | some la, some lb =>
        ((bnkPeer (pageRuns (B.wide v .a) 32) la).orElse (fun _ => bnkPeer (pageRuns (B.wide v .b) 32) lb)).isNone
          && y.1.bnkReason c0 op .f32 ctl (⟨B.wide v .a, la⟩ :: (if bnkTwo op then [⟨B.wide v .b, lb⟩] else [])) = 0
          && (y.1.proc (B.ctxUnit c0)).bnk.length < 16
      | _, _ => false)

/-- Opening a landing meets what its statement asks for. -/
def landMeets : Bool :=
  let sl := [scalarSlot .a (.s 4), numSlot .b (.k 0)]
  let v := B.view c0 h1 sl
  B.clear c0 h1 { rootOnly := true, feat := 0x10 } sl && (B.wide v .a).toNat % 64 = 0
    && (match B.translate (B.xctx c0) 1 .write (B.wide v .a) with
      | (s1, .ok x) => s1.stackAt c0 x = some (stackOf (B.ctxUnit c0)) && (match s1.readDram (leafKey x.leaf) x.pa 64 1 with
        | (s2, some bs) => descOk (leNat bs) && (match s2.landPages c0 (pageRuns (w64 (at8 (leNat bs) 0 8)) (at8 (leNat bs) 8 8)) with
          | (s3, .ok ps) => ps.length = 1 && ps.all (fun p => s3.perStackOf p.1.pa = some 0 && s3.stackAt c0 p.1 = some 0 && leafKey p.1.leaf = 0)
              && (s3.landing? 0 (B.num v .b)).isNone && s3.lands.all (fun l => l.lines.isEmpty)
          | _ => false)
        | _ => false)
      | _ => false)

theorem witness_RootCoreInstructionsComplete :
    R.clear c0 h1 { rootOnly := true, feat := 0x100 } [{ pos := .a, op := .s 4, okP := false, okSp := false, consumed := true, low := true : Slot }] = true
    ∧ bnkMeets 0 (.s 5) = true ∧ bnkMeets 1 (.s 5) = true ∧ bnkMeets 2 (.s 5) = true ∧ bnkMeets 3 (.k 0) = true ∧ bnkMeets 4 (.s 5) = true
    ∧ bnkMeets 5 (.k 0) = true ∧ landMeets = true
    ∧ B.clear c0 h1 { rootOnly := true, feat := 0x10 } [numSlot .a (.k 1)] = true
    ∧ (B.landing? (stackOf (B.ctxUnit c0)) (B.num (B.view c0 h1 [numSlot .a (.k 1)]) .a)).map Landing.settled = some true := by decide +kernel

/-- The part in operation, with host memory reached. -/
def N : State := { P with plat := { P.plat with state := 6 } }

theorem witness_BootAttestationAndKeysComplete :
    (let s := { P with plat := { P.plat with state := 15 } }
     s.plat.state = 15 ∧ (0xA000000000000000#64).getLsbD 63 = true
     ∧ (State.takeRecord { s with plat := { s.plat with attempts := s.plat.attempts + 1 } } ((0x8000000000000000#64).getLsbD 61)).isSome = true)
    ∧ ({ P with plat := { P.plat with state := 1 } } : State).plat.state = 1
    ∧ (let s := { P with plat := { P.plat with state := 2, flashCfg := { P.plat.flashCfg with signed := true } } }
       s.plat.flashCfg.signed = true ∧ s.plat.flashCfg.diesOk = true)
    ∧ (let s := { P with plat := { P.plat with state := 3, booting := { version := 7, signed := true }, flashCfg := { P.plat.flashCfg with minfw := 7 } } }
       s.plat.booting.signed = true ∧ s.plat.flashCfg.minfw.toNat ≤ s.plat.booting.version.toNat)
    ∧ N.platformThere = true ∧ N.hostThere 0 = true ∧ leNat (((N.hostRead 0 64).2.drop 0x28).take 8) = 0
    ∧ (let s := { N with mem := Memory.write N.mem (hostPa 0 + 0x29) 1 }
       s.platformThere = true ∧ s.hostThere 0 = true ∧ leNat (((s.hostRead 0 64).2.drop 0x28).take 8) = 0x100)
    ∧ (∀ op ∈ [1, 2],
      let s := { N with mem := Memory.writeN N.mem (hostPa 0) [1, 0, op] }
      s.platformThere = true ∧ s.hostThere 0 = true ∧ at8 (leNat (s.hostRead 0 128).2) 2 1 = op.toNat) := by decide +kernel

theorem witness_RegisterWritesComplete :
    N.plat.state ≠ 0 ∧ (rateOk 0 0 && rateOk 1 8000 && rateOk 2 1 && rateOk 3 64) = true ∧ N.plat.state = 6 ∧ N.host.fcen = false
    ∧ (N.host.cancelling.bind N.launch?).isSome = false ∧ (N.launch? (field (1#64).toNat 0 32)).isSome = true
    ∧ (let s := { N with host := { N.host with asked := [(7, c0)] } }
       (s.host.asked.find? (fun x => x.1 = (0x100000007#64).setWidth 32)) = some ((0x100000007#64).setWidth 32, c0)
       ∧ field (0x100000007#64).toNat 32 2 = 1)
    ∧ N.host.svreq = none
    ∧ (∀ op ∈ [1, 2, 3], State.requestOp { N with mem := Memory.writeN N.mem (hostPa 0) [op] } ((0#64) &&& 0x000FFFFFFFFFFFC0).toNat = op.toNat) := by
  decide +kernel

theorem witness_HostAndPeerAccessesComplete :
    (∀ a ∈ [HostAccess.read 0x100 4, .write 0x100 [1], .atomic .add true 0x100 1 0],
      N.dead.contains .host = false ∧ (accessSpan a).2 ≠ 0 ∧ N.hostReaches (accessSpan a).1 (accessSpan a).2 = true ∧ strayAtomic a = false)
    ∧ (let s := { N with host := { N.host with ulimp := [(0, 1)] } }
       s.dead.contains (.peer 3) = false ∧ s.admitsPeers 0x100 = true ∧ s.admitsPeers 0x103 = true ∧ s.allMemory 0x100 4 = true)
    ∧ (let x : HostLine := { s0 := .m, s1 := .s }
       let s := { N with hostLines := [(2 ^ 43, x)] }
       isHostWin (64 * 2 ^ 44) = true ∧ isHostWin (64 * (2 ^ 44 + 1)) = true ∧ s.port = .cxl ∧ s.dead.contains .host = false
       ∧ Cells.find s.hostLines (2 ^ 44 / 2) = some x ∧ Cells.find s.hostLines ((2 ^ 44 + 1) / 2) = some x ∧ x.state 0 ≠ .i ∧ x.state 1 ≠ .i)
    ∧ (let s := { N with host := { N.host with fcen := true, fclogn := 4, waiting := [{ kind := 0, cause := 0, write := false, lid := 1, core := 0, addr := 0, value := 0 }] } }
       (s.host.fcpi - s.host.fcci).toNat ≠ 2 ^ s.host.fclogn
       ∧ s.hostThere (s.host.fcbase.toNat + 32 * (s.host.fcpi.toNat % 2 ^ s.host.fclogn)) = true) := by decide +kernel

theorem witness_MemorySideStepsComplete :
    (let s := { P with l2 := [(5, { st := .cl, dram := 0, dramKey := 0, dramPoison := false : L2Line })] }
     isHostWin (128 * 5) = false ∧ (Cells.find s.l2 5).map (fun l => l.st) = some .cl ∧ isHostWin (128 * 2 ^ 43) = true
     ∧ s.watches = [] ∧ s.dieAlive (s.homeDie (128 * 5)) = true)
    ∧ (let m : Migration := { die := 0, newPa := 0x10000, oldPa := 2 ^ 42, size := 4096, leafPa := 0x3000, filled := [0] }
       let s := { P with migs := [m] }
       (s.paced 0 0 128).isSome = true ∧ s.migs.find? (fun m => m.die = 0) = some m
       ∧ s.dieAlive 0 = true ∧ (List.range (m.size / 128)).find? (fun i => !m.filled.contains i) = some 1)
    ∧ (∀ load : Bool, ((onG (fun g => { g with pend := [{ id := 0, load }] })).grp c0).pend[0]? = some { id := 0, load })
    ∧ (let a : GranAccess := ⟨c0, 0, 0, true, false, .b32, []⟩
       let p : Proc := { (P.proc 0) with grans := [a], full := [0] }
       nextGran p 0 [] p.grans = some (a, []) ∧ nextGran (P.proc 0) 0 [] (P.proc 0).grans = none)
    ∧ (P.group? c0).isSome = true ∧ ((onG (fun g => { g with hold := .svWait })).grp c0).hold = .svWait
    ∧ (let s := onG (fun g => { g with asyncs := [{ cause := 0x0A, addr := 0 }] })
       (s.grp c0).hold ≠ .svWait ∧ s.canIssue c0 (s.grp c0) = true ∧ (s.grp c0).dueAsync.isSome = true)
    ∧ (let s := { P with colErr := [20] }
       (s.paced 1 0 128).isSome = true ∧ s.scrubLine 0 = some 5) := by decide +kernel

/-- A launch of level 1 holds all the scratchpad of the one core of its partition, one of level 0 waits for it. -/
def D : State :=
  { (onB (fun b => { b with spLen := 0x200000 })) with
    launches := [{ progLaunch with img := {}, r := { progLaunch.r with prio := 1 }, next := [1] },
      { progLaunch with lid := 2, img := {}, order := 1, queue := some 1, r := { progLaunch.r with scratchb := 4096, scalars := 64 } }]
    parts := [(0, { Partition.zero with pcore := 1 })]
    pool := [(0, 2 ^ 30, 2 ^ 26)] }

/-- The first launch's cluster suspended, the other launch gone. -/
def E : State :=
  { (D.saveCluster 1 0 0 false).getD D with launches := D.launches.take 1 }

theorem witness_SchedulingStepsComplete :
    (let s := { N with queues := [(18, { en := true, qpi := 1 : HQueue })] }
     s.launches.length < 1024 ∧ (List.range 4).find? (fun l => !(s.candidates l).isEmpty) = some 1
     ∧ (((s.candidates 1).find? (fun i => takeAt 16 s.arb.last 1 < i)).orElse (fun _ => (s.candidates 1).head?)) = some 2)
    ∧ (D.launchOrder.length = 2 ∧ ∀ l ∈ D.launchOrder.take 1, l.lid = 2 ∧ 0 < l.stageCount ∧ D.nextUp l 0 = some (.place 0)
          ∧ (D.victimsFor l (.place 0)).find? (fun v => (D.saveCluster v.1 v.2.1 v.2.2 false).isSome) = some (1, 0, 0)
          ∧ D.coresFor D.blocks l 0 (D.blocksFor l 0 (.place 0)) = none ∧ (D.preemptFor l 0 (.place 0)).2 = true
          ∧ (D.saveCluster 1 0 0 false).isSome = true)
    ∧ ((E.launch? 1).isSome = true ∧ ∀ l ∈ (E.launch? 1).toList, E.nextUp l 0 = some (.restore 0) ∧ E.outranked 1 0 = false
          ∧ (((E.examine l 0 0).countFrag 1 0 0 ((E.examine l 0 0).imagesOf 1 0 0).length).restoreCluster l 0 0).isSome = true)
    ∧ (let s := { (P.onLaunch 1 (fun l => { l with waits := [(0, 0)] })) with time := 100000 }
       ((s.launch? 1).bind (fun l => Cells.find l.waits 0)) = some 0 ∧ 0 + 100000 ≤ s.now ∧ s.now % 4000 = 0 ∧ s.sampledAt ≠ s.now)
    ∧ (let s := onG (fun g => { g with lanes := g.lanes.map (fun l => { l with live := false }), ended := true })
       (s.block? 1).map (fun b => (isRoot b.unit, s.exitReady b)) = some (false, true))
    ∧ (let s := { P with blocks := [], launches := [{ progLaunch with exited := [1], next := [1] }] }
       (s.launch? 1).map s.launchOver = some true) := by
  refine ⟨?_, ?_, ?_, ?_, ?_, ?_⟩ <;> decide +kernel

/-- Core 0 with a matrix queue. -/
def X (mx : List MxCmd) (failing : BitVec 16) (cmds : List EngCmd) : State := P.onProc 0 (fun p => { p with mx, failing, cmds })

/-- A multiplication of one sub-tile set, and an accumulator load. -/
def mulEntry (started : Bool) : MxCmd :=
  { id := 1, bid := 1, g := 0, pend := 0, acc := 0, started, set := if started then some (0, 4) else none
    kind := .mul none .e4m3 .e4m3 false false (.map 0x200000000040000) (.map 0x200000000040000) .s32x32 1 }
/-- An accumulator instruction in the matrix queue. -/
def clrEntry (started : Bool) : MxCmd := { id := 2, bid := 1, g := 0, pend := 0, acc := 0, started, kind := .clr 4096 }

/-- A copy of 16 bytes. -/
def copyCmd (dst : W64) (done : Nat) : EngCmd := { id := 7, bid := 1, g := 0, pend := 0, kind := .copy dst 0x40 16, done }

theorem witness_EngineStepsComplete :
    (let s := X [mulEntry false] 0 []
     s.engineLost 0 = s ∧ nextStart (s.proc 0).mx = some (mulEntry false)
     ∧ ((s.proc 0).mx.takeWhile (fun x => x.id != 1)).any (mulEntry false).meets = false
     ∧ ((mulEntry false).kind.mul?.map (fun k => s.freeSet 0 (shapeTiles k.shape))) = some (some (0, 4)))
    ∧ (nextStart [clrEntry false] = some (clrEntry false) ∧ (clrEntry false).kind.mul? = none)
    ∧ (let s := X [mulEntry true, clrEntry true] 0 []
       (s.proc 0).mx[0]? = some (mulEntry true) ∧ (s.proc 0).mx[1]? = some (clrEntry true) ∧ (s.block? 1).isSome = true
       ∧ (mulEntry true).kind.mul?.isSome = true)
    ∧ (let s := X [] 4 []
       (s.subsEnabled 0).contains 2 = true ∧ (s.proc 0).failing.getLsbD 2 = true ∧ s.unitDead 0 = false)
    ∧ (let s := X [] 0 [copyCmd 0x80 16]
       (s.proc 0).cmds[0]? = some (copyCmd 0x80 16) ∧ (s.proc 0).cmdReady (copyCmd 0x80 16) = true
       ∧ (copyCmd 0x80 16).kind.total ≤ (copyCmd 0x80 16).done)
    ∧ (∀ x ∈ [(0x1000000000#64, 0x09), (0xF000000000000000#64, 0x0A)],
       let s := X [] 0 [copyCmd x.1 0]
       (s.proc 0).cmds[0]? = some (copyCmd x.1 0) ∧ (s.proc 0).cmdReady (copyCmd x.1 0) = true
       ∧ (copyCmd x.1 0).done < (copyCmd x.1 0).kind.total
       ∧ (s.engBatch (copyCmd x.1 0) (copyCmd x.1 0).kind.unit).stop = some (x.2, x.1)) := by decide +kernel

/-- A call of group 0, its message one group of window 1 with 4 KiB. -/
def aCall (st : CallSt) : RCall :=
  { id := 1, lid := 1, caller := 1, g := 0, pend := 0, owner := 0, msg := [1, 1, 1, 1, 0, 0x10], entry := 0x100, barBid := 1, barOff := 0
    rel := none, rlines := [], wlines := [], index := 0, coords := [], stage := 0, part := 0, st }
/-- A packet for the line of a physical address, waiting for staging or not. -/
def aPacket (pa : Nat) (waiting : Bool) : Packet :=
  { pa, va := 0, x64 := false, rank := 0, e := 0, corrupt := false, data := 0, residues := [], cmd := none, rel := false, waiting }
/-- An open landing of root die 2 with 255 sources over the line 64, and over 64 lines that each hold a packet. -/
def aLanding : Landing :=
  { stack := 2, id := 0, lid := 1, desc := 0, descKey := 0, x64 := false, srcs := 255
    lines := (List.range 64).map (fun i => { line := i, got := [(0, none)] }) ++ [{ line := 64 }] }

theorem witness_RootStepsComplete :
    (let s := { P with calls := [aCall .issued] }
     s.calls[0]? = some (aCall .issued) ∧ (s.proc (0x8000 + (aCall .issued).owner)).inbox.length < 32)
    ∧ (let s := { P with calls := [aCall .inbox] }.onProc 0x8000 (fun p => { p with inbox := [1], halted := false })
       (s.proc 0x8000).inbox = [1] ∧ s.calls.find? (fun c => c.id = 1) = some (aCall .inbox) ∧ s.rootEnabled 0 = true
       ∧ (s.proc 0x8000).halted = false ∧ (s.launch? 1).isSome = true
       ∧ (fitOn 0x8000 (s.blocksOn 0x8000) { segs := at8 (leNat (aCall .inbox).msg) 0 1 * segOf (at8 (leNat (aCall .inbox).msg) 1 1)
                                             sp := at8 (leNat (aCall .inbox).msg) 4 4, acc := 0, groups := 1 }).isSome = true)
    ∧ (let s := (onB (fun b => { b with unit := 0x8000, call := some 1 })).onGroup c0 (fun g => { g with ended := true })
       (s.block? 1).map s.rootDone = some true)
    ∧ (let k : BnkCmd := { bid := 1, g := 0, pend := 0, op := 1, ty := .f32, apa := 0x10000, bpa := 0x20000, n := 8, val := 0 }
       let s := P.onProc 0x8000 (fun p => { p with bnk := [k] })
       (s.proc 0x8000).bnk = [k] ∧ ∀ pa ∈ k.reads, s.bnkBad pa (k.n * bnkWidth k.ty) = [])
    ∧ isPeerWin (2 ^ 51) = true ∧ isPeerWin 8192 = false
    ∧ P.stagingRoom (aPacket 8192 false) = true
    ∧ (let s := { P with packets := [aPacket 8192 false], lands := [aLanding] }
       s.packets[0]? = some (aPacket 8192 false) ∧ s.stagingRoom (aPacket 8192 false) = false)
    ∧ (let s := { P with packets := [aPacket 8192 true] }
       s.packets.findIdx? (fun p => p.waiting && (s.hbmPlace p.pa).map (fun e => e.1 / 64) = some 2 && s.stagingRoom p) = some 0) := by
  decide +kernel

/-- A task launch with the tasks given, at TIME 100000. -/
def K (ts : List TaskRec) : State :=
  { (P.onLaunch 1 (fun l => { l with r := { l.r with lflags := 1 }, tasks := ts, banks := [0], front := some (0, 0) })) with time := 100000 }
/-- Task `n` of TSTAMP `n`. -/
def aTask (n : Nat) (st : TaskSt) : TaskRec := { n, ts := n, entry := 0x100, nospec := false, parent := 0, args := [0, 0, 0, 0], rtiles := 0, wtiles := 0, st }

theorem witness_WatchAndTaskStepsComplete :
    (let s := P.onLaunch 1 (fun l => { l with tree := some 0, dests := [(1, 2, 0), (2, 1, -1)] })
     (s.launch? 1).map (fun l => (l.tree.isSome, l.dests)) = some (true, [(1, 2, 0), (2, 1, -1)]))
    ∧ (∀ x ∈ [false, true],
       let w : WatchReq := { pa := 0x200, key := 0, wide := true, cc := .eq, v := if x then 0 else 1, deadline := 0, sys := false }
       let s := onG (fun g => { g with hold := .arming w false })
       let t := (s.l1WriteBack 0 4).homeTouch {} 0x200
       (s.groupAny c0).map (fun g => g.hold) = some (.arming w false) ∧ (s.group? c0).isSome = true ∧ t.onOldFrame w.pa = false ∧ t.homeBad 4 = false ∧ t.watchMet w = x
       ∧ (t.insertWatch { die := t.homeDie w.pa, w, bid := 1, g := 0, seq := 0 }).isSome = true)
    ∧ (let w : Watch := { die := 0, w := { pa := 0, key := 0, wide := true, cc := .eq, v := 1, deadline := 5, sys := false }, bid := 1, g := 0, seq := 0 }
       let s := { P with watches := [w], time := 5 }
       s.watches[0]? = some w ∧ w.w.deadline ≠ 0 ∧ w.w.deadline.toNat ≤ s.now)
    ∧ (let ts := [aTask 1 (.queued 0), aTask 0 (.queued 0)]
       ((K ts).launch? 1).bind (fun l => l.tasks.find? (fun t => some t.key = l.lowest)) = some (aTask 0 (.queued 0)))
    ∧ (let s := (K [aTask 0 (.queued 0)]).onGroup c0 (fun g => { g with lanes := g.lanes.map (fun l => { l with live := false }) })
       (firstFree (s.settleStopped.freeGroups 1)).isSome = true ∧ (s.settleStopped.launch? 1).bind (fun l => l.nextReady) = some (aTask 0 (.queued 0)))
    ∧ ((K [aTask 0 .spilled]).launch? 1).bind (fun l => l.frontierRefill) = some (0, aTask 0 .spilled)
    ∧ (let t := { aTask 1 (.running 1 0) with stalled := some (100, 0) }
       oldestStall (K [t]).stalls = some (100, 1, t) ∧ 100 + 65536 ≤ (K [t]).now)
    ∧ (∀ ts ∈ [[], [aTask 1 (.running 1 1)]],
       let s := (K ({ aTask 0 (.running 1 0) with ns := true } :: ts ++ List.replicate 4096 (aTask 2 (.queued 0)))).onGroup c0
         (fun g => { g with spawnWait := true })
       (s.launch? 1).map (fun l => (s.spawnStuck l, l.spawnAbort, (youngest l.tasks).isSome)) = some (true, none, !ts.isEmpty))
    ∧ ((K [aTask 0 (.finished 0)]).launch? 1).bind (fun l => l.tasks.find? (fun t => l.front = some t.key)) = some (aTask 0 (.finished 0)) := by
  refine ⟨?_, ?_, ?_, ?_, ?_, ?_, ?_, ?_, ?_⟩ <;> decide +kernel

/-- The group arming a watch of virtual 0x200 with a deadline, in a state changed by `f`, and its home's state at the check. -/
def arming (dl : W64) (f : State → State) : State :=
  (((f (onG (fun g => { g with
    hold := .arming { pa := 0x200, key := 0, wide := true, cc := .eq, v := 1, deadline := dl, sys := false } false }))).l1WriteBack 0 4).homeTouch {} 0x200)

/-- A hold of a bad line, one past its deadline, one whose page is being moved away, and one that is armed with a deadline. -/
theorem witness_WatchAndTaskStepsComplete_arming :
    (arming 0 (fun s => { s with poison := [4] })).homeBad 4 = true
    ∧ (let t := arming 5 (fun s => { s with time := 6 })
       t.homeBad 4 = false ∧ (5#64).toNat ≤ t.now)
    ∧ (arming 0 (fun s => { s with migs := [{ die := 0, newPa := 0x10000, oldPa := 0, size := 4096, leafPa := 0x3000, filled := [] }] })).onOldFrame 0x200 = true
    ∧ (let t := arming 9 (fun s => { s with time := 6 })
       t.onOldFrame 0x200 = false ∧ t.now < (9#64).toNat) := by
  decide +kernel

theorem witness_PowerAndLinkStepsComplete :
    (P.proc 0).supQuiet = true ∧ (P.proc 1).power = .c0 ∧ P.unitDead 0 = false ∧ P.unitDead 1 = false
    ∧ (let s := { P with time := 200000, phase20 := 4000000 }
       s.blocksOn 1 = [] ∧ (s.proc 1).idleSince + 100000 ≤ s.now
       ∧ (s.onProc 0 (fun p => { p with still := [(0, 0)] })).allHeld 0 = true ∧ (s.proc 0).idleSince + 1905 ≤ s.now
       ∧ Cells.find s.plat.thermAt 0 = none
       ∧ (s.host.hbto = 0) ∧ ({ s with host := { s.host with hbto := 5 } } : State).host.hbeatAt + 1000 * 5 ≤ s.now)
    ∧ ((P.onProc 1 (fun p => { p with power := .c1 })).proc 1).power ≠ .c0 ∧ P.coreEnabled 0 = true
    ∧ outerAgent .host = true ∧ outerAgent (.expander 0) = true ∧ P.routePorts 9 = [] ∧ P.dlink.contains (0, 1) = false
    ∧ linkOk .pcie 16 7 = true ∧ linkOk .cxl 8 6 = true ∧ P.cxlgWritten = false := by decide +kernel

/-- A core-0 group about to run one word. -/
def at96 (w : Word96) : State := State.reset.withFetchWord 96 w.toNat
/-- The outcome is a next state. -/
def goes (o : Host.Outcome State Fault Refusal) : Bool := match o with | .next _ => true | _ => false
/-- `mov.b32 v2, 1`. -/
def movWord : Word96 := (encode (.mov hd .b32 (.v 2) (.k 1))).getD 0

/-- The group takes its turn, may issue and fetches the word. -/
def fetches (w : Word96) : Bool :=
  let s := at96 w
  s.turns = [.issue c0] && (s.group? c0).any (fun g => s.canIssue c0 g && g.rep.isNone)
    && (State.fetchAt { s with turns := [] } c0 (s.grp c0).pc).2.toOption = some w

theorem witness_StepRunsDecodedInstruction :
    fetches movWord = true ∧ fetches 0 = true
    ∧ decode movWord = .instr (.mov hd .b32 (.v 2) (.k 1)) ∧ decode 0 = .illegal .zeroWord
    ∧ (State.fetchAt { at96 0 with turns := [] } c0 0x80000000).2.toOption = none
    ∧ encode .moduleReset = none := by decide +kernel

theorem witness_DecodingUndoesEncoding :
    (Instr.mov hd .b32 (.v 2) (.k 1)).wf = true ∧ encode (.mov hd .b32 (.v 2) (.k 1)) = some movWord
    ∧ hd.mods.only [] = true ∧ (Operand.s 4).okSrc = true ∧ (encode (.ctxswReady hd (.s 4))).isSome = true
    ∧ (encode (.ctxswDiscard hd (.s 4))).isSome = true ∧ (encode (.ctxswPool hd (.s 4))).isSome = true := by decide +kernel

theorem witness_StepKeepsMemoryForm : Memory.wf (at96 movWord).mem = true ∧ goes (step (at96 movWord)) = true := by decide +kernel

theorem witness_PredicatesFollowTheirRule :
    (3 : BitVec 3) ≠ 7 ∧ 0 < (P.grp c0).lanes.length
    ∧ ([(0, ⟨1, false⟩)] : List LaneRes).find? (fun x => x.1 = 0) = some (0, ⟨1, false⟩) := by decide +kernel

theorem witness_GuardFalseDoesNothing :
    (let sl := [addrSlot (.s 4), dataSlot .b32 (countOf mm.cnt) (.v 8)]
     P.mayStart c0 h1 { rpt := true, st := true } = true ∧ (P.issueCheck c0 (P.grp c0) h1 { rpt := true, st := true } sl).isNone = true)
    ∧ P.mayStart c0 h1 {} = true ∧ (P.issueCheck c0 (P.grp c0) h1 {} []).isNone = true ∧ P.acts c0 h1 = [] := by decide +kernel

theorem witness_IssueChecksTrap :
    (let s := onG (fun g => { g with rep := some ⟨0, 0, 0, 0, 1⟩ })
     s.mayStart c0 hd {} = true ∧ (s.grp c0).rep.isSome = true)
    ∧ R.mayStart c0 hd { coll := true, noRoot := true } = true ∧ (R.grp c0).rep.isNone = true ∧ isRoot (R.ctxUnit c0) = true
    ∧ (let s := P.onLaunch 1 (fun l => { l with img := { l.img with needfeat := 0 } })
       s.mayStart c0 hd (fpRow [.f64]) = true ∧ (s.grp c0).iterationsDone = true ∧ (s.feat (s.ctxUnit c0) &&& s.needfeat c0).getLsbD 9 = false)
    ∧ P.mayStart c0 hd { sup := true } = true ∧ (P.grp c0).rep.isNone = true ∧ P.mayStart c0 hd { rpt := true } = true
    ∧ (P.grp c0).iterationsDone = true
    ∧ (let s := onG (fun g => { g with nscal := 8 })
       s.mayStart c0 hd { rpt := true } = true ∧ (s.grp c0).iterationsDone = true ∧ (s.grp c0).nscal ≤ (8#6).toNat)
    ∧ P.mayStart c0 h1 { coll := true } = true ∧ (P.acts c0 h1).length ≠ (P.grp c0).width := by decide +kernel

theorem witness_TrapStopsAndSaves :
    (P.group? c0).isSome = true ∧ (P.specTask c0).isNone = true ∧ (P.sup (P.ctxUnit c0) (P.grp c0).sched).active = false
    ∧ (let s := P.onSup 0 0 (fun p => { p with active := true })
       (s.group? c0).isSome = true ∧ (s.specTask c0).isNone = true ∧ (s.sup (s.ctxUnit c0) (s.grp c0).sched).active = true) := by decide +kernel

theorem witness_HandlerEntryAndReturn :
    (let g : Group := { (P.grp c0) with trapRun := [0, 31], hold := .trapped }
     g.trapRun ≠ [] ∧ (∀ l ∈ g.trapRun, l < 32 ∧ l < g.lanes.length) ∧ (∀ l ∈ g.trapRun, (g.lane l).live = true ∧ (g.lane l).depth = 0)
     ∧ ∀ l ∈ List.range 32, (g.lane l).live = true → (g.lane l).depth ≤ 0) := by decide +kernel

theorem witness_WindowAndAlignmentTraps :
    (let s := onG (fun g => { g with lanes := g.lanes.map (fun l => { l with depth := 3 }) })
     s.clear c0 hd {} [] = true ∧ 0 ∈ s.acts c0 hd ∧ (s.grp c0).win ≤ ((s.grp c0).lane 0).depth + 1 - (s.grp c0).rb)
    ∧ P.clear c0 hd {} [] = true ∧ 0 ∈ P.acts c0 hd ∧ ((P.grp c0).lane 0).depth ≤ (P.grp c0).rb ∧ ((P.grp c0).lane 0).depth = 0
    ∧ (let s := P1.onGroup c0 (fun g => g.setSreg 4 ⟨2, false⟩)
       let sa := [loadSlot .b32 1 (.v 8), addrSlot (.s 4)]
       let sb := [addrSlot (.s 4), dataSlot .b32 1 (.v 8)]
       s.parksOn c0 (s.addresses (s.view c0 h1 sa) 0) = false ∧ s.parksOn c0 (s.addresses (s.view c0 h1 sb) 0) = false ∧
       let ok (row : RowInfo) (sl : List Slot) (as : List (Nat × W64)) : Bool :=
         s.clear c0 h1 row sl && as.find? (fun x => x.2.toNat % 4 != 0) = some (0, 2)
       ok { rpt := true, ld := true } [loadSlot .b32 1 (.v 8), addrSlot (.s 4)] (s.addresses (s.view c0 h1 [loadSlot .b32 1 (.v 8), addrSlot (.s 4)]) 0)
       ∧ ok { rpt := true, st := true } [addrSlot (.s 4), dataSlot .b32 1 (.v 8)] (s.addresses (s.view c0 h1 [addrSlot (.s 4), dataSlot .b32 1 (.v 8)]) 0)
       ∧ ok { rpt := true, ld := true } [loadSlot .b32 1 (.v 8), spadSlot (.s 4)] (s.spadAddresses (s.view c0 h1 [loadSlot .b32 1 (.v 8), spadSlot (.s 4)]))
       ∧ (s.spadAddresses (s.view c0 h1 [loadSlot .b32 1 (.v 8), spadSlot (.s 4)])).all (fun x =>
           (s.spTarget (s.blockOf c0) x.2.toNat 4).isSome) = true) := by
  decide +kernel

theorem witness_QueueAndMemcntRules :
    State.reset.cxlgWritten = false ∧ ({ State.reset with cxlgWritten := true } : State).cxlgWritten = true
    ∧ ({ en := true } : HQueue).en = true ∧ ({} : HQueue).en = false
    ∧ field (0x300#64).toNat 8 4 < 4 ∧ 14 < field (0xF00#64).toNat 8 4 ∧ 4 ≤ field (0x401#64).toNat 8 4 ∧ field (0xE01#64).toNat 8 4 ≤ 14
    ∧ 2 ^ ({} : HQueue).logn < ((17#64).setWidth 32 - ({} : HQueue).qci).toNat
    ∧ ((16#64).setWidth 32 - ({} : HQueue).qci).toNat ≤ 2 ^ ({} : HQueue).logn := by decide +kernel

/-- Lane 0's v8 holds a signalling NaN, and every exception traps. -/
def F : State := P1.onGroup c0 (fun g => { (g.setVreg 8 0 ⟨0x7FA00000, false⟩) with flags := 0x1F0000 })

/-- An exception is raised and enabled. -/
def raises (res : List FLane) : Bool := res.any (fun r => (field (F.grp c0).flags.toNat 16 5) &&& r.fl != 0)

theorem witness_EnabledExceptionsTrap :
    (let sl := [slotFD (.v 2) false, slotFS .a (.v 8) .f32, slotFS .b (.v 9) .f32]
     let v := F.view c0 h1 sl
     let res (op : Nat → Nat → FRes) : List FLane := (F.acts c0 h1).map (fun l => fLane l [F.fsrc v .a .f32 l, F.fsrc v .b .f32 l]
       [op (fbits .f32 (F.fsrc v .a .f32 l).v) (fbits .f32 (F.fsrc v .b .f32 l).v)])
     let dl := Deliver.ofMods h1.mods
     F.clear c0 h1 (fpRow [.f32]) sl = true ∧ raises (res (fAdd fF32 dl)) = true ∧ raises (res (fSub fF32 dl)) = true
     ∧ raises (res (fMul fF32 dl)) = true ∧ raises (res (fDiv fF32 dl)) = true
     ∧ raises (res (fMinMax fF32 false dl)) = true ∧ raises (res (fMinMax fF32 true dl)) = true
     ∧ F.clear c0 h1 (fpRow [.f32]) [slotP .d (.p 1) true, { slotFS .a (.v 8) .f32 with consumed := true }, { slotFS .b (.v 9) .f32 with consumed := true }] = true
     ∧ raises [fLane 0 [] [⟨0, (fCmp fF32 .eq false 0x7FA00000 0).2⟩]] = true)
    ∧ F.clear c0 h1 (fpRow [.f16]) [slotFD (.v 2) false, slotFS .a (.v 8) .f16, slotFS .b (.v 9) .f16, slotFS .c (.v 8) .f32] = true
    ∧ raises [fLane 0 [] [fDot2 (fmtOf .f16) (Deliver.ofMods z) 0 0 0x7FA00000]] = true
    ∧ F.clear c0 h1 (fpRow [.e4m3]) (packSlots .e4m3 (.v 2) (.v 8) (.v 10)) = true
    ∧ raises [fLane 0 [] [fConvert (fmtOf .e4m3) fF32 (Deliver.ofMods z) 0x7FA00000]] = true
    ∧ raises [fLane 0 [] [fConvertSr (fmtOf .e4m3) (Deliver.ofMods z) 0 0x7FA00000]] = true
    ∧ F.clear c0 h1 (fpRow [.f16]) [{ slotFD (.v 2) false with run := unpackRun .f16, okS := false, okK := false }, slotFS .a (.v 8) .f16,
        { pos := .b, op := .k 0, okV := false, okS := false, okP := false, okSp := false, okK := true }] = true
    ∧ raises [fLane 0 [] [fWiden (fmtOf .f16) (Deliver.ofMods z) 0x7D00]] = true
    ∧ F.clear c0 h1 (fpRow [.e4m3]) [slotFD (.v 5) false, slotFS .a (.v 8) .f32] = true
    ∧ F.clear c0 h1 (fpRow [.f32]) [slotFD (.v 2) false, slotFS .a (.v 8) .f32] = true
    ∧ F.clear c0 h1 (fpRow [.f32, .f32]) [slotFD (.v 2) (tyWide .f32), slotFS .a (.v 8) .f32] = true
    ∧ ([fSqrt fF32, fRint fF32, spEval .rcp .f32, spEval .rsq .f32, spEval .exp2 .f32, spEval .log2 .f32, spEval .sinpi .f32,
        spEval .cospi .f32, spEval .tanh .f32].all (fun op => raises [fLane 0 [] [op (Deliver.ofMods z) 0x7FA00000]])) = true
    ∧ F.clear c0 h1 (fpRow [.f32]) [slotFD (.v 2) false, { pos := .a, op := .v 8, wide := tyWide .i32 }] = true
    ∧ raises [fLane 0 [] [fFromInt fF32 .rn 0x7FFFFFFF], fLane 0 [] [fToInt fF32 .i32 (Deliver.ofMods z) 0x7FA00000]] = true
    ∧ F.clear c0 h1 (fpRow [.f32]) [slotFD (.v 2) (tyWide .i32), slotFS .a (.v 8) .f32] = true
    ∧ (let sl := [slotFD (.v 2) false, slotFS .a (.v 8) .f32, slotFS .b (.v 9) .f32, slotFS .c (.v 9) .f32]
     let v := F.view c0 h1 sl
     F.clear c0 h1 (fpRow [.f32]) sl = true ∧ raises ((F.acts c0 h1).map (fun l => fLane l [F.fsrc v .a .f32 l, F.fsrc v .b .f32 l, F.fsrc v .c .f32 l]
       [fMa fF32 (Deliver.ofMods h1.mods) (fbits .f32 (F.fsrc v .a .f32 l).v) (fbits .f32 (F.fsrc v .b .f32 l).v) (fbits .f32 (F.fsrc v .c .f32 l).v)])) = true)
    ∧ (let sl := [slotFD (.v 2) false, slotFS .a (.v 8) .f32]
     let v := F.view c0 h1 sl
     F.clear c0 h1 (fpRow [.f16, .f32]) sl = true ∧ raises ((F.acts c0 h1).map (fun l => fLane l [F.fsrc v .a .f32 l]
       [fConvert (fmtOf .f16) fF32 (Deliver.ofMods h1.mods) (fbits .f32 (F.fsrc v .a .f32 l).v)])) = true) := by decide +kernel

theorem witness_GeneratorDraws :
    ({} : Proc).draws = [] ∧ ({ draws := [1, 2] } : Proc).draws = [1, 2] ∧ ∃ t, exec .moduleReset P = .next t :=
  ⟨rfl, rfl, _, rfl⟩

theorem witness_ResultsKeepTheRest :
    P.sel = some c0 ∧ (P.group? c0).isSome = true ∧ (P.grp c0).hold = .none
    ∧ resultIn (.mov hd .b32 (.v 2) (.k 1)) = some (hd, .v 2, 1)
    ∧ (match exec (.mov hd .b32 (.v 2) (.k 1)) P with | .next t => (t.grp c0).hold == .none | _ => false) = true := by decide +kernel

theorem witness_StoresKeepTheRest :
    (let sl := [spadSlot (.v 2), dataSlot .b32 1 (.v 8)]
     P1.clear c0 h1 { rpt := true, st := true } sl = true ∧ (P1.spadChecked (P1.view c0 h1 sl) .b32).toOption.isSome = true
     ∧ goes (exec (.stsp h1 .b32 (.v 2) (.v 8)) P1) = true ∧ goes (exec (.stfe h1 .b32 (.v 2) (.v 8)) P1) = true)
    ∧ (let sl := [addrSlot (.s 4), dataSlot .b32 1 (.v 8)]
     let eas := P1.addresses (P1.view c0 h1 sl) 0
     let y := P1.translateLanes c0 .write eas
     P1.parksOn c0 eas = false ∧ y.1.behindGranule c0 4 (windowParts y.2) = false ∧ y.1.l2.length + y.1.hostLines.length + 64 ≤ Config.l2Lines)
    ∧ (∀ e ∈ (P1.proc (P1.ctxUnit c0)).l1, e.2.mask = 0) ∧ P1.migs = [] ∧ (P1.proc 0).grans = [] ∧ P1.watches = [] ∧ P1.versions = []
    ∧ goes (exec (.st h1 .b32 (.s 4) (.v 8) mm) P1) = true := by decide +kernel

/-! ### Words of the opcode map

One word of every encoded row, each field set by hand as Table 6-1 and Tables 7-4 to 7-9 lay it out. -/

/-- Every word decodes to its instruction. -/
def allDecode (l : List (Word96 × Instr)) : Bool := l.all (fun e => decode e.1 = .instr e.2)

/-- Table 7-4. -/
theorem test_words_control : allDecode [
    (word3 0x00000001 0x00000000 0x7FE80000, .nop { hd with hints := ⟨3, true, true, true, 15⟩, guard := ⟨2, true⟩ }),
    (word3 0x00000002 0x1E33F000 0x001C000F, .rep hd ⟨15, 1, 14, 3, 63⟩),
    (word3 0x00000003 0xFFFFC000 0x001C0FFF, .bra hd 0xFFFFFFFC),
    (word3 0x04000103 0x00000000 0x001C0000, .brx hd (.v 4)),
    (word3 0x00000004 0x00007000 0x001C0000, .call hd 7),
    (word3 0x06000104 0x00000000 0x001C0000, .callx hd (.v 6)),
    (word3 0x00000204 0x00000000 0x001C0000, .ret hd),
    (word3 0x00000005 0x00000000 0x001C0000, .exit hd),
    (word3 0x00000006 0x00001000 0x001C0800, .trap hd 0x80000001),
    (word3 0x00000106 0x00009000 0x001C0000, .bkpt hd 9),
    (word3 0x00000007 0x03412000 0x001C0000, .wcnt hd ⟨0x12, 0x34⟩),
    (word3 0x00000107 0x00000000 0x001C0000, .yield hd),
    (word3 0x13008008 0x00000002 0x001C0000, .srget hd (.v 2) (.special 19)),
    (word3 0x03880009 0x00000001 0x001C0000, .srset hd (.special 32) (.s 3)),
    (word3 0x09000109 0x00000001 0x001C0000, .srsetSeed hd (.s 9)),
    (word3 0x00000010 0x00000000 0x001C0000, .rti hd),
    (word3 0x01000011 0x00000409 0x001C0000, .tlbinv hd (.s 1) (.s 2)),
    (word3 0x01000012 0x00000C31 0x001C0000, .icinv hd (.s 1) (.k 12)),
    (word3 0x00000013 0x00000000 0x001C0000, .ifence hd),
    (word3 0x04000014 0x00000001 0x001C0000, .ctxswSave hd (.s 4)),
    (word3 0x05804015 0x00000000 0x001C0000, .ispsn hd (.p 1) (.v 5)),
    (word3 0x00014016 0x00000000 0x001C0000, .clrpsn hd (.v 5)),
    (word3 0x00000017 0x00000000 0x001C0000, .wsave hd),
    (word3 0x00000018 0x00000000 0x001C0000, .wrest hd)] = true := by decide +kernel

/-- Table 7-5, the integer rows. -/
theorem test_words_integer : allDecode [
    (word3 0x02004120 0x00000FFC 0x001C4000, .add { hd with mods := { z with sat := true } } .i32 (.v 1) (.v 2) (.k 255)),
    (word3 0x02004121 0x00000FFC 0x001C4000, .sub { hd with mods := { z with sat := true } } .i32 (.v 1) (.v 2) (.k 255)),
    (word3 0x02004122 0x00000FFC 0x001C4000, .mul { hd with mods := { z with sat := true } } .i32 (.v 1) (.v 2) (.k 255)),
    (word3 0x04008623 0x00000018 0x001C0000, .mulhi hd .n64 (.v 2) (.v 4) (.v 6)),
    (word3 0x04008224 0x0013F018 0x001C0000, .mad hd .i64 (.v 2) (.v 4) (.v 6) (.s 63)),
    (word3 0x03008525 0x00006014 0x001C0000, .madw hd .n32 (.v 2) (.v 3) (.v 5) (.v 6)),
    (word3 0x03008126 0x00000000 0x001C0000, .neg hd .i32 (.v 2) (.v 3)),
    (word3 0x04008227 0x00000000 0x001C0000, .abs hd .i64 (.v 2) (.v 4)),
    (word3 0x03008528 0x00000010 0x001C0000, .min hd .n32 (.v 2) (.v 3) (.v 4)),
    (word3 0x03008129 0x00000010 0x001C0000, .max hd .i32 (.v 2) (.v 3) (.v 4)),
    (word3 0x0200492A 0x0000000C 0x001C0000, .and hd .b32 (.v 1) (.v 2) (.v 3)),
    (word3 0x0400AA2A 0x00001000 0x001C0800, .andImm hd .b64 (.v 2) (.v 4) 0x80000001),
    (word3 0x0200492B 0x0000000C 0x001C0000, .or hd .b32 (.v 1) (.v 2) (.v 3)),
    (word3 0x0400AA2B 0x00001000 0x001C0800, .orImm hd .b64 (.v 2) (.v 4) 0x80000001),
    (word3 0x0200492C 0x0000000C 0x001C0000, .xor hd .b32 (.v 1) (.v 2) (.v 3)),
    (word3 0x0400AA2C 0x00001000 0x001C0800, .xorImm hd .b64 (.v 2) (.v 4) 0x80000001),
    (word3 0x0200492D 0x00000000 0x001C0000, .not hd .b32 (.v 1) (.v 2)),
    (word3 0x04008A2E 0x00000014 0x001C0000, .shl hd .b64 (.v 2) (.v 4) (.v 5)),
    (word3 0x04008A2F 0x00000014 0x001C0000, .shr hd .b64 (.v 2) (.v 4) (.v 5)),
    (word3 0x04008A30 0x00000014 0x001C0000, .sar hd .b64 (.v 2) (.v 4) (.v 5)),
    (word3 0x04008A31 0x00000014 0x001C0000, .rol hd .b64 (.v 2) (.v 4) (.v 5)),
    (word3 0x02004932 0x00308C10 0x001E0000, .bfe { hd with mods := { z with om := true } } .b32 (.v 1) (.v 2) (.k 4) (.k 8)),
    (word3 0x02004933 0x0000400C 0x001C0000, .bfi hd .b32 (.v 1) (.v 2) (.v 3) (.v 4)),
    (word3 0x02004934 0x00000000 0x001C0000, .popc hd .b32 (.v 1) (.v 2)),
    (word3 0x02004935 0x00000000 0x001C0000, .clz hd .b32 (.v 1) (.v 2)),
    (word3 0x02004936 0x00000000 0x001C0000, .brev hd .b32 (.v 1) (.v 2)),
    (word3 0x02004937 0x0020400C 0x001C0000, .sel hd .b32 (.v 1) (.v 2) (.v 3) (.p 4)),
    (word3 0x05008A38 0x00000001 0x001C0000, .mov hd .b64 (.v 2) (.s 5)),
    (word3 0x0001C939 0xDBEEF000 0x001C0DEA, .movi hd .b32 (.v 7) 0xDEADBEEF),
    (word3 0x04008A3A 0x03400018 0x001C0000, .lea hd .b64 (.v 2) (.v 4) (.v 6) ⟨5, true⟩),
    (word3 0x0200413B 0x0000400C 0x001C0000, .idot4 hd .i32 (.v 1) (.v 2) (.v 3) (.v 4)),
    (word3 0x0200453C 0x0000400C 0x001C0000, .sad hd .n32 (.v 1) (.v 2) (.v 3) (.v 4))] = true := by decide +kernel

/-- Table 7-5, the predicate, lane and comparison rows. -/
theorem test_words_lane : allDecode [
    (word3 0x02804040 0x0000080E 0x001C0000, .pand hd (.p 1) (.p 2) (.p 3)),
    (word3 0x02804041 0x0000080E 0x001C0000, .por hd (.p 1) (.p 2) (.p 3)),
    (word3 0x02804042 0x0000080E 0x001C0000, .pxor hd (.p 1) (.p 2) (.p 3)),
    (word3 0x07804043 0x00000002 0x001C0000, .pnot hd (.p 1) (.p 7)),
    (word3 0x01410248 0x00000002 0x001C0000, .vote hd .ballot (.s 4) (.p 1)),
    (word3 0x02004349 0x00000C40 0x001C0000, .shfl hd .xor (.v 1) (.v 2) (.k 16)),
    (word3 0x0200494A 0x00000C7C 0x001C0000, .bcast hd .b32 (.v 1) (.v 2) (.k 31)),
    (word3 0x0200454B 0x01400000 0x001C0000, .lred hd .n32 (.v 1) (.v 2) .xor),
    (word3 0x0805104C 0x00800000 0x001E0000, .lscan { hd with mods := { z with om := true } } .f32 (.v 20) (.v 8) .max),
    (word3 0x02804653 0x00000010 0x001C0000, .cmp hd .le .n64 (.p 1) (.v 2) (.v 4)),
    (word3 0x02806155 0xFFFFF000 0x001C0FFF, .cmpImm hd .ge .i32 (.p 1) (.v 2) 0xFFFFFFFF)] = true := by decide +kernel

/-- Table 7-6. -/
theorem test_words_float : allDecode [
    (word3 0x02005360 0x00000C0C 0x001D7000, .fadd { hd with mods := ⟨false, .rp, true, true, true⟩ } .bf16 (.v 1) (.v 2) (.k 3)),
    (word3 0x02005361 0x00000C0C 0x001D7000, .fsub { hd with mods := ⟨false, .rp, true, true, true⟩ } .bf16 (.v 1) (.v 2) (.k 3)),
    (word3 0x02005362 0x00000C0C 0x001D7000, .fmul { hd with mods := ⟨false, .rp, true, true, true⟩ } .bf16 (.v 1) (.v 2) (.k 3)),
    (word3 0x04009163 0x00008018 0x001D7000, .fma { hd with mods := ⟨false, .rp, true, true, true⟩ } .f64 (.v 2) (.v 4) (.v 6) (.v 8)),
    (word3 0x02005064 0x0000000C 0x001C0000, .fmin hd .f32 (.v 1) (.v 2) (.v 3)),
    (word3 0x02005265 0x0000000C 0x001C0000, .fmax hd .f16 (.v 1) (.v 2) (.v 3)),
    (word3 0x02005066 0x00000000 0x001C0000, .fclass hd .f32 (.v 1) (.v 2)),
    (word3 0x02005067 0x00000000 0x001D8000, .frint { hd with mods := { z with rnd := .rm } } .f32 (.v 1) (.v 2)),
    (word3 0x02005268 0x0000400C 0x001C0000, .fdot2 hd .f16 (.v 1) (.v 2) (.v 3) (.v 4)),
    (word3 0x08051469 0x00000028 0x001C4000, .pack { hd with mods := { z with sat := true } } .e4m3 (.v 20) (.v 8) (.v 10)),
    (word3 0x02007869 0x0000000C 0x001C0000, .packSr hd .e2m1 (.v 1) (.v 2) (.v 3)),
    (word3 0x0201156A 0x0000000C 0x001C0000, .unpack hd .e5m2 (.v 4) (.v 2) (.v 3)),
    (word3 0x0200576B 0x00000C00 0x001C0000, .mxscale hd .e2m3 (.v 1) (.v 2) (.k 0)),
    (word3 0x02005270 0x00000000 0x001C0000, .fcvt hd .f16 (.v 1) (.v 2)),
    (word3 0x02007670 0x00000000 0x001C0000, .fcvtSr hd .e3m2 (.v 1) (.v 2)),
    (word3 0x02005171 0x00000000 0x001C0000, .fcvtToF32 hd .f64 (.v 1) (.v 2)),
    (word3 0x02007572 0x00000000 0x001C0000, .icvt hd .bf16 .n32 (.v 1) (.v 2)),
    (word3 0x04009273 0x00000000 0x001C0000, .fcvti hd .f64 .i64 (.v 2) (.v 4)),
    (word3 0x04009178 0x00000000 0x001C0000, .rcp hd .f64 (.v 2) (.v 4)),
    (word3 0x02005079 0x00000000 0x001C0000, .rsq hd .f32 (.v 1) (.v 2)),
    (word3 0x0200527A 0x00000000 0x001C0000, .sqrt hd .f16 (.v 1) (.v 2)),
    (word3 0x0200537B 0x00000000 0x001C0000, .exp2 hd .bf16 (.v 1) (.v 2)),
    (word3 0x0200537C 0x00000000 0x001C0000, .log2 hd .bf16 (.v 1) (.v 2)),
    (word3 0x0200537D 0x00000000 0x001C0000, .sinpi hd .bf16 (.v 1) (.v 2)),
    (word3 0x0200537E 0x00000000 0x001C0000, .cospi hd .bf16 (.v 1) (.v 2)),
    (word3 0x0200537F 0x00000000 0x001C0000, .tanh hd .bf16 (.v 1) (.v 2)),
    (word3 0x02005080 0x0000000C 0x001C0000, .fdiv hd .f32 (.v 1) (.v 2) (.v 3)),
    (word3 0x02805294 0x0000000C 0x001C1000, .fcmp { hd with mods := { z with fzi := true } } .gt .f16 (.p 1) (.v 2) (.v 3))] = true := by decide +kernel

/-- Table 7-7, loads, stores and fences. -/
theorem test_words_memory : allDecode [
    (word3 0x04050AA0 0x58800000 0x001C0840, .ld hd .b64 (.v 20) (.v 4) ⟨0x840, .strm, .two, .sys, .acq⟩),
    (word3 0x040007A1 0x84C00024 0x001C0002, .st hd .n16 (.v 4) (.v 9) ⟨2, .l2, .one, .clu, .rel⟩),
    (word3 0x020040A2 0x00000000 0x001C0000, .ldsp hd .i8 (.v 1) (.v 2)),
    (word3 0x02000AA3 0x00000010 0x001C0000, .stsp hd .b64 (.v 2) (.v 4)),
    (word3 0x020049A4 0x00000000 0x001E0000, .ldfe { hd with mods := { z with om := true } } .b32 (.v 1) (.v 2)),
    (word3 0x020003A5 0x0000000C 0x001C0000, .stfe hd .i16 (.v 2) (.v 3)),
    (word3 0x020044A6 0x00000000 0x001C0000, .ldstb hd .n8 (.v 1) (.v 2)),
    (word3 0x020000A7 0x80000000 0x001C0FFF, .pref hd (.v 2) ⟨0xFFF, .l2, .one, .grp, .none⟩),
    (word3 0x010000A8 0x00000409 0x001C0000, .cflush hd (.s 1) (.s 2)),
    (word3 0x010000A9 0x00000D01 0x001C0000, .cinv hd (.s 1) (.k 64)),
    (word3 0x00001CAA 0x00000000 0x001C0000, .fence hd .ar .sys),
    (word3 0x03002BAA 0x00000001 0x001C0000, .fenceRemote hd (.s 3))] = true := by decide +kernel

/-- Table 7-7, atomics, reductions and rows. -/
theorem test_words_atomic : allDecode [
    (word3 0x040099B0 0x06400018 0x001C0008, .atomAdd hd .x64 (.v 2) (.v 4) (.v 6) ⟨8, .normal, .one, .dev, .rlx⟩),
    (word3 0x040086B1 0x06400018 0x001C0008, .atomMin hd .n64 (.v 2) (.v 4) (.v 6) ⟨8, .normal, .one, .dev, .rlx⟩),
    (word3 0x040050B2 0x06400018 0x001C0008, .atomMax hd .f32 (.v 1) (.v 4) (.v 6) ⟨8, .normal, .one, .dev, .rlx⟩),
    (word3 0x04C009B3 0x06400018 0x001C0008, .atomAnd hd .b32 (.k 0) (.v 4) (.v 6) ⟨8, .normal, .one, .dev, .rlx⟩),
    (word3 0x04C009B4 0x06400018 0x001C0008, .atomOr hd .b32 (.k 0) (.v 4) (.v 6) ⟨8, .normal, .one, .dev, .rlx⟩),
    (word3 0x04C009B5 0x06400018 0x001C0008, .atomXor hd .b32 (.k 0) (.v 4) (.v 6) ⟨8, .normal, .one, .dev, .rlx⟩),
    (word3 0x04C009B6 0x06400018 0x001C0008, .atomExch hd .b32 (.k 0) (.v 4) (.v 6) ⟨8, .normal, .one, .dev, .rlx⟩),
    (word3 0x04008AB7 0x06408018 0x001C0008, .atomCas hd .b64 (.v 2) (.v 4) (.v 6) (.v 8) ⟨8, .normal, .one, .dev, .rlx⟩),
    (word3 0x040013B8 0x00000018 0x001C07F8, .aredAdd hd .bf16 (.v 4) (.v 6) ⟨0x7F8, .normal, .one, .grp, .none⟩),
    (word3 0x040001B9 0x00000018 0x001C07F8, .aredMin hd .i32 (.v 4) (.v 6) ⟨0x7F8, .normal, .one, .grp, .none⟩),
    (word3 0x040006BA 0x00000018 0x001C07F8, .aredMax hd .n64 (.v 4) (.v 6) ⟨0x7F8, .normal, .one, .grp, .none⟩),
    (word3 0x000000BB 0x00000000 0x001C0000, .aflush hd),
    (word3 0x010213BC 0xDCC00C09 0x001C0ABC, .rowld hd .bf16 (.v 8) (.s 1) (.k 2) ⟨0xABCD, true, true, 3⟩),
    (word3 0x010010BD 0xF3C00021 0x001C007F, .rowst hd .f32 (.s 1) (.v 8) ⟨0x7FF, 15⟩),
    (word3 0x010013BE 0x10000021 0x001C0000, .rowadd hd .bf16 (.s 1) (.v 8) ⟨1, 0⟩)] = true := by decide +kernel

/-- Table 7-8. -/
theorem test_words_matrix : allDecode [
    (word3 0x004204C0 0x11C00C07 0x001C0000, .mma hd .e4m3 .e2m1 (.s 8) (.k 0) (.k 1) ⟨.s128x32, 7⟩),
    (word3 0x004209C1 0x04702C07 0x001C0000, .mmas hd .e5m2 .e5m2 (.s 8) (.k 0) (.k 1) (.k 2) ⟨.s64x32, 1⟩),
    (word3 0x00423FC2 0x60000020 0x001C4008, .mmav { hd with mods := { z with sat := true } } .i8 .i8 (.s 8) (.v 0) (.v 8) ⟨33, true⟩),
    (word3 0x084180C3 0x00000C0D 0x001C0000, .omap hd (.s 6) (.s 8) (.k 3)),
    (word3 0x010000C4 0x00000409 0x001C0000, .accClr hd (.s 1) (.s 2)),
    (word3 0x010013C5 0x14000409 0x001C0000, .accLd hd .bf16 (.s 1) (.s 2) .s32x128),
    (word3 0x010015C6 0x28000409 0x001C0000, .accSt hd .e5m2 (.s 1) (.s 2) ⟨.s32x64, true⟩),
    (word3 0x010001C7 0x0C000409 0x001C0000, .accCvt hd .i32 (.s 1) (.s 2) .s64x64),
    (word3 0x010019C8 0x00103409 0x001C0CB0, .accSend hd .x64 (.s 1) (.s 2) (.s 3) ⟨some .sys, some .dev⟩ .s32x32),
    (word3 0x04C080C9 0x00000001 0x001C0000, .trec hd (.k 2) (.s 4)),
    (word3 0x010000CA 0x0010400B 0x001C0900, .walk hd (.k 1) (.v 2) (.s 4) ⟨some .blk, none⟩),
    (word3 0x010000CC 0x0010400B 0x001C0900, .copyt hd (.k 1) (.v 2) (.s 4) ⟨some .blk, none⟩),
    (word3 0x010000CB 0x00104409 0x001C0900, .copy hd (.s 1) (.s 2) (.s 4) ⟨some .blk, none⟩),
    (word3 0x010000CD 0x00000C05 0x001C0000, .tbinit hd (.s 1) (.k 1)),
    (word3 0x010000CE 0x00000C05 0x001C0000, .tbexp hd (.s 1) (.k 1)),
    (word3 0x010000CF 0x00000C05 0x001C0000, .tbarr hd (.s 1) (.k 1)),
    (word3 0x014180D0 0x00000C05 0x001C0000, .tbwait hd (.s 6) (.s 1) (.k 1))] = true := by decide +kernel

/-- Table 7-9. -/
theorem test_words_waiting : allDecode [
    (word3 0x050000D8 0x00000003 0x001C0000, .bar hd (.k 5)),
    (word3 0x020001D8 0x00000003 0x001C0000, .cbar hd (.k 2)),
    (word3 0x010000D9 0x0000000B 0x001C0000, .qpush hd (.k 1) (.v 2)),
    (word3 0x010081D9 0x00000003 0x001C0000, .qpop hd (.v 2) (.k 1)),
    (word3 0x014082D9 0x00000003 0x001C0000, .qtry hd (.s 2) (.k 1)),
    (word3 0x010003D9 0x00303C0B 0x001C0000, .qgrant hd (.k 1) (.k 2) (.k 3)),
    (word3 0x04003ADA 0x00106C05 0x001C0000, .hold hd .any true true (.s 4) (.k 1) (.s 6)),
    (word3 0x010000DB 0x00000001 0x001C0000, .hcancel hd (.s 1)),
    (word3 0x010000DC 0x00000C05 0x001C0000, .parr hd (.s 1) (.k 1)),
    (word3 0x000001DC 0x00000000 0x001C0000, .pdrain hd),
    (word3 0x000000DD 0x00000000 0x001C0000, .lwait hd),
    (word3 0x000001DD 0x00000000 0x001C0000, .ltrig hd),
    (word3 0x044202DD 0x00000001 0x001C0000, .launch hd (.s 8) (.s 4)),
    (word3 0x000203DD 0x00000000 0x001C0000, .range hd (.v 8)),
    (word3 0x0A4240E0 0x00000001 0x001C0000, .tspawn hd (.s 9) (.s 10)),
    (word3 0x000001E0 0x00000000 0x001C0000, .tend hd),
    (word3 0x000002E0 0x00000000 0x001C0000, .tnspec hd),
    (word3 0x000003E0 0x00000000 0x001C0000, .tabort hd),
    (word3 0x000004E0 0x00000000 0x001C0000, .tyield hd),
    (word3 0x040000E8 0x00106415 0x001C00A0, .rcall hd (.s 4) (.s 5) (.s 6) ⟨none, some .clu⟩),
    (word3 0x030000E9 0x00000000 0x001C0000, .rret hd (.v 3)),
    (word3 0x010001EA 0x00103409 0x001C0000, .bnkDot hd .f16 (.s 1) (.s 2) (.s 3)),
    (word3 0x010005EA 0x00103409 0x001C0000, .bnkAxpy hd .f16 (.s 1) (.s 2) (.s 3)),
    (word3 0x010009EA 0x00103409 0x001C0000, .bnkScale hd .f16 (.s 1) (.s 2) (.s 3)),
    (word3 0x01000DEA 0x00103C01 0x001C0000, .bnkFill hd .f16 (.s 1) (.k 0) (.s 3)),
    (word3 0x010011EA 0x00103409 0x001C0000, .bnkCopy hd .f16 (.s 1) (.s 2) (.s 3)),
    (word3 0x010015EA 0x00103C01 0x001C0000, .bnkRed hd .f16 (.s 1) (.k 0) (.s 3)),
    (word3 0x010000EB 0x00000C09 0x001C0000, .landOpen hd (.s 1) (.k 2)),
    (word3 0x020001EB 0x00000003 0x001C0000, .landClose hd (.k 2))] = true := by decide +kernel

/-- The words that the specification writes out (chapters 6, 7, 9 and 10). -/
theorem test_words_examples : allDecode [
    (word3 0x09021063 0x0000B028 0x001C8000, .fma { hd with mods := { z with rnd := .rz } } .f32 (.v 8) (.v 9) (.v 10) (.v 11)),
    (word3 0x0400E92A 0xF00FF000 0x001C000F, .andImm hd .b32 (.v 3) (.v 4) 0x00FF00FF),
    (word3 0x00000003 0xFFFFC000 0x00040FFF, .bra { hd with guard := ⟨1, false⟩ } 0xFFFFFFFC),
    (word3 0x0805054C 0x00800000 0x001E0000, .lscan { hd with mods := { z with om := true } } .n32 (.v 20) (.v 8) .max),
    (word3 0x08051469 0x00000028 0x001C4000, .pack { hd with mods := { z with sat := true } } .e4m3 (.v 20) (.v 8) (.v 10)),
    (word3 0x00000002 0x01107000 0x001C0000, .rep hd ⟨0, 0, 1, 1, 7⟩),
    (word3 0x00040120 0x00000C04 0x001C0000, .add hd .i32 (.v 16) (.v 0) (.k 1)),
    (word3 0x290A0120 0x00000414 0x08E80000,
      .add { hd with guard := ⟨2, true⟩, hints := ⟨0, false, true, false, 3⟩ } .i32 (.v 40) (.v 41) (.s 5)),
    (word3 0x00000005 0x00000000 0x001C0000, .exit hd)] = true := by decide +kernel

/-- Words of Table 6-4 that are no instruction: an unassigned type, OPC and comparison, a reserved bit, WAITC 4, a vector index
above 63, a discarded destination with k ≠ 0, a SHAPE of 6, a scope without an order, a matrix pair, `rep` with a hint. -/
theorem test_words_refused :
    [word3 0x09021860 0x00000028 0x001C0000, word3 0x000000D1 0x00000000 0x001C0000, word3 0x0280495A 0x0000000C 0x001C0000,
      word3 0x02004120 0x0000100C 0x001C0000, word3 0x00000001 0x00000000 0x801C0000, word3 0x40004120 0x0000000C 0x001C0000,
      word3 0x02C04120 0x0000000C 0x001C0000, word3 0x010010C5 0x18000409 0x001C0000, word3 0x020049A0 0x06000000 0x001C0000,
      word3 0x024045C0 0x0000040D 0x001C0000, word3 0x00000002 0x00007000 0x005C0000].all (fun w => match decode w with | .illegal _ => true | .instr _ => false) = true := by
  decide +kernel

/-- One ill-formed term for each check of `Instr.wf`. -/
theorem test_wf_refuses :
    ([ .nop { hd with mods := { z with om := true } }, .nop { hd with mods := { z with rnd := .rz } },
       .nop { hd with mods := { z with sat := true } }, .nop { hd with mods := { z with fzo := true } },
       .nop { hd with mods := { z with fzi := true } }, .rep { hd with guard := ⟨1, false⟩ } ⟨0, 0, 0, 0, 0⟩,
       .rep { hd with hints := ⟨1, false, false, false, 0⟩ } ⟨0, 0, 0, 0, 0⟩,
       .add hd .f32 (.v 1) (.v 2) (.v 3), .add hd .i32 (.k 1) (.v 2) (.v 3), .add hd .i32 (.special 3) (.v 2) (.v 3),
       .add hd .i32 (.v 1) (.special 7) (.v 3), .mulhi { hd with mods := { z with sat := true } } .i32 (.v 1) (.v 2) (.v 3),
       .cmp hd .any .i32 (.p 1) (.v 2) (.v 3), .fcmp hd .ltn .f32 (.p 1) (.v 2) (.v 3), .lea hd .b32 (.v 2) (.v 4) (.v 6) ⟨0, false⟩,
       .icvt hd .e4m3 .i32 (.v 1) (.v 2), .fcvti hd .f32 .f32 (.v 1) (.v 2),
       .ld hd .b32 (.v 1) (.v 2) ⟨0, .normal, .one, .dev, .none⟩, .ld hd .b32 (.v 1) (.v 2) ⟨0, .normal, .one, .dev, .rel⟩,
       .ld hd .i8 (.v 1) (.v 2) ⟨0, .normal, .two, .grp, .none⟩, .st hd .b32 (.v 2) (.v 1) ⟨0, .normal, .one, .dev, .acq⟩,
       .pref hd (.v 2) ⟨0, .strm, .one, .grp, .none⟩, .atomAdd hd .i32 (.v 1) (.v 2) (.v 4) mm,
       .aredAdd hd .i32 (.v 2) (.v 4) ⟨0, .normal, .one, .grp, .rlx⟩, .mma hd .bf16 .f16 (.s 1) (.s 2) (.s 3) ⟨.s32x32, 0⟩,
       .mma { hd with mods := { z with sat := true } } .e4m3 .e4m3 (.s 1) (.s 2) (.s 3) ⟨.s32x32, 0⟩,
       .mmas hd .e3m2 .e3m2 (.s 1) (.s 2) (.s 3) (.s 4) ⟨.s32x32, 0⟩, .mmav hd .e4m3 .e4m3 (.s 1) (.v 0) (.v 8) ⟨3, false⟩ ] : List Instr).all
      (fun i => !i.wf) = true := by decide +kernel

/-! ### Single steps, with the values of the specification's worked examples -/

/-- Lane 0's registers as given. -/
def regs (l : List (Nat × BitVec 32)) (f : BitVec 32) : State :=
  P1.onGroup c0 (fun g => { (l.foldl (fun g r => g.setVreg r.1 0 ⟨r.2, false⟩) g) with flags := f })
/-- The group after one instruction. -/
def after (s : State) (i : Instr) : Group := match exec i s with | .next t => t.grp c0 | _ => {}
/-- Lane 0's registers after one instruction. -/
def gives (s : State) (i : Instr) (l : List (Nat × BitVec 32)) : Bool := l.all (fun r => ((after s i).vreg r.1 0).v = r.2)

/-- Chapter 9, example 2. -/
theorem test_fields_and_addresses :
    (let s := regs [(0, 0xDEADBEEF), (1, 0x123), (2, 0x1000), (3, 0x7F20), (6, 0xFFFFFFFE), (7, 0x0C04), (8, 0x081C)] 0
     let sx : Head := { h1 with mods := { z with om := true } }
     gives s (.bfe h1 .b32 (.v 10) (.v 0) (.k 8) (.k 12)) [(10, 0xDBE)] && gives s (.bfe sx .b32 (.v 11) (.v 0) (.k 8) (.k 12)) [(11, 0xFFFFFDBE)]
     && gives s (.bfe sx .b32 (.v 12) (.v 0) (.k 28) (.k 8)) [(12, 0xFFFFFFFD)] && gives s (.bfi h1 .b32 (.v 13) (.v 0) (.v 1) (.v 7)) [(13, 0xDEAD123F)]
     && gives s (.bfi h1 .b32 (.v 14) (.v 0) (.v 1) (.v 8)) [(14, 0x3EADBEEF)] && gives s (.lea h1 .b64 (.v 16) (.v 2) (.v 6) ⟨3, true⟩) [(16, 0xFF0), (17, 0x7F20)]
     && gives s (.lea h1 .b64 (.v 18) (.v 2) (.v 6) ⟨3, false⟩) [(18, 0xFF0), (19, 0x7F28)]) = true := by decide +kernel

/-- Chapter 8, example 1. -/
theorem test_one_value_three_destinations :
    (let s := regs [(0, 0x43FA0000)] 0
     gives s (.fcvt h1 .e4m3 (.v 1) (.v 0)) [(1, 0x7E)] && (after s (.fcvt h1 .e4m3 (.v 1) (.v 0))).flags = 0x14
     && gives s (.fcvt h1 .e5m2 (.v 1) (.v 0)) [(1, 0x60)] && (after s (.fcvt h1 .e5m2 (.v 1) (.v 0))).flags = 0x10
     && gives s (.fcvt h1 .e2m1 (.v 1) (.v 0)) [(1, 7)] && (after s (.fcvt h1 .e2m1 (.v 1) (.v 0))).flags = 0x14) = true := by decide +kernel

/-- Chapter 10, examples 1 and 2. -/
theorem test_packed_and_scaled :
    (let s := regs [(8, 0x3F800000), (9, 0xC0200000), (10, 0x43FA0000), (11, 0x3C300000)] 0
     let i : Instr := .pack { h1 with mods := { z with sat := true } } .e4m3 (.v 20) (.v 8) (.v 10)
     gives s i [(20, 0x067EC238)] && (after s i).flags = 0x1C) = true
    ∧ (let s := regs [(4, 0x453B8000), (5, 0x82), (6, 0x43BB8000), (7, 0x7C), (9, 0x3E000000)] 0
     gives s (.mxscale h1 .e4m3 (.v 5) (.v 4) (.k 0)) [(5, 0x82)] && gives s (.fmul h1 .f32 (.v 6) (.v 4) (.v 9)) [(6, 0x43BB8000)]
     && gives s (.fcvt h1 .e4m3 (.v 6) (.v 6)) [(6, 0x7C)] && gives s (.unpack h1 .e4m3 (.v 20) (.v 7) (.v 5)) [(20, 0x45400000), (21, 0), (22, 0), (23, 0)]) = true := by
  decide +kernel

/-- Chapter 10, example 3: the exact points. -/
theorem test_exact_twiddles :
    (let s := regs [(0, 0x3F000000)] 0
     gives s (.sinpi h1 .f32 (.v 1) (.v 0)) [(1, 0x3F800000)] && gives s (.cospi h1 .f32 (.v 1) (.v 0)) [(1, 0)]
     && (after s (.cospi h1 .f32 (.v 1) (.v 0))).flags = 0) = true := by decide +kernel

/-- Chapter 9, example 3. -/
theorem test_scan_and_reduction :
    (let s := onG (fun g => (List.range 32).foldl (fun g l =>
        (g.setVreg 8 l ⟨BitVec.ofNat 32 (5 * l % 32), false⟩).setVreg 9 l ⟨if l = 0 then 0x4B800000 else 0x3F800000, false⟩) g)
     let g := after s (.lscan { hd with mods := { z with om := true } } .n32 (.v 20) (.v 8) .max)
     [(0, 0), (1, 0), (2, 5), (7, 30), (19, 30), (20, 31), (31, 31)].all (fun x => (g.vreg 20 x.1).v = BitVec.ofNat 32 x.2)
     && ((after s (.lred hd .f32 (.s 6) (.v 9) .add)).sreg 6).v = 0x4B800000) = true := by decide +kernel

/-- Chapter 9, example 1, by its counts: 4 instructions back of the next, for lanes 0 to 7. -/
theorem test_branch :
    (let s := onG (fun g => g.onLanes (List.range 8) (fun l => l.setPred 1 true))
     let g := after s (.bra { hd with guard := ⟨1, false⟩ } 0xFFFFFFFC)
     (g.lane 7).pc = 0x10100 + 12 - 48 && (g.lane 8).pc = 0x10100 + 12) = true := by decide +kernel

/-- R150: sums wrap, and saturate with `.sat`; R151: a shift by the width or more gives 0. -/
theorem test_wrap_saturate_shift :
    (let s := regs [(0, 0x7FFFFFFF), (1, 1)] 0
     gives s (.add h1 .i32 (.v 2) (.v 0) (.v 1)) [(2, 0x80000000)]
     && gives s (.add { h1 with mods := { z with sat := true } } .i32 (.v 2) (.v 0) (.v 1)) [(2, 0x7FFFFFFF)]
     && gives s (.mulhi h1 .i32 (.v 2) (.v 0) (.v 0)) [(2, 0x3FFFFFFF)] && gives s (.shl h1 .b32 (.v 2) (.v 0) (.k 32)) [(2, 0)]) = true := by
  decide +kernel

/-- R3, R197: a store's bytes lie in little-endian order at its address; the 4 KiB page of virtual 0x200 is physical 0x200. -/
theorem test_store :
    (match exec (.st h1 .b32 (.s 4) (.v 8) mm) ((regs [(8, 0x11223344)] 0).onGroup c0 (fun g => g.setSreg 4 ⟨0x200, false⟩)) with
     | .next t => (State.l1WriteBack t 0 4).byteUnder 0 0x200 = 0x44 && (State.l1WriteBack t 0 4).byteUnder 0 0x203 = 0x11
        && (State.l1WriteBack t 0 4).byteUnder 0 0x204 = 0 | _ => false) = true := by decide +kernel

/-- R144: `trap` in lane 0 alone. -/
theorem test_trap :
    (let g := after P1 (.trap h1 5)
     g.trapc = 0x19 && g.trapa = 0x100000005 && g.trappc = 0x10100 && (g.lane 0).pc = 0x10100) = true := by decide +kernel

/-- R220, R221: lanes step one element in ascending order, and each is given the value before its own. -/
theorem test_atomic_order :
    (let s := onG (fun g => (g.onLanes [0, 5] (fun l => l.setPred 0 true)).setSreg 4 ⟨0x200, false⟩)
     let i : Instr := .atomAdd h1 .i32 (.v 2) (.s 4) (.k 3) ⟨0, .normal, .one, .dev, .rlx⟩
     (match exec i s with
      | .next t => t.byteUnder 0 0x200 = 6 && ((t.grp c0).pend.flatMap (fun p => p.elems.map (fun e => e.v))) = [0, 3]
      | _ => false)) = true := by decide +kernel

/-- AES-256 on the key and the block of FIPS 197, C.3 (R203). -/
theorem test_aes_block : aesEnc (aesWords (List.range 32)) ((List.range 16).map (17 * ·)) =
    [0x8E, 0xA2, 0xB7, 0xCA, 0x51, 0x67, 0x45, 0xBF, 0xEA, 0xFC, 0x49, 0x90, 0x4B, 0x49, 0x60, 0x89] := by decide +kernel

/-- A subnormal flushed by FZI compares equal to a zero, and FZ is set (R130). -/
theorem test_fcmp_flushed : fCmp fF16 .eq true 1 0 = (true, fFZ) := by decide +kernel

/-- R102: an iteration that reads a register an outstanding load of an earlier iteration writes waits, one that reads another goes on. -/
theorem test_rep_waits_for_load :
    (let es (g : Group) : List PendElem := [{ dst := .vreg (g.slotOf 0 6) 0, v := 0, tag := false }]
     let s := onG (fun g => { g with rep := some ⟨0, 0, 0, 0, 1⟩, repi := 1, pend := [{ id := 0, load := true, iter := 1, elems := es g }] })
     let waits (n : BitVec 6) : Bool := s.awaitsIteration c0 (s.grp c0) hd [slotD (.v 2) false, slotS .a (.v n) false (.v 2)]
     waits 6 && !waits 7) = true := by decide +kernel

/-- The host reads BOOTSTAT of a part in READY, and all ones where an access is not of 64 aligned bits (Table 21-3, R39). -/
theorem test_bar0_read :
    (let s := { State.reset with plat := { state := 6, fwver := 1 } }
     (s.barRead 0x40000 8).host.response = some ([6, 0, 0, 0, 1, 0, 0, 0], false)
     ∧ (s.barRead 0x40004 8).host.response = some (List.replicate 8 0xFF, false)) := by decide +kernel

end Sys2Proof.Tests
end

/-! The statements of the family `00_scope.md`: a register write by the host or the supervisor (O36), and the frame of the instructions
that only give a result (O59). -/

namespace Sys2Proof.Proofs
open Sys2Proof Sys2Proof.Machine Sys2Proof.Laws

/-! ### Register writes where their block answers (R39, R427, R430, R443, R454) -/

/-- In READY the blocks of the host interface answer (R443 step 6). -/
theorem byHost_ready {s : State} (hs : s.plat.state = 6) (f : State → State) : s.byHost f = .next (f s) := by
  simp [State.byHost, State.hostReady, hs]

/-- The platform block answers once a boot has run (R444). -/
theorem platformThere_booted {s : State} (hs : s.plat.state ≠ 0) : s.platformThere = true := by
  simpa [State.platformThere] using hs

theorem berrWrite_exists (s : State) {r i : Nat} (hr : r < Config.rootCores) (hi : i < 64) (v : W64) :
    exec (.berrWrite r i v) s = .next (s.controlStore (0x8000 + r) (0x1000 + 8 * i) v) := by
  simp [exec, execBerrWrite, hr, hi]

theorem rateWrite_booted {s : State} (hs : s.plat.state ≠ 0) {i : Nat} {v : W64} (hv : rateOk i v.toNat = true) :
    exec (.rateWrite i v) s =
      .next { s with plat := { s.plat with rates := modifyAt s.plat.rates i (fun _ => v.toNat) } } := by
  simp [exec, execRateWrite, platformThere_booted hs, State.rate, hv]

theorem qctlWrite_ready {s : State} (hs : s.plat.state = 6) {q : Nat} (hq : q < 64) (v : W64) :
    exec (.qctlWrite q v) s = .next (s.queueStore (64 * q + 0x10) v) := by
  simp [exec, execQctlWrite, byHost_ready hs, hq]

theorem qpiDoorbell_ready {s : State} (hs : s.plat.state = 6) {q : Nat} (hq : q < 64) (v : W64) :
    exec (.qpiDoorbell q v) s = .next (s.queueStore (64 * q + 0x18) v) := by
  simp [exec, execQpiDoorbell, byHost_ready hs, hq]

theorem partitionWrite_ready {s : State} (hs : s.plat.state = 6) {p off : Nat} (hp : p < 16) (ho : off ≤ 0x38)
    (ha : off % 8 = 0) (v : W64) : exec (.partitionWrite p off v) s = .next (s.partStore p off v) := by
  simp [exec, execPartitionWrite, byHost_ready hs, State.partWrite, hp, ho, ha]

theorem hbeat_ready {s : State} (hs : s.plat.state = 6) (v : W64) :
    exec (.hbeat v) s = .next { s with host := { s.host with hbeat := v, hbeatAt := s.now } } :=
  byHost_ready hs (fun s => s.heartbeat v)

/-- With the ring disabled, FCCTL takes EN and a LOGN of 4 to 12 (Table 20-1). -/
theorem fcctlWrite_disabled {s : State} (hs : s.plat.state = 6) {v : W64} (hd : s.host.fcen = false)
    (hlo : 4 ≤ field v.toNat 8 4) (hhi : field v.toNat 8 4 ≤ 12) :
    exec (.fcctlWrite v) s = .next { s with host := { s.host with fcen := v.getLsbD 0, fclogn := field v.toNat 8 4 } } := by
  have hn : ¬(field v.toNat 8 4 < 4 ∨ 12 < field v.toNat 8 4) := by omega
  simp [exec, execFcctlWrite, byHost_ready hs, State.fcctl, hd, hn]

/-- With no cancellation in progress, a live launch is cancelled (R426). -/
theorem lcancel_live {s : State} (hs : s.plat.state = 6) {v : W64} (hfree : (s.host.cancelling.bind s.launch?).isSome = false)
    (hlive : (s.launch? (field v.toNat 0 32)).isSome = true) :
    let t := (s.killLaunch (field v.toNat 0 32) 0xFE).trimHeld
    exec (.lcancel v) s = .next { t with host := { t.host with cancelling := some (field v.toNat 0 32), lcstat := 0 } } := by
  obtain ⟨l, hl⟩ := Option.isSome_iff_exists.mp hlive
  simp [exec, execLcancel, byHost_ready hs, hfree, hl]

/-- A record that awaits its answer is answered, and waits no longer (R409, R428). -/
theorem fresp_asked {s : State} (hs : s.plat.state = 6) {v : W64} {c : Ctx}
    (hc : s.host.asked.find? (fun x => x.1 = v.setWidth 32) = some (v.setWidth 32, c))
    (ha : field v.toNat 32 2 = 1 ∨ field v.toNat 32 2 = 2) :
    exec (.fresp v) s = .next (({ s with host := { s.host with
      asked := s.host.asked.filter (fun y => y.1 != v.setWidth 32) } } : State).answerFault c (field v.toNat 32 2 = 1)) := by
  simp [exec, execFresp, byHost_ready hs, hc, ha]

/-- A request of the operation that its register write stands for is taken (R430). -/
theorem request_op {s : State} (hs : s.plat.state = 6) {v : W64} {op : Nat}
    (ho : s.requestOp (v &&& 0x000FFFFFFFFFFFC0).toNat = op) : s.request op v = .next (s.svreqWrite v) := by
  rw [State.request, byHost_ready hs]
  simp only [ho, bne_self_eq_false, Bool.and_false, Bool.false_eq_true, if_false]

/-- Settles O36: each register's own lemma above, where its block answers. -/
theorem registerWritesComplete : Obligations.RegisterWritesComplete := by
  intro s v
  refine ⟨rfl, fun r i hr hi => berrWrite_exists s hr hi v, fun adr => ⟨rfl, rfl⟩,
    fun hs i _ hv => rateWrite_booted hs hv, fun hs => ⟨?queues, ?partitions, hbeat_ready hs v,
      fun hd hlo hhi => fcctlWrite_disabled hs hd hlo hhi, fun hfree hlive => lcancel_live hs hfree hlive, ?answers,
      fun _ => ⟨request_op hs, request_op hs, request_op hs⟩⟩⟩
  case queues => exact fun q hq => ⟨qctlWrite_ready hs hq v, qpiDoorbell_ready hs hq v⟩
  case partitions => exact fun p off hp ho ha => partitionWrite_ready hs hp ho ha v
  case answers =>
    rintro c hc a rfl ha
    exact fresp_asked hs hc ha

/-! ### A `rep` whose REPI is past its count -/

/-- The step of one register of D that a `rep` of count 1 gives its word. -/
def stepsD : RepMod := { cstep := 0, bstep := 0, astep := 0, dstep := 1, cntm := 0 }

/-- A group of one lane with a window of 112 slots, at REPI = 1 under a `rep` of count 1: what `rep` leaves when a trap of
iteration 1 has returned to it and its word now counts 1 (R104, `execRep`). -/
def pastCountGroup : Group := { win := 2, lanes := [{}], scal := [(0, { v := 0x38383838 })], repi := 1, rep := some stepsD }

/-- That group, alone in the part and chosen to issue. -/
def pastCount : State := { State.reset with
  sel := some (.grp 0 0), blocks := [{ bid := 0, lid := 0, unit := 0, groups := [pastCountGroup] }] }

/-- `unpack.e4m3 v60, s0, 127`: four registers from v60, from v61 in iteration 1. -/
def unpackV60 : Instr :=
  .unpack (headOf ⟨false, .rn, false, false, false⟩) .e4m3 (.v 60) (.s 0) (.k 127)

/-- The checks of R103 are made for the iterations below the count alone, so the run of iteration 1 is not refused; it passes v63 and
goes on at v0. -/
theorem unpackV60_writes_v0 : ∃ t, exec unpackV60 pastCount = .next t ∧ (t.grp (.grp 0 0)).hold = .none
    ∧ (t.grp (.grp 0 0)).elemAt 0 0 ≠ (pastCount.grp (.grp 0 0)).elemAt 0 0 := by
  obtain ⟨t, ht⟩ : ∃ t, exec unpackV60 pastCount = .next t := by
    rw [unpackV60, exec, execUnpack]
    exact issue_next (c := .grp 0 0) rfl rfl _ _ _ _
  have hrun : (match exec unpackV60 pastCount with
      | .next t => decide ((t.grp (.grp 0 0)).hold = .none
          ∧ (t.grp (.grp 0 0)).elemAt 0 0 ≠ (pastCount.grp (.grp 0 0)).elemAt 0 0)
      | _ => false) = true := by decide +kernel
  rw [ht] at hrun
  exact ⟨t, ht, of_decide_eq_true hrun⟩

/-- None of the four registers from v61 on is in slot 0 of the window. -/
theorem slotOf_v61_ne_zero {q : Nat} (hq : q < 4) : pastCountGroup.slotOf 0 (61 + q) ≠ 0 := by
  simp only [Group.slotOf, Group.cap, pastCountGroup]
  omega

/-- Refutes O59: at REPI = 1 under a `rep` of count 1, `unpack` from v60 has its run in v61, v62, v63 and v0, and v0 is not one of the
four registers from v61 on that D spans. -/
theorem not_resultsKeepTheRest : ¬ Obligations.ResultsKeepTheRest := by
  intro hframe
  obtain ⟨t, ht, hhold, hv0⟩ := unpackV60_writes_v0
  obtain ⟨-, -, -, -, -, -, -, helems, -⟩ :=
    hframe pastCount t 0 0 unpackV60 _ (.v 60) 4 rfl rfl rfl rfl ht hhold
  obtain ⟨m, l, q, hm, -, hq, hslot⟩ := helems 0 0 hv0
  obtain rfl : 61 = m := Operand.v.inj (hm : Operand.v 61 = .v m)
  obtain rfl : l = 0 := by omega
  have hslot0 : 32 * 0 + 0 = 32 * pastCountGroup.slotOf 0 (61 + q) + 0 := hslot
  exact slotOf_v61_ne_zero hq (by omega)

end Sys2Proof.Proofs

/-! The statements of the family `01_package.md`: power states, thermal samples, monitors and links (O43), and the rules of MEMCNT, QCTL
and the doorbell (O56). -/

namespace Sys2Proof.Proofs
open Sys2Proof Sys2Proof.Machine Sys2Proof.Laws

/-! ### Power states (R358, R447) -/

theorem coreClockGate_idle {s : State} {u : Nat} (hu : u < Config.cores) (hd : s.unitDead u = false)
    (hq : (s.proc u).supQuiet = true) (hp : (s.proc u).power = .c0) (hi : (s.proc u).idleSince + 1905 ≤ s.now)
    (ha : s.allHeld u = true) :
    exec (.coreClockGate u) s = .next (s.onProc u (fun p => { p with power := .c1 })) := by
  simp [exec, execCoreClockGate, hu, hd, hq, hp, hi, ha]

/-- A core that no valid partition holds waits for no idle time before C2 (R447). -/
theorem corePowerGate_idle {s : State} {u : Nat} (hu : u < Config.cores) (hd : s.unitDead u = false)
    (hq : (s.proc u).supQuiet = true) (hp : (s.proc u).power ≠ .c2) (hb : s.blocksOn u = [])
    (hi : s.parts.any (fun x => x.2.valid && x.2.has u) = true → (s.proc u).idleSince + 100000 ≤ s.now) :
    exec (.corePowerGate u) s = .next { (s.l1Clean u).onProc u (fun p => p.gated (s.l1Clean u).fresh) with
      fresh := (s.l1Clean u).fresh + 1 + 2 * (s.proc u).counters.length } := by
  have halone : (!s.parts.any (fun x => x.2.valid && x.2.has u)
      || decide ((s.proc u).idleSince + 100000 ≤ s.now)) = true := by
    rw [Bool.or_eq_true, Bool.not_eq_true', decide_eq_true_iff]
    exact (Bool.eq_false_or_eq_true _).symm.imp_right hi
  simp only [exec, execCorePowerGate, hu, hd, hq, hb, halone, bne_iff_ne.mpr hp, decide_true, List.isEmpty_nil,
    Bool.not_false, Bool.and_self, if_true]

theorem coreWake_gated {s : State} {u : Nat} (hd : s.unitDead u = false) (hp : (s.proc u).power ≠ .c0) :
    exec (.coreWake u) s =
      .next (s.onProc u (fun p => { p with power := .c0, idleSince := s.now, still := [] })) := by
  simp [exec, execCoreWake, State.wakeCore, hd, hp]

/-! ### Thermal samples (R448) -/

theorem thermalSample_hot (s : State) (die : Nat) {deg : Nat} (hlo : 100 < deg) (hhi : deg < 110) :
    exec (.thermalSample die deg) s = .next (s.countTherm die) := by
  simp [exec, execThermalSample, hlo, Nat.not_le.mpr hhi]

theorem thermalSample_fatal (s : State) {die deg : Nat} (hdeg : 110 ≤ deg) (hdie : die < 4) :
    exec (.thermalSample die deg) s = .next ((s.countTherm die).declareDead (.crownDie die)) := by
  have hhot : 100 < deg := by omega
  simp [exec, execThermalSample, hhot, hdeg, hdie]

/-- A die counts where it has not counted in the 1,000 ns before (R448). -/
theorem countTherm_due {s : State} {die : Nat} (hdue : Cells.find s.plat.thermAt die = none
      ∨ ∃ at_, Cells.find s.plat.thermAt die = some at_ ∧ at_ + 1000 ≤ s.now) :
    s.countTherm die = State.countTherm.count die s := by
  obtain hnone | ⟨at_, hsome, hpast⟩ := hdue
  · simp only [State.countTherm, hnone]
  · simp only [State.countTherm, hsome, Nat.not_lt.mpr hpast, if_false]

/-! ### Monitors and timeouts (R431, R440) -/

theorem heartbeatMissed_core {s : State} {n : Nat} (hn : s.coreEnabled n = true) :
    exec (.heartbeatMissed (.core n)) s = .next (s.declareDead (.core n)) := by
  simp [exec, execHeartbeatMissed, hn]

theorem heartbeatMissed_rootDie (s : State) {st : Nat} (hst : st < 16) :
    exec (.heartbeatMissed (.rootDie st)) s = .next (s.declareDead (.rootDie st)) := by
  simp [exec, execHeartbeatMissed, hst]

theorem hostWatchdogTimeout_expired {s : State} (hset : s.host.hbto ≠ 0)
    (hpast : s.host.hbeatAt + 1000 * s.host.hbto.toNat ≤ s.now) :
    exec .hostWatchdogTimeout s = .next (s.declareDead .host) := by
  have hnat : s.host.hbto.toNat ≠ 0 := fun h => hset (BitVec.eq_of_toNat_eq h)
  simp [exec, execHostWatchdogTimeout, hnat, hpast]

theorem completionTimeout_outer (s : State) {a : Agent} (ha : outerAgent a = true) :
    exec (.completionTimeout a) s = .next (s.declareDead a) := by
  simp [exec, execCompletionTimeout, ha]

theorem linkDown_outer (s : State) {a : Agent} (ha : outerAgent a = true) :
    exec (.linkDown a) s = .next (s.declareDead a) := by
  simp [exec, execLinkDown, ha]

theorem pathLossTimeout_crownDie (s : State) {d : Nat} (hd : d < 4) :
    exec (.pathLossTimeout (.crownDie d)) s = .next (s.declareDead (.crownDie d)) := by
  simp [exec, execPathLossTimeout, hd]

theorem pathLossTimeout_peer {s : State} {p : Nat} (hp : p < 1024) (hroute : s.routePorts p = []) :
    exec (.pathLossTimeout (.peer p)) s = .next (s.declareDead (.peer p)) := by
  simp [exec, execPathLossTimeout, hp, hroute]

theorem peerRequestTimeout_peer (s : State) {p : Nat} (hp : p < 1024) :
    exec (.peerRequestTimeout p) s = .next (s.declareDead (.peer p)) := by
  simp [exec, execPeerRequestTimeout, hp]

/-! ### Links (R21, R431, R435, R440) -/

theorem dieLinkFence_new {s : State} {x y : Nat} (hx : x < 4) (hy : y < 4) (hxy : x ≠ y)
    (hnew : s.dlink.contains (min x y, max x y) = false) :
    exec (.dieLinkFence x y) s = .next { s with dlink := s.dlink ++ [(min x y, max x y)] } := by
  simp only [exec, execDieLinkFence, hx, hy, bne_iff_ne.mpr hxy, hnew, decide_true, Bool.not_false, Bool.and_self, if_true]

theorem routePortDown_port (s : State) {port : Nat} (hp : port < 18) (up : Bool) :
    exec (.routePortDown port up) s = .next { s with
      ulDown := if up then s.ulDown.filter (· != port) else NatSet.insert s.ulDown port } := by
  simp only [exec, execRoutePortDown, hp, if_true]

theorem hostLinkTraining_ok (s : State) {mode : PortMode} {lanes rate : Nat} (hok : linkOk mode lanes rate = true) :
    let t := (s.hostLines.map (·.1)).foldl State.evictHost s
    exec (.hostLinkTraining mode lanes rate) s = .next { t with port := mode, host := { t.host with lanes, rate } } := by
  simp only [exec, execHostLinkTraining, hok, if_true]

theorem cxlExpanderAttach_early {s : State} {port gib : Nat} (hp : port < 4) (hg : gib ≤ 1024)
    (hw : s.cxlgWritten = false) :
    exec (.cxlExpanderAttach port gib) s = .next { s with cxlGib := Cells.put 0 s.cxlGib port gib } := by
  simp [exec, execCxlExpanderAttach, hp, hg, hw]

/-- Settles O43: each event's own lemma above, under the conditions that let it take effect. -/
theorem powerAndLinkStepsComplete : Obligations.PowerAndLinkStepsComplete := by
  intro s
  refine ⟨?gating, fun u => coreWake_gated, fun die deg => thermalSample_hot s die,
    fun die deg => thermalSample_fatal s, fun die hdue => countTherm_due hdue, fun n => heartbeatMissed_core,
    fun st => heartbeatMissed_rootDie s, hostWatchdogTimeout_expired,
    fun a ha => ⟨completionTimeout_outer s ha, linkDown_outer s ha⟩, fun d => pathLossTimeout_crownDie s,
    fun p hp => ⟨peerRequestTimeout_peer s hp, pathLossTimeout_peer hp⟩, fun x y => dieLinkFence_new,
    fun port hp => ⟨routePortDown_port s hp true, routePortDown_port s hp false⟩,
    fun mode lanes rate => hostLinkTraining_ok s, fun port gib => cxlExpanderAttach_early⟩
  case gating =>
    exact fun u hu hd hq => ⟨coreClockGate_idle hu hd hq, corePowerGate_idle hu hd hq⟩

/-! ### MEMCNT (R21) -/

theorem memcntWrite_first {s : State} (hw : s.cxlgWritten = false) (v : W64) :
    exec (.memcntWrite v) s = .next { s with cxlg := field v.toNat 32 16, cxlgWritten := true } := by
  simp [exec, execMemcntWrite, State.memcntStore, hw]

theorem memcntWrite_later {s : State} (hw : s.cxlgWritten = true) (v : W64) : exec (.memcntWrite v) s = .next s := by
  simp [exec, execMemcntWrite, State.memcntStore, hw]

/-- The host's registers that can be written begin above the configuration block (R39). -/
theorem registerWrite_host_config (s : State) {adr : Nat} (hadr : adr < 0x1000) (v : W64) :
    exec (.registerWrite true adr v) s = .next s := by
  have hplat : ¬(0x40000 ≤ adr ∧ adr < 0x44000) := by omega
  have hqueues : ¬(0x10000 ≤ adr ∧ adr < 0x11000) := by omega
  have hhost : ¬(0x30000 ≤ adr ∧ adr < 0x34000) := by omega
  simp [exec, execRegisterWrite, State.bar0, hplat, hqueues, hhost]

/-- Until CXLG is written the range of the expanders is backed by none (R21). -/
theorem spot_cxl_unwritten {s : State} (hw : s.cxlgWritten = false) {pa : Nat} (hlo : 2 ^ 43 ≤ pa)
    (hhi : pa < 2 ^ 43 + 2 ^ 42) : s.spot pa = .unbacked := by
  have hhbm : ¬ pa < 2 ^ 40 := by omega
  have hgap : ¬ pa < 2 ^ 42 := by omega
  have hlpddr : ¬ pa < 2 ^ 42 + 2 ^ 41 := by omega
  have hbelow : ¬ pa < 2 ^ 43 := by omega
  simp only [State.spot, hhbm, hgap, hlpddr, hbelow, hhi, hw, if_false, if_true, Bool.false_and, Bool.false_eq_true]

/-! ### A launch queue's registers (R40) -/

theorem write_qctl_enabled {x : HQueue} (hen : x.en = true) (v : W64) :
    x.write 0x10 v = { x with pause := v.getLsbD 1, en := v.getLsbD 0 } := by
  simp [HQueue.write, HQueue.control, hen]

theorem write_qctl_badLogn {x : HQueue} (hen : x.en = false) {v : W64}
    (hn : field v.toNat 8 4 < 4 ∨ 14 < field v.toNat 8 4) : x.write 0x10 v = x := by
  simp [HQueue.write, HQueue.control, hen, hn]

theorem write_qctl_disabled {x : HQueue} (hen : x.en = false) {v : W64} (hlo : 4 ≤ field v.toNat 8 4)
    (hhi : field v.toNat 8 4 ≤ 14) :
    x.write 0x10 v = if v.getLsbD 0 then { x with pause := v.getLsbD 1, en := true, logn := field v.toNat 8 4, qci := x.qpi, qerr := 0 }
      else { x with pause := v.getLsbD 1, logn := field v.toNat 8 4 } := by
  have hn : ¬(field v.toNat 8 4 < 4 ∨ 14 < field v.toNat 8 4) := by omega
  simp only [HQueue.write, HQueue.control, hen, Bool.or_eq_true, decide_eq_true_iff, hn, Bool.false_eq_true, if_false]
  cases v.getLsbD 0 <;> rfl

theorem write_qpi_overflow {x : HQueue} {v : W64} (hover : 2 ^ x.logn < (v.setWidth 32 - x.qci).toNat) :
    x.write 0x18 v = { x with qpi := v.setWidth 32, qerr := x.qerr ||| 0x100, en := false } := by
  simp only [HQueue.write, HQueue.doorbell, HQueue.pending, hover, if_true]

theorem write_qpi_fits {x : HQueue} {v : W64} (hfits : (v.setWidth 32 - x.qci).toNat ≤ 2 ^ x.logn) :
    x.write 0x18 v = { x with qpi := v.setWidth 32 } := by
  simp only [HQueue.write, HQueue.doorbell, HQueue.pending, Nat.not_lt.mpr hfits, if_false]

/-- While EN is 1, QBASE, QRES and QPTR keep their values (R40). -/
theorem write_base_enabled {x : HQueue} (hen : x.en = true) (v : W64) :
    x.write 0x00 v = x ∧ x.write 0x08 v = x ∧ x.write 0x30 v = x := by
  simp [HQueue.write, hen]

/-- Settles O56: the lemmas above on MEMCNT and on each write to a queue's block. -/
theorem queueAndMemcntRules : Obligations.QueueAndMemcntRules := by
  refine ⟨fun s v => ⟨fun hw => memcntWrite_first hw v, fun hw => memcntWrite_later hw v,
    fun adr hadr => registerWrite_host_config s hadr v, fun hw pa => spot_cxl_unwritten hw⟩,
    fun x v => ⟨?enabled, fun hen hn => write_qctl_badLogn hen hn, fun hen hlo hhi => write_qctl_disabled hen hlo hhi,
      write_qpi_overflow, write_qpi_fits⟩⟩
  case enabled =>
    intro hen
    obtain ⟨hbase, hres, hptr⟩ := write_base_enabled hen v
    exact ⟨hbase, hres, hptr, write_qctl_enabled hen v⟩

end Sys2Proof.Proofs

/-! The statements of the family `02_describing_work.md`: the decisions of the arbiter, the scheduler and the stage sampler,
pre-emption and restore, and the ends of a block and of a launch (O39). -/

namespace Sys2Proof.Proofs
open Sys2Proof Sys2Proof.Machine Sys2Proof.Laws

/-! ### What each step runs -/

theorem exec_arbiterDecision (s : State) :
    exec .arbiterDecision s = execArbiterDecision s := rfl

theorem exec_preemptCluster (lid st cidx : Nat) (s : State) :
    exec (.preemptCluster lid st cidx) s = execPreemptCluster lid st cidx s := rfl

theorem exec_contextRestore (lid stg cidx : Nat) (s : State) :
    exec (.contextRestore lid stg cidx) s = execContextRestore lid stg cidx s := rfl

theorem exec_starvationTimeout (lid : Nat) (s : State) :
    exec (.starvationTimeout lid) s = execStarvationTimeout lid s := rfl

theorem exec_stageSample (s : State) :
    exec .stageSample s = execStageSample s := rfl

theorem exec_blockExitComplete (bid : Nat) (s : State) :
    exec (.blockExitComplete bid) s = execBlockExitComplete bid s := rfl

theorem exec_launchRetire (lid : Nat) (s : State) :
    exec (.launchRetire lid) s = execLaunchRetire lid s := rfl

/-! ### The arbiter (R27, R43, R44) -/

theorem arbiterDecision_takes {s : State} {level src : Nat} (hroom : s.launches.length < 1024)
    (hlevel : (List.range 4).find? (fun l => !(s.candidates l).isEmpty) = some level)
    (hsrc : ((s.candidates level).find? (fun i => takeAt 16 s.arb.last level < i)).orElse
      (fun _ => (s.candidates level).head?) = some src) :
    let t := { s with arb := { s.arb with last := modifyAt s.arb.last level (fun _ => src) } }
    exec .arbiterDecision s = .next (if src = 16 then t.takeFifo level else t.takeQueue (16 * level + src)) := by
  simp only [exec_arbiterDecision, execArbiterDecision, Nat.not_le.mpr hroom, if_false, hlevel, hsrc, Option.getD_some]

/-! ### Pre-emption (R48, R55, R412) -/

/-- A victim is wanted where one next cluster, of whatever launch and stage, does not fit and has it as its first victim that
can be saved. -/
theorem preemptCluster_wanted {s t : State} {lid st cidx : Nat} {l : Launch} {stg : Nat} {n : NextUp}
    (hl : l ∈ s.launchOrder) (hstg : stg < l.stageCount) (hnext : s.nextUp l stg = some n)
    (hfirst : (s.victimsFor l n).find? (fun v => (s.saveCluster v.1 v.2.1 v.2.2 false).isSome) = some (lid, st, cidx))
    (hfull : s.coresFor s.blocks l stg (s.blocksFor l stg n) = none) (hfits : (s.preemptFor l stg n).2 = true)
    (hsave : s.saveCluster lid st cidx false = some t) :
    exec (.preemptCluster lid st cidx) s = .next t.trimHeld := by
  simp only [exec_preemptCluster, execPreemptCluster, hsave, Option.getD_some]
  refine congrArg Host.Outcome.next (if_pos ?wanted)
  case wanted =>
    refine List.any_eq_true.mpr ⟨l, hl, List.any_eq_true.mpr ⟨stg, List.mem_range.mpr hstg, ?_⟩⟩
    simp only [hnext, hfirst, hfull, hfits, decide_true, Option.isNone_none, Bool.and_self]

/-! ### Restore (R46, R47, R413) -/

theorem contextRestore_next {s t : State} {lid stg cidx : Nat} {l : Launch} (hl : s.launch? lid = some l)
    (hnext : s.nextUp l stg = some (.restore cidx)) (hturn : s.outranked lid stg = false)
    (hfits : (((s.examine l stg cidx).countFrag lid stg cidx
      ((s.examine l stg cidx).imagesOf lid stg cidx).length).restoreCluster l stg cidx) = some t) :
    exec (.contextRestore lid stg cidx) s = .next (t.fed l.lid stg) := by
  simp only [exec_contextRestore, execContextRestore, hl, hnext, hturn, State.tryPlace, hfits, decide_true, Bool.not_false,
    Bool.and_self, if_true, Option.map_some, Option.getD_some]

/-! ### Starvation (R47) -/

theorem mem_natSet_insert {ns : List Nat} {n k : Nat} : k ∈ NatSet.insert ns n ↔ k = n ∨ k ∈ ns := by
  induction ns with
  | nil => simp [NatSet.insert]
  | cons m r ih =>
    unfold NatSet.insert
    split
    · exact List.mem_cons
    split
    case isTrue heq => simp [heq]
    case isFalse => simp [ih, or_left_comm]

theorem mem_natSet_insertAll {ns ms : List Nat} {k : Nat} : k ∈ NatSet.insertAll ns ms ↔ k ∈ ns ∨ k ∈ ms := by
  induction ms generalizing ns with
  | nil => simp [NatSet.insertAll]
  | cons m r ih =>
    calc k ∈ NatSet.insertAll (NatSet.insert ns m) r
      _ ↔ k ∈ NatSet.insert ns m ∨ k ∈ r := ih
      _ ↔ k ∈ ns ∨ k ∈ m :: r := by rw [mem_natSet_insert, List.mem_cons, or_comm (a := k = m), or_assoc]

/-- What is found under a key stands in the table with it. -/
theorem mem_of_cellsFind {α : Type} {m : Cells α} {a : Nat} {v : α} (h : Cells.find m a = some v) : (a, v) ∈ m := by
  induction m with
  | nil => cases h
  | cons x r ih =>
    obtain ⟨k, w⟩ := x
    unfold Cells.find at h
    split at h
    case isTrue hk => rw [hk, Option.some.inj h]; exact List.mem_cons_self
    case isFalse => exact List.mem_cons_of_mem _ (ih h)

/-- A launch changed is found again, changed, where the change keeps its identifier. -/
theorem launch?_onLaunch_same (s : State) (lid : Nat) {f : Launch → Launch} (hf : ∀ l, (f l).lid = l.lid) :
    (s.onLaunch lid f).launch? lid = (s.launch? lid).map f := by
  have hkey : (fun l : Launch => decide (l.lid = lid)) ∘ (fun l => if l.lid = lid then f l else l)
      = fun l => decide (l.lid = lid) := by
    funext l
    by_cases hl : l.lid = lid <;> simp [hl, hf]
  simp only [State.launch?, onLaunch_launches, List.find?_map, hkey]
  cases hfind : s.launches.find? (fun l => decide (l.lid = lid)) with
  | none => rfl
  | some l =>
    have hl : l.lid = lid := by simpa using List.find?_some hfind
    simp [hl]

theorem starvationTimeout_starves {s : State} {lid stg at_ : Nat} {l : Launch} (hl : s.launch? lid = some l)
    (hwait : Cells.find l.waits stg = some at_) (hpast : at_ + 100000 ≤ s.now) :
    ∃ u, exec (.starvationTimeout lid) s = .next u
      ∧ (u.launch? lid).map (fun l => l.starved.contains stg) = some true := by
  have hlate : stg ∈ (l.waits.filter (fun w => w.2 + 100000 ≤ s.now)).map (·.1) :=
    List.mem_map.mpr ⟨(stg, at_), List.mem_filter.mpr ⟨mem_of_cellsFind hwait, decide_eq_true hpast⟩, rfl⟩
  refine ⟨_, rfl, ?_⟩
  rw [launch?_onLaunch_same, hl, Option.map_some, Option.map_some]
  case hf => exact fun _ => rfl
  exact congrArg some (List.contains_iff_mem.mpr (mem_natSet_insertAll.mpr (.inr hlate)))

/-! ### The stage sampler (R59) -/

theorem stageSample_due {s : State} (htime : s.now % 4000 = 0) (hnew : s.sampledAt ≠ s.now) :
    exec .stageSample s = .next (((s.launches.filter (fun l => !l.stages.isEmpty)).map (·.lid)).foldl State.sampleLaunch
      { s with sampledAt := s.now }) := by
  simp [exec_stageSample, execStageSample, htime, hnew]

/-! ### The end of a block and of a launch (R424, R425) -/

theorem blockExitComplete_ready {s : State} {bid : Nat} {b : Block} (hb : s.block? bid = some b)
    (hcore : isRoot b.unit = false) (hready : s.exitReady b = true) :
    exec (.blockExitComplete bid) s = .next (s.exitBlock b) := by
  simp [exec_blockExitComplete, execBlockExitComplete, hb, hcore, hready]

theorem launchRetire_over {s : State} {lid : Nat} {l : Launch} (hl : s.launch? lid = some l)
    (hover : s.launchOver l = true) : exec (.launchRetire lid) s = .next (s.retire lid) := by
  simp [exec_launchRetire, execLaunchRetire, hl, hover]

/-- Settles O39: each step's own lemma above. The decision of the scheduler is by definition what the statement writes out, the order of
R47 in full. -/
theorem schedulingStepsComplete : Obligations.SchedulingStepsComplete := by
  intro s
  exact ⟨fun level src => arbiterDecision_takes, rfl,
    fun lid st cidx l stg n t => preemptCluster_wanted,
    fun lid stg cidx l t hl hnext hturn => contextRestore_next hl hnext hturn,
    fun lid l stg at_ => starvationTimeout_starves, stageSample_due,
    fun bid b => blockExitComplete_ready, fun lid l => launchRetire_over⟩

end Sys2Proof.Proofs

/-! The statements of the family `03_launching_and_scheduling.md`: launches from a group, the trigger and the wait of dependent
launches, and ranges (O31). -/

namespace Sys2Proof.Proofs
open Sys2Proof Sys2Proof.Machine Sys2Proof.Laws

/-! ### What each instruction runs -/

theorem exec_launch (h : Head) (d a : Operand) (s : State) : exec (.launch h d a) s = execLaunch h d a s := rfl

theorem exec_range (h : Head) (d : Operand) (s : State) : exec (.range h d) s = execRange h d s := rfl

theorem exec_ltrig (h : Head) (s : State) : exec (.ltrig h) s = execLtrig h s := rfl

theorem exec_lwait (h : Head) (s : State) : exec (.lwait h) s = execLwait h s := rfl

/-! ### An issue by its effect -/

section
variable {s t : State} {c : Ctx} {h : Head} {row : RowInfo} {slots : List Slot} {body : State → View → Effect}

/-- An instruction that nothing keeps from issuing, whose checks pass, and whose effect is done completes (R86). -/
theorem issue_done (hclear : s.clear c h row slots = true) (heffect : body s (s.view c h slots) = .done t) :
    s.issue h row slots body = .next (s.completed t c h) := by
  rw [issue_clear hclear, heffect, finish_done]
  rfl

/-- An instruction that nothing keeps from issuing, whose checks pass, and which leaves its group held has issued, and its run stays
where it is. -/
theorem issue_held (hclear : s.clear c h row slots = true) (heffect : body s (s.view c h slots) = .held t) :
    s.issue h row slots body = .next (t.issued c h.hints.yld) := by
  rw [issue_clear hclear, heffect, finish_held]

end

/-- One aligned address raises no MISAL (R205). -/
theorem misaligned_aligned {n lane : Nat} {ea : W64} (haligned : ea.toNat % n = 0) : misaligned n [(lane, ea)] = none := by
  simp [misaligned, haligned]

/-! ### The trigger and the wait of dependent launches (R359 to R361) -/

/-- On a core, a group's first `ltrig` with its accesses performed marks the group, and tests its launch's trigger (R360). -/
theorem ltrig_marks {s : State} {bid k : Nat} {h : Head} (hclear : s.clear (.grp bid k) h { parks := true } [] = true)
    (hcore : s.onRoot (.grp bid k) = false) (hfirst : (s.grp (.grp bid k)).ltrig = false)
    (hperformed : s.unperformed (.grp bid k) = false) :
    exec (.ltrig h) s = .next (s.completed
      (((s.release (.grp bid k) .dev).onGroup (.grp bid k) (fun g => { g with ltrig := true })).testTrig bid)
      (.grp bid k) h) := by
  have heffective : ¬ (s.onRoot (.grp bid k) || (s.grp (.grp bid k)).ltrig) = true := by
    simp [hcore, hfirst]
  rw [exec_ltrig, execLtrig]
  exact issue_done hclear ((if_neg heffective).trans (if_neg (Bool.eq_false_iff.mp hperformed)))

section
variable {s : State} {c : Ctx} {h : Head} {ps : List ProdSt}

/-- With every producer triggered or over, `lwait` acquires, reports them in HSTAT and moves on (R361). -/
theorem lwait_passes (hclear : s.clear c h { parks := true } [] = true)
    (hprods : ((s.launch? (s.blockOf c).lid).map (fun l => l.prods)).getD [] = ps)
    (hnone : ps.any (· = .waiting) = false) :
    exec (.lwait h) s = .next (s.completed
      ((s.acquire c .dev).onGroup c (fun g => { g with hstat := prodStat ps })) c h) := by
  subst hprods
  rw [exec_lwait, execLwait]
  exact issue_done hclear (if_neg (Bool.eq_false_iff.mp hnone))

/-- With a producer that has not triggered, `lwait` holds its group (R361). -/
theorem lwait_waits (hclear : s.clear c h { parks := true } [] = true)
    (hprods : ((s.launch? (s.blockOf c).lid).map (fun l => l.prods)).getD [] = ps)
    (hsome : ps.any (· = .waiting) = true) :
    exec (.lwait h) s = .next ((s.onGroup c (fun g => { g.stalled h with hold := .lwait })).issued c h.hints.yld) := by
  subst hprods
  rw [exec_lwait, execLwait]
  exact issue_held hclear (if_pos hsome)

end

/-- Settles O31: each instruction has its own effect once its checks pass. That of `launch` is a FIFO entry where the record can be
read and a place is free, `range` hands out a chunk in every state, and the lemmas above say what `ltrig` and `lwait` do. -/
theorem launchInstructionsComplete : Obligations.LaunchInstructionsComplete := by
  refine ⟨?launch, ?range, ?triggers⟩
  case launch =>
    intro s c h d a sl v va hclear haligned t bs l hrecord hlaunch level hroom es f u
    have hmisal : misaligned 128 [((s.view c h sl).low, s.wide (s.view c h sl) .a)] = none := misaligned_aligned haligned
    have hread : s.recordBytes (s.view c h sl).c (s.wide (s.view c h sl) .a) = (t, some bs) := hrecord
    have hof : t.ctxLaunch? (s.view c h sl).c = some l := hlaunch
    have hplace : ¬ 256 ≤ (takeAt [] t.arb.fifos (min 3 (recordOf (leNat bs)).prio)).length := Nat.not_le.mpr hroom
    rw [exec_launch, execLaunch, issue_done hclear]
    simp only [hmisal, hread, hof, hplace, if_false]
    rfl
  case range =>
    intro s c h d v hclear lid x es
    rw [exec_range, execRange]
    exact issue_done hclear rfl
  case triggers =>
    intro s bid k h hclear
    exact ⟨ltrig_marks hclear, lwait_passes hclear rfl, lwait_waits hclear rfl⟩

end Sys2Proof.Proofs

/-! The statements of the family `04_placement_and_registers.md`: branches, calls and returns (O10), the supervisor's window moves
(O16), predicates (O50), and the traps of windows and of alignment (O55). -/

namespace Sys2Proof.Proofs
open Sys2Proof Sys2Proof.Machine Sys2Proof.Laws

/-! ### What each instruction runs -/

theorem exec_bra (h : Head) (x : BitVec 32) (s : State) : exec (.bra h x) s = execBra h x s := rfl

theorem exec_brx (h : Head) (a : Operand) (s : State) : exec (.brx h a) s = execBrx h a s := rfl

theorem exec_call (h : Head) (x : BitVec 32) (s : State) : exec (.call h x) s = execCall h x s := rfl

theorem exec_callx (h : Head) (a : Operand) (s : State) : exec (.callx h a) s = execCallx h a s := rfl

theorem exec_ret (h : Head) (s : State) : exec (.ret h) s = execRet h s := rfl

theorem exec_wsave (h : Head) (s : State) : exec (.wsave h) s = execWsave h s := rfl

theorem exec_wrest (h : Head) (s : State) : exec (.wrest h) s = execWrest h s := rfl

theorem exec_ld (h : Head) (ty : Ty) (d a : Operand) (m : MemMod) (s : State) : exec (.ld h ty d a m) s = execLd h ty d a m s := rfl

theorem exec_st (h : Head) (ty : Ty) (a b : Operand) (m : MemMod) (s : State) : exec (.st h ty a b m) s = execSt h ty a b m s := rfl

theorem exec_ldsp (h : Head) (ty : Ty) (d a : Operand) (s : State) : exec (.ldsp h ty d a) s = execLdsp h ty d a s := rfl

section
variable {s t : State} {c : Ctx} {h : Head} {row : RowInfo} {slots : List Slot}

/-! ### An issue that jumps, and one that traps -/

/-- An instruction that nothing keeps from issuing, whose checks pass, and which sets its lanes' PCs itself (R86). -/
theorem issue_jumped {body : State → View → Effect} (hclear : s.clear c h row slots = true)
    (heffect : body s (s.view c h slots) = .goto t) : s.issue h row slots body = .next (t.jumped c h) := by
  rw [issue_clear hclear, heffect, finish_goto]

/-- An instruction that nothing keeps from issuing, whose checks of Table 5-1 pass, and which raises a trap of its own. -/
theorem issue_trapped {body : State → View → Effect} {i : TrapInfo} (hclear : s.clear c h row slots = true)
    (heffect : body s (s.view c h slots) = .trap t i) : s.issue h row slots body = .next (t.trap c i) := by
  rw [issue_clear hclear, heffect, finish_trap]

/-! ### Calls and returns (R68, R69, R141, R142) -/

/-- With a window left for every active lane, a call writes its links, goes one window deeper and jumps. -/
theorem call_enters {target : State → View → Nat → W64} (hclear : s.clear c h row slots = true)
    (hroom : ∀ l ∈ s.acts c h, ((s.grp c).lane l).depth + 1 - (s.grp c).rb < (s.grp c).win) :
    s.issue h row slots (fun s v => v.call s (target s v)) = .next
      ((s.onGroup c (fun g => (g.link ((s.grp c).pc + 12) (s.acts c h)).jump (s.acts c h) (s.view c h slots).others
        (target s (s.view c h slots)))).jumped c h) := by
  have hfits : ¬ (s.acts c h).any (fun l => (s.grp c).win ≤ ((s.grp c).lane l).depth + 1 - (s.grp c).rb) = true := by
    simpa using hroom
  exact issue_jumped hclear (if_neg hfits)

/-- A call in which a lane's window would leave the resident ones raises WOVF (R69). -/
theorem call_overflows {target : State → View → Nat → W64} (hclear : s.clear c h row slots = true)
    (hover : ∃ l ∈ s.acts c h, (s.grp c).win ≤ ((s.grp c).lane l).depth + 1 - (s.grp c).rb) :
    s.issue h row slots (fun s v => v.call s (target s v)) = .next (s.trap c { cause := 0x04 }) := by
  have hany : (s.acts c h).any (fun l => (s.grp c).win ≤ ((s.grp c).lane l).depth + 1 - (s.grp c).rb) = true := by
    simpa using hover
  exact issue_trapped hclear (if_pos hany)

/-- Lanes taken one window up, as `ret` takes them. -/
def windowUp (ls : List Nat) (g : Group) : Group := g.onLanes ls (fun y => { y with depth := y.depth - 1 })

/-- The link that a lane finds in registers 46 and 47 of its window. -/
def linkAt (g : Group) (l : Nat) : W64 := (g.vreg 46 l).v.setWidth 64 ||| ((g.vreg 47 l).v.setWidth 64 <<< 32)

/-- A link of which neither half is tagged gives nothing to consume (R405). -/
theorem consumedElem_link {g : Group} {l : Nat} (hlo : (g.vreg 46 l).tag = false) (hhi : (g.vreg 47 l).tag = false) :
    g.consumedElem (.v 46) true l = none := by
  simp [Group.consumedElem, hlo, hhi]

/-- Where no lane underflows and no link found one window up is tagged, `ret` goes there and jumps to the links. -/
theorem ret_returns (hclear : s.clear c h {} [] = true) (hdeep : ∀ l ∈ s.acts c h, (s.grp c).rb < ((s.grp c).lane l).depth)
    (hlinks : ∀ l ∈ s.acts c h, ((windowUp (s.acts c h) (s.grp c)).vreg 46 l).tag = false
      ∧ ((windowUp (s.acts c h) (s.grp c)).vreg 47 l).tag = false) :
    exec (.ret h) s = .next ((s.onGroup c (fun g => (windowUp (s.acts c h) g).jump (s.acts c h) (s.view c h []).others
      (linkAt (windowUp (s.acts c h) (s.grp c))))).jumped c h) := by
  have hfits : ¬ (s.acts c h).any (fun l => ((s.grp c).lane l).depth ≤ (s.grp c).rb) = true := by
    simpa using hdeep
  have hnone : (s.acts c h).filterMap (fun l =>
      ((windowUp (s.acts c h) (s.grp c)).consumedElem (.v 46) true l).map (fun w => (l, w))) = [] := by
    refine List.filterMap_eq_nil_iff.mpr fun l hl => ?_
    obtain ⟨hlo, hhi⟩ := hlinks l hl
    rw [consumedElem_link hlo hhi, Option.map_none]
  simp only [windowUp] at hnone
  rw [exec_ret, execRet]
  refine issue_jumped hclear ((if_neg hfits).trans ?_)
  simp only [State.view, hnone, Group.consumeTrap]
  rfl

/-- A return in which a lane's window would leave the resident ones raises WUNF (R69). -/
theorem ret_underflows (hclear : s.clear c h {} [] = true)
    (hunder : ∃ l ∈ s.acts c h, ((s.grp c).lane l).depth ≤ (s.grp c).rb) :
    exec (.ret h) s = .next (s.trap c { cause := 0x05 }) := by
  have hany : (s.acts c h).any (fun l => ((s.grp c).lane l).depth ≤ (s.grp c).rb) = true := by
    simpa using hunder
  rw [exec_ret, execRet]
  exact issue_trapped hclear (if_pos hany)

end

/-- Settles O10: branches jump in every state; the lemmas above say what a call with a window left and a return to an untagged link do. -/
theorem branchesComplete : Obligations.BranchesComplete := by
  intro s c h
  refine ⟨fun hclear x => ?near, fun a hclear => ?far, fun hclear hdeep => ret_returns hclear hdeep⟩
  case near =>
    rw [exec_bra, execBra, exec_call, execCall]
    exact ⟨issue_jumped hclear rfl, call_enters hclear⟩
  case far =>
    rw [exec_brx, execBrx, exec_callx, execCallx]
    exact ⟨issue_jumped hclear rfl, call_enters hclear⟩

/-! ### Window moves by the supervisor (R70, R423) -/

section
variable {s : State} {u k : Nat} {h : Head} {t : Ctx}

theorem wsave_saves (hclear : s.clear (.sup u k) h { sup := true } [] = true) (htarget : s.svTarget u k = some t)
    (hfree : (s.grp t).pinned = false) (hbacked : s.spot ((s.grp t).frameAt (s.grp t).rb) ≠ .unbacked) :
    exec (.wsave h) s = .next (s.completed (s.saveWindow t (s.grp t)) (.sup u k) h) := by
  rw [exec_wsave, execWsave]
  refine issue_done hclear ?_
  simp only [State.view, htarget]
  exact (if_neg (Bool.eq_false_iff.mp hfree)).trans (if_neg hbacked)

/-- While a live lane lies in the lowest window, `wsave` has no effect (R70). -/
theorem wsave_pinned (hclear : s.clear (.sup u k) h { sup := true } [] = true) (htarget : s.svTarget u k = some t)
    (hpinned : (s.grp t).pinned = true) : exec (.wsave h) s = .next (s.completed s (.sup u k) h) := by
  rw [exec_wsave, execWsave]
  refine issue_done hclear ?_
  simp only [State.view, htarget]
  exact if_pos hpinned

theorem wrest_restores (hclear : s.clear (.sup u k) h { sup := true } [] = true) (htarget : s.svTarget u k = some t)
    (hsaved : (s.grp t).rb ≠ 0) :
    exec (.wrest h) s = .next (s.completed (s.restWindow t (s.grp t)) (.sup u k) h) := by
  rw [exec_wrest, execWrest]
  refine issue_done hclear ?_
  simp only [State.view, htarget]
  exact congrArg Effect.done (if_neg hsaved)

end

/-- Settles O16: each move's own lemma above, for the group that SVGRP names. -/
theorem windowMovesComplete : Obligations.WindowMovesComplete := by
  intro s u k h t hclear htarget
  exact ⟨wsave_saves hclear htarget, wsave_pinned hclear htarget, wrest_restores hclear htarget⟩

/-! ### Predicates (R72) -/

theorem pred_seven (x : Lane) : x.pred 7 = true := rfl

/-- The predicates below p7 are a lane's own bits. -/
theorem pred_bit (x : Lane) {n : BitVec 3} (hn : n ≠ 7) : x.pred n = x.preds.getLsbD n.toNat := if_neg hn

/-- The depth of a lane's window does not bear on its predicates. -/
theorem pred_depth (x : Lane) (d : Nat) (n : BitVec 3) : Lane.pred { x with depth := d } n = x.pred n := rfl

theorem setPred_seven (x : Lane) (b : Bool) : x.setPred 7 b = x := rfl

/-- A write below p7 sets or clears one bit. -/
theorem setPred_preds (x : Lane) {n : BitVec 3} (hn : n ≠ 7) (b : Bool) : (x.setPred n b).preds =
    if b then x.preds ||| ((1 : BitVec 7) <<< n.toNat) else x.preds &&& ~~~((1 : BitVec 7) <<< n.toNat) := by
  rw [Lane.setPred, if_neg hn]

/-- The number of a predicate below p7 is that of a bit a lane has. -/
theorem toNat_lt_seven {n : BitVec 3} (hn : n ≠ 7) : n.toNat < 7 := by
  have hne : n.toNat ≠ 7 := fun h => hn (BitVec.eq_of_toNat_eq h)
  have hlt : n.toNat < 8 := n.isLt
  omega

theorem pred_setPred_same (x : Lane) {n : BitVec 3} (hn : n ≠ 7) (b : Bool) : (x.setPred n b).pred n = b := by
  rw [pred_bit _ hn, setPred_preds x hn]
  cases b <;> simp [toNat_lt_seven hn]

theorem pred_setPred_other (x : Lane) {n m : BitVec 3} (hm : m ≠ n) (b : Bool) : (x.setPred n b).pred m = x.pred m := by
  by_cases hn : n = 7
  · rw [hn, setPred_seven]
  by_cases hm7 : m = 7
  · rw [hm7, pred_seven, pred_seven]
  have hbit : ((1 : BitVec 7) <<< n.toNat).getLsbD m.toNat = false := by
    have hne : m.toNat ≠ n.toNat := fun h => hm (BitVec.eq_of_toNat_eq h)
    simp only [BitVec.ofNat_eq_ofNat, BitVec.getLsbD_shiftLeft, BitVec.getLsbD_one, Bool.and_eq_false_iff, decide_eq_false_iff_not,
      Bool.not_eq_false', decide_eq_true_iff]
    omega
  rw [pred_bit _ hm7, pred_bit x hm7, setPred_preds x hn]
  cases b
  · simp only [Bool.false_eq_true, if_false, BitVec.getLsbD_and, BitVec.getLsbD_not, hbit, toNat_lt_seven hm7, decide_true,
      Bool.not_false, Bool.and_self, Bool.and_true]
  · simp only [if_true, BitVec.getLsbD_or, hbit, Bool.or_false]

/-- A context's group changed, read; one that does not exist reads as the empty group, which the change must leave empty. -/
theorem grp_onGroup (s : State) (c : Ctx) {f : Group → Group} (hf : f {} = {}) : (s.onGroup c f).grp c = f (s.grp c) := by
  simp only [State.grp, group_onGroup]
  cases s.group? c with
  | none => exact hf.symm
  | some g => rfl

/-- What a result of each lane leaves in a predicate of the group's lanes. -/
def writeP (n : BitVec 3) (res : List LaneRes) (g : Group) : Group :=
  { g with lanes := g.lanes.mapIdx (fun i x => ((res.find? (fun r => r.1 = i)).map (fun r => x.setPred n (r.2.v != 0))).getD x) }

/-- Results delivered to a predicate are its lanes' predicates written. -/
theorem grp_dst_pred (s : State) (c : Ctx) (n : BitVec 3) (w : Bool) (res : List LaneRes) :
    (s.dst c (.p n) w res).grp c = writeP n res (s.grp c) := by
  rw [← grp_onGroup s c (f := writeP n res) rfl]
  refine congrArg (fun f => (s.onGroup c f).grp c) (funext fun g => ?_)
  simp only [writeP]
  congr 2
  funext i x
  cases res.find? (fun r => r.1 = i) <;> rfl

theorem lane_writeP_written {n : BitVec 3} {res : List LaneRes} {g : Group} {l : Nat} {r : LaneRes} (hl : l < g.lanes.length)
    (hr : res.find? (fun x => x.1 = l) = some r) : (writeP n res g).lane l = (g.lane l).setPred n (r.2.v != 0) := by
  simp [writeP, Group.lane, hl, hr]

/-- A lane keeps its state but for the predicate written, if that. -/
theorem lane_writeP_cases (n : BitVec 3) (res : List LaneRes) (g : Group) (l : Nat) :
    (writeP n res g).lane l = g.lane l ∨ ∃ b, (writeP n res g).lane l = (g.lane l).setPred n b := by
  by_cases hl : l < g.lanes.length
  case neg => exact .inl (by simp [writeP, Group.lane, hl])
  cases hr : res.find? (fun x => x.1 = l) with
  | none => exact .inl (by simp [writeP, Group.lane, hl, hr])
  | some r => exact .inr ⟨_, lane_writeP_written hl hr⟩

theorem pred_writeP_other {n m : BitVec 3} (hm : m ≠ n) (res : List LaneRes) (g : Group) (l : Nat) :
    ((writeP n res g).lane l).pred m = (g.lane l).pred m := by
  obtain hkept | ⟨b, hset⟩ := lane_writeP_cases n res g l
  · rw [hkept]
  · rw [hset, pred_setPred_other _ hm]

/-- Settles O50: a write to a predicate, read at p7, at another predicate and at its own. -/
theorem predicatesFollowTheirRule : Obligations.PredicatesFollowTheirRule := by
  refine ⟨fun s c g w f l n => ⟨rfl, rfl⟩, ?written, fun x d n => pred_depth x d n⟩
  intro s bid k w res n l c t
  have ht : t.grp c = writeP n res (s.grp c) := grp_dst_pred s c n w res
  rw [ht]
  refine ⟨pred_seven _, fun m hm => pred_writeP_other hm res _ l, fun r hn hl hr => ?_⟩
  rw [lane_writeP_written hl hr, pred_setPred_same _ hn]

/-! ### Misaligned accesses (R207, R213) -/

/-- The lowest lane whose address is no multiple of the size raises MISAL with it. -/
theorem misaligned_first {n : Nat} {eas : List (Nat × W64)} {e : Nat × W64}
    (hfirst : eas.find? (fun x => x.2.toNat % n != 0) = some e) : misaligned n eas = some { cause := 0x08, addr := e.2 } := by
  rw [misaligned, hfirst, Option.map_some]

/-- Where every lane's target exists, the first trap of a scratchpad access is that of its lowest misaligned lane. -/
theorem spadTargets_misaligned {s : State} {c : Ctx} {n : Nat} {eas : List (Nat × W64)} {e : Nat × W64}
    (hexist : ∀ x ∈ eas, (s.spTarget (s.blockOf c) x.2.toNat n).isSome = true)
    (hfirst : eas.find? (fun x => x.2.toNat % n != 0) = some e) :
    s.spadTargets c n eas = .error { cause := 0x08, addr := e.2 } := by
  induction eas with
  | nil => cases hfirst
  | cons x rest ih =>
    obtain ⟨l, a⟩ := x
    obtain ⟨hhere, hrest⟩ := List.forall_mem_cons.mp hexist
    obtain ⟨⟨b, off⟩, htarget⟩ := Option.isSome_iff_exists.mp hhere
    rw [List.find?_cons] at hfirst
    cases hmis : a.toNat % n != 0 with
    | true =>
      simp only [hmis, Option.some.injEq] at hfirst
      simp only [State.spadTargets, htarget, hmis, if_true, ← hfirst]
    | false =>
      simp only [hmis] at hfirst
      simp only [State.spadTargets, htarget, hmis, ih hrest hfirst, Bool.false_eq_true, if_false]

section
variable {s : State} {c : Ctx} {h : Head} {ty : Ty} {d a b : Operand} {m : MemMod} {e : Nat × W64}

theorem ld_misaligned
    (hclear : s.clear c h { rpt := true, ld := true } [loadSlot ty (countOf m.cnt) d, addrSlot a] = true)
    (hstays : s.parksOn c (s.addresses (s.view c h [loadSlot ty (countOf m.cnt) d, addrSlot a]) m.off) = false)
    (hfirst : (s.addresses (s.view c h [loadSlot ty (countOf m.cnt) d, addrSlot a]) m.off).find?
      (fun x => x.2.toNat % (countOf m.cnt * tyBytes ty) != 0) = some e) :
    exec (.ld h ty d a m) s = .next (s.trap c { cause := 0x08, addr := e.2 }) := by
  rw [exec_ld, execLd]
  refine issue_trapped hclear ((if_neg (Bool.eq_false_iff.mp hstays)).trans ?_)
  simp only [misaligned_first hfirst]

theorem st_misaligned
    (hclear : s.clear c h { rpt := true, st := true } [addrSlot a, dataSlot ty (countOf m.cnt) b] = true)
    (hstays : s.parksOn c (s.addresses (s.view c h [addrSlot a, dataSlot ty (countOf m.cnt) b]) m.off) = false)
    (hfirst : (s.addresses (s.view c h [addrSlot a, dataSlot ty (countOf m.cnt) b]) m.off).find?
      (fun x => x.2.toNat % (countOf m.cnt * tyBytes ty) != 0) = some e) :
    exec (.st h ty a b m) s = .next (s.trap c { cause := 0x08, addr := e.2 }) := by
  rw [exec_st, execSt]
  refine issue_trapped hclear ((if_neg (Bool.eq_false_iff.mp hstays)).trans ?_)
  simp only [misaligned_first hfirst]

theorem ldsp_misaligned (hclear : s.clear c h { rpt := true, ld := true } [loadSlot ty 1 d, spadSlot a] = true)
    (hexist : ∀ x ∈ s.spadAddresses (s.view c h [loadSlot ty 1 d, spadSlot a]),
      (s.spTarget (s.blockOf c) x.2.toNat (tyBytes ty)).isSome = true)
    (hfirst : (s.spadAddresses (s.view c h [loadSlot ty 1 d, spadSlot a])).find?
      (fun x => x.2.toNat % tyBytes ty != 0) = some e) :
    exec (.ldsp h ty d a) s = .next (s.trap c { cause := 0x08, addr := e.2 }) := by
  have hchecked : s.spadChecked (s.view c h [loadSlot ty 1 d, spadSlot a]) ty = .error { cause := 0x08, addr := e.2 } :=
    spadTargets_misaligned hexist hfirst
  rw [exec_ldsp, execLdsp]
  refine issue_trapped hclear ?_
  simp only [hchecked]

end

/-- Settles O55: a call's overflow, a return's underflow, of which depth 0 is one, and each access's own lemma above. -/
theorem windowAndAlignmentTraps : Obligations.WindowAndAlignmentTraps := by
  intro s c h
  refine ⟨fun hclear => ⟨fun x hover => ?call, ret_underflows hclear, fun ⟨l, hl, hbottom⟩ => ?bottom⟩,
    fun ty d a b m e => ⟨ld_misaligned, st_misaligned, ldsp_misaligned⟩⟩
  case call =>
    rw [exec_call, execCall]
    exact call_overflows hclear hover
  case bottom =>
    exact ret_underflows hclear ⟨l, hl, hbottom.trans_le (Nat.zero_le _)⟩

end Sys2Proof.Proofs

/-! The statements of the family `06_instruction_words_and_assembly.md`: decoding and encoding (O46, O45), a guard that is false in
every lane (O51), and the housekeeping instructions (O9). -/

namespace Sys2Proof.Proofs
open Sys2Proof Sys2Proof.Machine Sys2Proof.Laws

/-! ### A code names what it is the code of (Tables 6-1, 7-1, 9-4, 12-1 and 15-1) -/

@[simp] theorem ty_ofCode_code (t : Ty) : Ty.ofCode t.code = some t := by cases t <;> rfl

@[simp] theorem cmp_ofCode_code (cc : Cmp) : Cmp.ofCode cc.code = some cc := by cases cc <;> rfl

@[simp] theorem mxFmt_ofCode_code (f : MxFmt) : MxFmt.ofCode f.code = some f := by cases f <;> rfl

@[simp] theorem fenceOrd_ofCode_code (o : FenceOrd) : FenceOrd.ofCode o.code = some o := by cases o <;> rfl

@[simp] theorem scope_ofCode_code (sc : Scope) : Scope.ofCode sc.code = some sc := by cases sc <;> rfl

@[simp] theorem scope_ofCode_bits (sc : Scope) : Scope.ofCode (BitVec.ofNat 3 sc.code).toNat = some sc := by cases sc <;> rfl

@[simp] theorem memOrd_ofCode_bits (o : MemOrd) : MemOrd.ofCode (BitVec.ofNat 3 o.code).toNat = some o := by cases o <;> rfl

@[simp] theorem cachePolicy_ofCode_bits (p : CachePolicy) : CachePolicy.ofCode (BitVec.ofNat 2 p.code).toNat = some p := by
  cases p <;> rfl

@[simp] theorem elemCount_ofCode_bits (n : ElemCount) : ElemCount.ofCode (BitVec.ofNat 2 n.code).toNat = some n := by
  cases n <;> rfl

@[simp] theorem laneOp_ofBits_bits (o : LaneOp) : LaneOp.ofBits o.bits = some o := by cases o <;> rfl

@[simp] theorem shape_ofBits_bits (sh : Shape) : Shape.ofBits sh.bits = some sh := by cases sh <;> rfl

@[simp] theorem ordHalfOf_ordHalf (o : Option Scope) : ordHalfOf (ordHalf o) = some o := by
  cases o with
  | none => rfl
  | some sc => cases sc <;> rfl

@[simp] theorem bit_getLsbD (b : Bool) : (bit b).getLsbD 0 = b := by cases b <;> rfl

theorem ty_code_lt (t : Ty) : t.code < 0x20 := by cases t <;> decide

theorem mxFmt_code_lt (f : MxFmt) : f.code < 8 := by cases f <;> decide

theorem fenceOrd_code_lt (o : FenceOrd) : o.code < 4 := by cases o <;> decide

theorem scope_code_lt (sc : Scope) : sc.code < 5 := by cases sc <;> decide

theorem fs_cases {t : Ty} (ht : Ty.fs.contains t = true) : t = .f32 ∨ t = .f16 ∨ t = .bf16 := by simpa [Ty.fs] using ht

theorem fw_code {t : Ty} (ht : Ty.fw.contains t = true) : 0x10 ≤ t.code ∧ t.code < 0x14 := by
  have hcases : t = .f32 ∨ t = .f64 ∨ t = .f16 ∨ t = .bf16 := by simpa [Ty.fw] using ht
  rcases hcases with rfl | rfl | rfl | rfl <;> decide

/-! ### The modifiers are read back from X (R96, Tables 6-3, 12-1, 12-8 and 15-1)

A field of a concatenation lies in one of its parts: the simp sets below follow it there, the widths left as the sums they are. -/

@[simp] theorem repMod_ofBits_bits (m : RepMod) : RepMod.ofBits m.bits = m := by
  simp [-Nat.reduceAdd, RepMod.ofBits, RepMod.bits, BitVec.extractLsb'_append_eq_of_le, BitVec.extractLsb'_append_eq_of_add_le]

@[simp] theorem wcntMod_ofBits_bits (m : WcntMod) : WcntMod.ofBits m.bits = m := by
  simp [-Nat.reduceAdd, WcntMod.ofBits, WcntMod.bits, BitVec.extractLsb'_append_eq_of_le, BitVec.extractLsb'_append_eq_of_add_le]

@[simp] theorem leaMod_ofBits_bits (m : LeaMod) : LeaMod.ofBits m.bits = m := by
  simp [-Nat.reduceAdd, -BitVec.getLsbD_eq_getElem, LeaMod.ofBits, LeaMod.bits, BitVec.extractLsb'_setWidth_of_le,
    BitVec.extractLsb'_append_eq_of_add_le, BitVec.getLsbD_append]

@[simp] theorem memMod_ofBits_bits (m : MemMod) : MemMod.ofBits m.bits = some m := by
  simp [-Nat.reduceAdd, -BitVec.toNat_ofNat, -BitVec.extractLsb'_toNat, MemMod.ofBits, MemMod.bits,
    BitVec.extractLsb'_append_eq_of_le, BitVec.extractLsb'_append_eq_of_add_le]

@[simp] theorem rowLdMod_ofBits_bits (m : RowLdMod) : RowLdMod.ofBits m.bits = m := by
  simp [-Nat.reduceAdd, -BitVec.getLsbD_eq_getElem, RowLdMod.ofBits, RowLdMod.bits, BitVec.extractLsb'_append_eq_of_le,
    BitVec.extractLsb'_append_eq_of_add_le, BitVec.getLsbD_append]

@[simp] theorem rowStMod_ofBits_bits (m : RowStMod) : RowStMod.ofBits m.bits = m := by
  simp [-Nat.reduceAdd, RowStMod.ofBits, RowStMod.bits, BitVec.extractLsb'_append_eq_of_le,
    BitVec.extractLsb'_append_eq_of_add_le]

@[simp] theorem ordMod_ofBits_bits (m : OrdMod) : OrdMod.ofBits m.bits = some m := by
  simp [-Nat.reduceAdd, OrdMod.ofBits, OrdMod.bits, BitVec.extractLsb'_append_eq_of_le, BitVec.extractLsb'_append_eq_of_add_le]

@[simp] theorem vecTileMod_ofBits_bits (m : VecTileMod) : VecTileMod.ofBits m.bits = m := by
  simp [-Nat.reduceAdd, -BitVec.getLsbD_eq_getElem, VecTileMod.ofBits, VecTileMod.bits, BitVec.extractLsb'_setWidth_of_le,
    BitVec.extractLsb'_append_eq_of_le, BitVec.getLsbD_append]

/-! SHAPE lies in bits [6:4] alone, so what another modifier has elsewhere is read beside it. -/

theorem shape_bits_low (sh : Shape) : sh.bits.extractLsb' 0 4 = 0 := by cases sh <;> rfl

theorem shape_bits_seven (sh : Shape) : sh.bits.getLsbD 7 = false := by cases sh <;> rfl

theorem shape_bits_acq (sh : Shape) : sh.bits.extractLsb' 14 4 = 0 := by cases sh <;> rfl

theorem shape_bits_rel (sh : Shape) : sh.bits.extractLsb' 18 4 = 0 := by cases sh <;> rfl

theorem shape_ofBits_or {x : BitVec 22} (hx : x.extractLsb' 4 3 = 0) (sh : Shape) : Shape.ofBits (sh.bits ||| x) = some sh := by
  have hfield : (sh.bits ||| x).extractLsb' 4 3 = sh.bits.extractLsb' 4 3 := by
    rw [BitVec.extractLsb'_or, hx]
    exact BitVec.or_zero
  rw [← shape_ofBits_bits sh, Shape.ofBits, hfield]
  rfl

@[simp] theorem tileMod_ofBits_bits (m : TileMod) : TileMod.ofBits m.bits = some m := by
  have hkm1 : (m.km1.setWidth 22).extractLsb' 4 3 = 0 := by
    ext i
    simp
  simp [TileMod.ofBits, TileMod.bits, shape_ofBits_or hkm1, BitVec.extractLsb'_or, shape_bits_low,
    BitVec.extractLsb'_setWidth_of_le]

@[simp] theorem stTileMod_ofBits_bits (m : StTileMod) : StTileMod.ofBits m.bits = some m := by
  have hdmem : ((bit m.dmem ++ (0 : BitVec 7)).setWidth 22).extractLsb' 4 3 = 0 := by
    simp [-Nat.reduceAdd, BitVec.extractLsb'_setWidth_of_le, BitVec.extractLsb'_append_eq_of_add_le]
  rw [StTileMod.ofBits, StTileMod.bits, shape_ofBits_or hdmem]
  simp [-Nat.reduceAdd, -BitVec.getLsbD_eq_getElem, shape_bits_seven, BitVec.getLsbD_append]

@[simp] theorem ordMod_ofBits_or_shape (m : OrdMod) (sh : Shape) : OrdMod.ofBits (m.bits ||| sh.bits) = some m := by
  have hrel : (m.bits ||| sh.bits).extractLsb' 18 4 = m.bits.extractLsb' 18 4 := by
    rw [BitVec.extractLsb'_or, shape_bits_rel]
    exact BitVec.or_zero
  have hacq : (m.bits ||| sh.bits).extractLsb' 14 4 = m.bits.extractLsb' 14 4 := by
    rw [BitVec.extractLsb'_or, shape_bits_acq]
    exact BitVec.or_zero
  rw [← ordMod_ofBits_bits m, OrdMod.ofBits, hrel, hacq]
  rfl

@[simp] theorem shape_ofBits_ordMod_or (m : OrdMod) (sh : Shape) : Shape.ofBits (m.bits ||| sh.bits) = some sh := by
  have hord : m.bits.extractLsb' 4 3 = 0 := by simp [-Nat.reduceAdd, OrdMod.bits, BitVec.extractLsb'_append_eq_of_add_le]
  rw [BitVec.or_comm, shape_ofBits_or hord]

@[simp] theorem xc_operand (m : BitVec 22) (c : BitVec 10) : (xc m c).extractLsb' 0 10 = c :=
  BitVec.extractLsb'_append_eq_right

@[simp] theorem xc_modifiers (m : BitVec 22) (c : BitVec 10) : (xc m c).extractLsb' 10 22 = m :=
  BitVec.extractLsb'_append_eq_left

/-! ### The operands and the head are read back (R95, R98) -/

/-- An index of class 10 below 8 would be read as a predicate, which a source field never holds as a special register. -/
theorem operand_ofBits_bits {o : Operand} (ho : o.okSrc = true) : Operand.ofBits o.bits = o := by
  cases o with
  | v n | s n | k n =>
    simp [-Nat.reduceAdd, Operand.bits, Operand.ofBits, BitVec.extractLsb'_append_eq_of_le, BitVec.extractLsb'_append_eq_of_add_le]
  | p n =>
    revert n
    decide
  | special i =>
    have hi : ¬ i.toNat < 8 := Nat.not_lt.mpr (of_decide_eq_true ho)
    simp [-Nat.reduceAdd, Operand.bits, Operand.ofBits, BitVec.extractLsb'_append_eq_of_le,
      BitVec.extractLsb'_append_eq_of_add_le, hi]

theorem operand_ofBits_bits_dst {o : Operand} (ho : o.okDst = true) : Operand.ofBits o.bits = o := by
  refine operand_ofBits_bits ?_
  cases o with
  | special i => exact ho
  | v n | s n | p n | k n => rfl

theorem guard_ofBits_bits (g : Guard) : (⟨g.bits.extractLsb' 0 3, g.bits.getLsbD 3⟩ : Guard) = g := by
  simp [-Nat.reduceAdd, -BitVec.getLsbD_eq_getElem, Guard.bits, BitVec.extractLsb'_append_eq_of_add_le, BitVec.getLsbD_append]

theorem hints_ofBits_bits (h : Hints) :
    (⟨h.bits.extractLsb' 7 2, h.bits.getLsbD 6, h.bits.getLsbD 5, h.bits.getLsbD 4, h.bits.extractLsb' 0 4⟩ : Hints) = h := by
  simp [-Nat.reduceAdd, -BitVec.getLsbD_eq_getElem, Hints.bits, BitVec.extractLsb'_append_eq_of_le,
    BitVec.extractLsb'_append_eq_of_add_le, BitVec.getLsbD_append]

theorem mods_ofBits_bits (m : Mods) : (⟨m.bits.getLsbD 5, Rnd.ofCode (m.bits.extractLsb' 3 2).toNat, m.bits.getLsbD 2,
    m.bits.getLsbD 1, m.bits.getLsbD 0⟩ : Mods) = m := by
  have hrnd (r : Rnd) : Rnd.ofCode (BitVec.ofNat 2 r.code).toNat = r := by cases r <;> rfl
  simp [-Nat.reduceAdd, -BitVec.getLsbD_eq_getElem, -BitVec.toNat_ofNat, -BitVec.extractLsb'_toNat, Mods.bits, hrnd,
    BitVec.extractLsb'_append_eq_of_le, BitVec.extractLsb'_append_eq_of_add_le, BitVec.getLsbD_append]

section
variable (h : Head) (opc fn : Nat) (od oa ob : BitVec 10) (x : BitVec 32)

theorem headOfWord_asm : Head.ofWord (asm h opc fn od oa ob x) = h := by
  simp [-Nat.reduceAdd, -BitVec.getLsbD_eq_getElem, -BitVec.extractLsb'_toNat, Head.ofWord, asm, mods_ofBits_bits,
    hints_ofBits_bits, guard_ofBits_bits, BitVec.extractLsb'_append_eq_of_le, BitVec.extractLsb'_append_eq_of_add_le,
    BitVec.getLsbD_append]

/-- A word put together from its fields has these fields (Table 6-1). -/
theorem fieldsOfWord_asm : Fields.ofWord (asm h opc fn od oa ob x) =
    { head := h, opc := opc % 256, fn := fn % 64, d := Operand.ofBits od, a := Operand.ofBits oa, b := Operand.ofBits ob,
      c := Operand.ofBits (x.extractLsb' 0 10), x, m := x.extractLsb' 10 22 } := by
  rw [Fields.ofWord, headOfWord_asm]
  simp [-Nat.reduceAdd, -BitVec.extractLsb'_toNat, asm, BitVec.extractLsb'_append_eq_of_le, BitVec.extractLsb'_append_eq_of_add_le]

end

/-! ### The rows of the opcode map that read a code (Tables 7-4 to 7-9)

Each lemma is one shape of row: what its FN, or its modifiers, hold is what the row goes on with. -/

theorem row_reads {α : Type} {o : Option α} {a : α} (ho : o = some a) (k : α → Option Instr) : o.bind k = k a := by
  rw [ho, Option.bind_some]

theorem row_type (t : Ty) (k : Ty → Option Instr) : (Ty.ofCode (t.code % 64)).bind k = k t := by
  rw [Nat.mod_eq_of_lt ((ty_code_lt t).trans (by decide)), ty_ofCode_code, Option.bind_some]

/-- Of two forms with one OPC, the one whose FN is the type itself. -/
theorem row_typeLow (t : Ty) (r : Option Instr) (k : Ty → Option Instr) :
    (if 0x20 ≤ t.code % 64 then r else (Ty.ofCode (t.code % 64)).bind k) = k t := by
  have hlow : ¬ 0x20 ≤ t.code % 64 := Nat.not_le.mpr ((Nat.mod_le _ _).trans_lt (ty_code_lt t))
  rw [if_neg hlow, row_type]

/-- Of two forms with one OPC, the one whose FN is the type with bit 5 set. -/
theorem row_typeHigh (t : Ty) (r : Option Instr) (k : Ty → Option Instr) :
    (if 0x20 ≤ (t.code + 0x20) % 64 then (Ty.ofCode ((t.code + 0x20) % 64 - 0x20)).bind k else r) = k t := by
  have hcode : (t.code + 0x20) % 64 = t.code + 0x20 := Nat.mod_eq_of_lt (Nat.add_lt_add_right (ty_code_lt t) 0x20)
  rw [hcode, if_pos (Nat.le_add_left _ _), Nat.add_sub_cancel, ty_ofCode_code, Option.bind_some]

/-- FN of `icvt` and `fcvti`: the low two bits of the floating-point type above the integer type (R173, R174). -/
theorem row_convert {ft it : Ty} (hft : Ty.fw.contains ft = true) (hit : it.code < 8) (k : Ty → Ty → Option Instr) :
    ((Ty.ofCode (0x10 + (16 * (ft.code - 0x10) + it.code) % 64 / 16)).bind fun gt =>
      (Ty.ofCode ((16 * (ft.code - 0x10) + it.code) % 64 % 16)).bind (k gt)) = k ft it := by
  obtain ⟨hlo, hhi⟩ := fw_code hft
  have hfloat : 0x10 + (16 * (ft.code - 0x10) + it.code) % 64 / 16 = ft.code := by omega
  have hint : (16 * (ft.code - 0x10) + it.code) % 64 % 16 = it.code := by omega
  simp only [hfloat, hint, ty_ofCode_code, Option.bind_some]

theorem octal_pair {x y : Nat} (hx : x < 8) (hy : y < 8) : (8 * x + y) % 64 / 8 = x ∧ (8 * x + y) % 64 % 8 = y := by omega

theorem row_formats (fa fb : MxFmt) (k : MxFmt → MxFmt → Option Instr) :
    ((MxFmt.ofCode ((8 * fa.code + fb.code) % 64 / 8)).bind fun ga =>
      (MxFmt.ofCode ((8 * fa.code + fb.code) % 64 % 8)).bind (k ga)) = k fa fb := by
  obtain ⟨hfa, hfb⟩ := octal_pair (mxFmt_code_lt fa) (mxFmt_code_lt fb)
  simp only [hfa, hfb, mxFmt_ofCode_code, Option.bind_some]

/-- No order and scope of `fence` have the FN of `fence.remote`. -/
theorem row_fence (o : FenceOrd) (sc : Scope) (r : Option Instr) (k : FenceOrd → Scope → Option Instr) :
    (if (8 * o.code + sc.code) % 64 == 0x2B then r
      else (FenceOrd.ofCode ((8 * o.code + sc.code) % 64 / 8)).bind fun ord =>
        (Scope.ofCode ((8 * o.code + sc.code) % 64 % 8)).bind (k ord)) = k o sc := by
  have ho := fenceOrd_code_lt o
  have hsc := scope_code_lt sc
  obtain ⟨hord, hscope⟩ := octal_pair (ho.trans (by decide)) (hsc.trans (by decide))
  have hremote : ((8 * o.code + sc.code) % 64 == 0x2B) = false := beq_false_of_ne (by omega)
  simp only [hremote, hord, hscope, fenceOrd_ofCode_code, scope_ofCode_code, Option.bind_some, Bool.false_eq_true, if_false]

/-- FN of `hold`: the comparison, the width and `.sys` (R350). -/
theorem row_hold (cc : Cmp) (wide sys : Bool) (k : Cmp → Bool → Bool → Option Instr) :
    let fn := (cc.code + 16 * wide.toNat + 32 * sys.toNat) % 64
    ((Cmp.ofCode (fn % 16)).bind fun dd => k dd (fn.testBit 4) (fn.testBit 5)) = k cc wide sys := by
  intro fn
  have hfields : fn % 16 = cc.code ∧ fn.testBit 4 = wide ∧ fn.testBit 5 = sys := by
    cases cc <;> cases wide <;> cases sys <;> decide
  obtain ⟨hcc, hwide, hsys⟩ := hfields
  rw [hcc, hwide, hsys, cmp_ofCode_code, Option.bind_some]

section
variable {f : Fields} {cc : Cmp}

/-- The ten comparisons of `cmp` have an OPC each (R156). -/
theorem candidate_cmp (hcc : cc.code < 10) (hopc : f.opc = 0x50 + cc.code) :
    candidate f = if 0x20 ≤ f.fn then (Ty.ofCode (f.fn - 0x20)).bind fun ty => some (.cmpImm f.head cc ty f.d f.a f.x)
      else (Ty.ofCode f.fn).bind fun ty => some (.cmp f.head cc ty f.d f.a f.b) := by
  obtain ⟨h, opc, fn, d, a, b, c, x, m⟩ := f
  subst hopc
  cases cc
  case any | all => exact absurd hcc (by decide)
  all_goals rfl

/-- The six comparisons of `fcmp` have an OPC each (R168). -/
theorem candidate_fcmp (hcc : cc.code < 6) (hopc : f.opc = 0x90 + cc.code) :
    candidate f = (Ty.ofCode f.fn).bind fun ty => some (.fcmp f.head cc ty f.d f.a f.b) := by
  obtain ⟨h, opc, fn, d, a, b, c, x, m⟩ := f
  subst hopc
  cases cc
  case ltn | len | gtn | gen | any | all => exact absurd hcc (by decide)
  all_goals simp [candidate, decodeFloat, Cmp.code, Cmp.ofCode]

end

/-! ### Decoding and encoding (R95 to R98, R119) -/

/-- OPC and FN of a well-formed instruction's word name the instruction, operands and modifiers included. The steps of the package have
no word, and three operations of `ctxsw` not their own (R421); the other cases are the rows of the opcode map by shape: those of one
FN, those that read a type and then what X holds, and those with a code of their own. -/
theorem candidate_encode {i : Instr} {w : Word96} (hwf : i.wf = true) (henc : encode i = some w)
    (hown : ∀ h a, i ≠ .ctxswReady h a ∧ i ≠ .ctxswDiscard h a ∧ i ≠ .ctxswPool h a) :
    candidate (Fields.ofWord w) = some i := by
  cases i <;> cases henc
  all_goals simp only [Instr.wf, Bool.and_eq_true, decide_eq_true_eq] at hwf
  all_goals simp only [operand_ofBits_bits, operand_ofBits_bits_dst, hwf, fieldsOfWord_asm, xc_operand, xc_modifiers]
  case ctxswReady h a => exact absurd rfl (hown h a).1
  case ctxswDiscard h a => exact absurd rfl (hown h a).2.1
  case ctxswPool h a => exact absurd rfl (hown h a).2.2
  case nop | bra | brx | call | callx | ret | exit | trap | bkpt | yield | srget | srset | srsetSeed | rti | tlbinv | icinv | ifence
      | ctxswSave | ispsn | clrpsn | wsave | wrest | pand | por | pxor | pnot | cflush | cinv | fenceRemote | aflush | omap
      | accClr | trec | tbinit | tbexp | tbarr | tbwait | bar | cbar | qpush | qpop | qtry | qgrant | hcancel | parr | pdrain
      | lwait | ltrig | launch | range | tspawn | tend | tnspec | tabort | tyield | rret | landOpen | landClose => rfl
  case rep h r => exact congrArg (fun r => some (Instr.rep h r)) (repMod_ofBits_bits r)
  case wcnt h l => exact congrArg (fun l => some (Instr.wcnt h l)) (wcntMod_ofBits_bits l)
  case add | sub | mul | mulhi | mad | madw | neg | abs | min | max | not | shl | shr | sar | rol | bfe | bfi | popc | clz | brev
      | sel | mov | movi | idot4 | sad | bcast | fadd | fsub | fmul | fma | fmin | fmax | fclass | frint | fdot2 | unpack | mxscale
      | fcvtToF32 | rcp | rsq | sqrt | exp2 | log2 | sinpi | cospi | tanh | fdiv | ldsp | stsp | ldfe | stfe | ldstb =>
    exact row_type _ _
  case and | or | xor | pack | fcvt => exact row_typeLow _ _ _
  case andImm | orImm | xorImm | packSr | fcvtSr => exact row_typeHigh _ _ _
  case lred | lscan => exact (row_type _ _).trans (row_reads (laneOp_ofBits_bits _) _)
  case lea h ty d a b m =>
    exact (row_type _ _).trans (congrArg (fun m => some (Instr.lea h ty d a b m)) (leaMod_ofBits_bits m))
  case ld | st | atomAdd | atomMin | atomMax | atomAnd | atomOr | atomXor | atomExch | atomCas | aredAdd | aredMin | aredMax =>
    exact (row_type _ _).trans (row_reads (memMod_ofBits_bits _) _)
  case rowld h ty d a b m =>
    exact (row_type _ _).trans (congrArg (fun m => some (Instr.rowld h ty d a b m)) (rowLdMod_ofBits_bits m))
  case rowst h ty a b m =>
    exact (row_type _ _).trans (congrArg (fun m => some (Instr.rowst h ty a b m)) (rowStMod_ofBits_bits m))
  case rowadd h ty a b m =>
    exact (row_type _ _).trans (congrArg (fun m => some (Instr.rowadd h ty a b m)) (rowStMod_ofBits_bits m))
  case accLd | accCvt => exact (row_type _ _).trans (row_reads (shape_ofBits_bits _) _)
  case accSt => exact (row_type _ _).trans (row_reads (stTileMod_ofBits_bits _) _)
  case accSend =>
    exact (row_type _ _).trans
      ((row_reads (ordMod_ofBits_or_shape _ _) _).trans (row_reads (shape_ofBits_ordMod_or _ _) _))
  case pref => exact row_reads (memMod_ofBits_bits _) _
  case walk | copyt | copy | rcall => exact row_reads (ordMod_ofBits_bits _) _
  case mma | mmas => exact (row_formats _ _ _).trans (row_reads (tileMod_ofBits_bits _) _)
  case mmav h fa fb d a b m =>
    exact (row_formats _ _ _).trans (congrArg (fun m => some (Instr.mmav h fa fb d a b m)) (vecTileMod_ofBits_bits m))
  case icvt | fcvti =>
    obtain ⟨⟨⟨⟨_, hft⟩, hit⟩, _⟩, _⟩ := hwf
    exact row_convert hft hit _
  case cmp =>
    obtain ⟨⟨⟨⟨⟨_, hcc⟩, _⟩, _⟩, _⟩, _⟩ := hwf
    exact (candidate_cmp hcc (Nat.mod_eq_of_lt (by omega))).trans (row_typeLow _ _ _)
  case cmpImm =>
    obtain ⟨⟨⟨⟨_, hcc⟩, _⟩, _⟩, _⟩ := hwf
    exact (candidate_cmp hcc (Nat.mod_eq_of_lt (by omega))).trans (row_typeHigh _ _ _)
  case fcmp =>
    obtain ⟨⟨⟨⟨⟨_, hcc⟩, _⟩, _⟩, _⟩, _⟩ := hwf
    exact (candidate_fcmp hcc (Nat.mod_eq_of_lt (by omega))).trans (row_type _ _)
  case vote h vm d a => cases vm <;> rfl
  case shfl h sm d a b => cases sm <;> rfl
  case fence => exact row_fence _ _ _ _
  case hold h cc wide sys a b c => exact row_hold cc wide sys (fun cc wide sys => some (.hold h cc wide sys a b c))
  case bnkDot | bnkAxpy | bnkScale | bnkFill | bnkCopy | bnkRed =>
    obtain ⟨⟨⟨⟨_, hty⟩, _⟩, _⟩, _⟩ := hwf
    rcases fs_cases hty with rfl | rfl | rfl <;> simp [candidate, decodeSync, bnkTy, bnkTyOf]

/-- The word of a well-formed instruction decodes to it; the all-zero word, whose OPC has no row, is the word of none. -/
theorem decode_encode {i : Instr} {w : Word96} (hwf : i.wf = true) (henc : encode i = some w)
    (hown : ∀ h a, i ≠ .ctxswReady h a ∧ i ≠ .ctxswDiscard h a ∧ i ≠ .ctxswPool h a) : decode w = .instr i := by
  have hcandidate : candidate (Fields.ofWord w) = some i := candidate_encode hwf henc hown
  have hnonzero : (w == 0) = false := by
    refine beq_false_of_ne ?_
    rintro rfl
    exact absurd hcandidate nofun
  simp only [decode, hnonzero, hcandidate, hwf, henc, beq_self_eq_true, Bool.and_self, Bool.false_eq_true, if_false, if_true]

/-- `decode` answers an instruction only where it has checked this. -/
theorem wf_encode_of_decode {i : Instr} {w : Word96} (hdec : decode w = .instr i) : i.wf = true ∧ encode i = some w := by
  unfold decode at hdec
  split at hdec
  case isTrue => cases hdec
  case isFalse =>
    split at hdec
    · cases hdec
    · split at hdec
      case isTrue hchecked =>
        cases hdec
        simpa using hchecked
      case isFalse => cases hdec

/-- Settles O46: `decode_encode` and `wf_encode_of_decode`, the word of the operations of `ctxsw` being that of its `save`. -/
theorem decodingUndoesEncoding : Obligations.DecodingUndoesEncoding := by
  refine ⟨fun i w => decode_encode, fun h a w hmods ha henc => ?shared, fun i w => wf_encode_of_decode⟩
  case shared =>
    have hsave : encode (.ctxswSave h a) = some w := by
      rcases henc with henc | henc | henc <;> exact henc
    have hwf : (Instr.ctxswSave h a).wf = true := by simp [Instr.wf, hmods, ha]
    exact decode_encode hwf hsave (by simp)

/-- Settles O45: each word written out is the word of its well-formed instruction, and decodes to it by `decode_encode`. -/
theorem tabledWordsDecode : Obligations.TabledWordsDecode := by
  unfold Obligations.TabledWordsDecode
  refine ⟨?fma, ?andImm, ?bra, ?ld, ?mma, ?rcall, ?hold, ?tspawn, rfl, rfl⟩
  all_goals exact decode_encode (by decide) (by decide) (by simp)

/-! ### What each instruction runs -/

theorem exec_nop (h : Head) (s : State) : exec (.nop h) s = execNop h s := rfl

theorem exec_yield (h : Head) (s : State) : exec (.yield h) s = execYield h s := rfl

theorem exec_exit (h : Head) (s : State) : exec (.exit h) s = execExit h s := rfl

theorem exec_wcnt (h : Head) (l : WcntMod) (s : State) : exec (.wcnt h l) s = execWcnt h l s := rfl

theorem exec_rep (h : Head) (r : RepMod) (s : State) : exec (.rep h r) s = execRep h r s := rfl

theorem exec_trap (h : Head) (x : BitVec 32) (s : State) : exec (.trap h x) s = execTrap h x s := rfl

theorem exec_bkpt (h : Head) (x : BitVec 32) (s : State) : exec (.bkpt h x) s = execBkpt h x s := rfl

theorem exec_ifence (h : Head) (s : State) : exec (.ifence h) s = execIfence h s := rfl

/-! ### An issue without effect, and one that waits -/

section
variable {s t : State} {c : Ctx} {h : Head} {row : RowInfo} {slots : List Slot} {body : State → View → Effect}

/-- An instruction that nothing keeps from issuing, whose checks pass, and whose guard is false in every lane completes without its
own effect, whatever that is (R100). -/
theorem issue_inactive (hstart : s.mayStart c h row = true) (hcheck : s.issueCheck c (s.grp c) h row slots = none)
    (hact : s.acts c h = []) :
    s.issue h row slots body = .next (s.completed s c h) := by
  simp only [State.mayStart, Bool.and_eq_true, beq_iff_eq, Bool.not_eq_true', Option.isNone_iff_eq_none] at hstart
  obtain ⟨⟨⟨⟨⟨hsel, hgroup⟩, hissue⟩, hasync⟩, hhold⟩, hfirst⟩ := hstart
  have hactive : (s.grp c).active h = [] := hact
  have hreads : s.awaitsIteration c (s.grp c) h slots = false :=
    awaitsIteration_reads (by rw [hactive, readsOf_nil])
  simp only [State.issue, State.atIssue, hsel, group_grp hgroup, hissue, hasync, State.settleHold, hhold, hfirst, hreads, hcheck,
    hactive, Option.getD_some, Bool.not_true, Bool.or_false, Bool.false_eq_true, if_false, List.isEmpty_nil, if_true, finish_done]
  rfl

/-- An instruction that nothing keeps from issuing, whose checks pass, and whose attempt leaves a state in which it still waits. -/
theorem issue_waitsIn (hclear : s.clear c h row slots = true) (heffect : body s (s.view c h slots) = .waitIn t) :
    s.issue h row slots body = .next t := by
  rw [issue_clear hclear, heffect, finish_waitIn]

end

/-- Settles O51: `issue_inactive`, and every form named is one issue. -/
theorem guardFalseDoesNothing : Obligations.GuardFalseDoesNothing := by
  refine ⟨fun s c h row slots body => issue_inactive, ?plain, fun s c h ty a b m hstart => ?store⟩
  case plain =>
    intro s c h hstart hcheck hact x i hi
    have hissue {i : Instr} {body : State → View → Effect} (hexec : exec i s = s.issue h {} [] body) :
        exec i s = .next (s.completed s c h) := hexec.trans (issue_inactive hstart hcheck hact)
    simp only [List.mem_cons, List.not_mem_nil, or_false] at hi
    rcases hi with rfl | rfl | rfl | rfl | rfl | rfl | rfl
    · exact hissue (exec_nop h s)
    · exact hissue (exec_bra h x s)
    · exact hissue (exec_call h x s)
    · exact hissue (exec_ret h s)
    · exact hissue (exec_exit h s)
    · exact hissue (exec_trap h x s)
    · exact hissue (exec_ifence h s)
  case store =>
    rw [exec_st, execSt]
    exact issue_inactive hstart

/-- Settles O9: each instruction by what follows its effect: it completes, waits, is held, or traps. -/
theorem housekeepingCompletes : Obligations.HousekeepingCompletes := by
  intro s c h hclear
  have hyielding : s.clear c (yielding h) {} [] = true := hclear
  rw [exec_nop, execNop, exec_yield, execYield]
  refine ⟨issue_done hclear rfl, issue_done hyielding rfl, fun l hld hst => ?low, fun l hover => ?high, fun r => ?rep,
    fun x => ?traps⟩
  case low =>
    have hcounted : (s.grp c).counted l.ldmax.toNat l.stmax.toNat = true := by simp [Group.counted, hld, hst]
    rw [exec_wcnt, execWcnt]
    exact issue_done hclear (if_pos hcounted)
  case high =>
    have hcounted : ¬ (s.grp c).counted l.ldmax.toNat l.stmax.toNat = true := by
      simpa only [Group.counted, Bool.and_eq_true, decide_eq_true_eq, not_and_or, Nat.not_le] using hover
    rw [exec_wcnt, execWcnt]
    exact issue_waitsIn hclear (if_neg hcounted)
  case rep =>
    rw [exec_rep, execRep]
    exact issue_held hclear rfl
  case traps =>
    intro at_
    rw [exec_trap, execTrap, exec_bkpt, execBkpt]
    exact ⟨issue_trapped hclear rfl, issue_trapped hclear rfl⟩

end Sys2Proof.Proofs

/-! The statements of the family `08_numbers.md`: an enabled exception traps (O57), and the generator's draws (O58). -/

namespace Sys2Proof.Proofs
open Sys2Proof Sys2Proof.Machine Sys2Proof.Laws

/-! ### An enabled exception traps (R132, R133) -/

/-- The FPX trap of lanes' results: the lanes with an enabled exception, and the enabled exceptions of all lanes (R133). -/
def fpxTrap (flags : BitVec 32) (res : List FLane) : TrapInfo :=
  { cause := 0x10, addr := w64 (laneMask ((res.filter (fun r => enabledOf flags r.fl != 0)).map (·.lane))
      + enabledOf flags (res.foldl (fun m r => m ||| r.fl) 0) * 2 ^ 32) }

/-- The trap that `View.floatDone` takes, where some lane raised an enabled exception. -/
theorem fpxOf_enabled {flags : BitVec 32} {res : List FLane} (hraised : ∃ r ∈ res, enabledOf flags r.fl ≠ 0) :
    fpxOf flags (res.map (fun r => (r.lane, r.fl))) = some (fpxTrap flags res) := by
  have hlanes : fpxLanes flags (res.map (fun r => (r.lane, r.fl)))
      = (res.filter (fun r => enabledOf flags r.fl != 0)).map (·.lane) := by
    simp [fpxLanes, List.filter_map, Function.comp_def]
  have hall : orFlags (res.map (fun r => (r.lane, r.fl))) = res.foldl (fun m r => m ||| r.fl) 0 := List.foldl_map
  have hsome : fpxLanes flags (res.map (fun r => (r.lane, r.fl))) ≠ [] := by
    simpa [hlanes] using hraised
  unfold fpxOf
  split
  case h_1 hnone => exact absurd hnone hsome
  case h_2 => rw [hlanes, hall, fpxTrap]

/-- An instruction takes FPX, and nothing else, where one of its results has an exception whose EN bit is set. -/
def TrapsOnEnabled (s : State) (c : Ctx) (i : Instr) (res : List FLane) : Prop :=
  (∃ r ∈ res, enabledOf (s.grp c).flags r.fl ≠ 0) → exec i s = .next (s.trap c (fpxTrap (s.grp c).flags res))

section
variable {s t : State} {c : Ctx} {h : Head} {i : Instr} {d a b : Operand}

/-- The trap is taken in the state before the instruction, whatever `t` the results would have been delivered in (R12). -/
theorem issue_trapsOnEnabled {row : RowInfo} {slots : List Slot} {body : State → View → Effect} {w : Bool} {regs : Nat}
    {res : List FLane} (hexec : exec i s = s.issue h row slots body) (hclear : s.clear c h row slots = true)
    (heffect : body s (s.view c h slots) = (s.view c h slots).floatDone s t w regs res) : TrapsOnEnabled s c i res := by
  intro hraised
  rw [hexec]
  refine issue_trapped hclear (heffect.trans ?_)
  simp only [View.floatDone, State.view, fpxOf_enabled hraised]

theorem float2_trapsOnEnabled {ty : Ty} {op : Nat → Nat → FRes} (hexec : exec i s = s.float2 h ty d a b op)
    (hclear : s.clear c h (fpRow [ty]) [slotFD d (tyWide ty), slotFS .a a ty, slotFS .b b ty] = true) :
    let v := s.view c h [slotFD d (tyWide ty), slotFS .a a ty, slotFS .b b ty]
    TrapsOnEnabled s c i ((s.acts c h).map (fun l => fLane l [s.fsrc v .a ty l, s.fsrc v .b ty l]
      [op (fbits ty (s.fsrc v .a ty l).v) (fbits ty (s.fsrc v .b ty l).v)])) :=
  issue_trapsOnEnabled hexec hclear rfl

theorem float1_trapsOnEnabled {td tf : Ty} {op : Nat → FRes} (hexec : exec i s = s.float1 h td tf d a op)
    (hclear : s.clear c h (fpRow [td, tf]) [slotFD d (tyWide td), slotFS .a a tf] = true) :
    let v := s.view c h [slotFD d (tyWide td), slotFS .a a tf]
    TrapsOnEnabled s c i ((s.acts c h).map (fun l => fLane l [(s.fsrc v .a tf l).spread (tyWide td) (tyWide tf)]
      [op (fbits tf (s.fsrc v .a tf l).v)])) :=
  issue_trapsOnEnabled hexec hclear rfl

end

/-- Settles O57: each instruction is one issue that delivers its lanes' results through `View.floatDone`, most of those with one or two
sources by `State.float1` or `State.float2`, each of the others as its own definition (its equation `eq_1`) writes the issue out. -/
theorem enabledExceptionsTrap : Obligations.EnabledExceptionsTrap := by
  intro s c h ty d a b e w dl f en draws fpx
  refine ⟨?twoSources, ?fma, ?fcmp, ?fdot2, ?packs, ?unpack, ?oneSource, ?fcvtSr, ?integers⟩
  case twoSources =>
    intro sl hclear v res
    and_intros <;> exact float2_trapsOnEnabled rfl hclear
  case fma => exact fun hclear => issue_trapsOnEnabled (execFma.eq_1 ..) hclear rfl
  case fcmp => exact fun cc hclear => issue_trapsOnEnabled (execFcmp.eq_1 ..) hclear rfl
  case fdot2 => exact fun hclear => issue_trapsOnEnabled (execFdot2.eq_1 ..) hclear rfl
  case packs =>
    exact fun hclear => ⟨issue_trapsOnEnabled (execPack.eq_1 ..) hclear rfl,
      issue_trapsOnEnabled (execPackSr.eq_1 ..) hclear rfl⟩
  case unpack => exact fun hclear => issue_trapsOnEnabled (execUnpack.eq_1 ..) hclear rfl
  case oneSource =>
    intro one
    and_intros <;> exact float1_trapsOnEnabled rfl
  case fcvtSr => exact fun hclear => issue_trapsOnEnabled (execFcvtSr.eq_1 ..) hclear rfl
  case integers =>
    exact fun it => ⟨fun hclear => issue_trapsOnEnabled (execIcvt.eq_1 ..) hclear rfl,
      fun hclear => issue_trapsOnEnabled (execFcvti.eq_1 ..) hclear rfl⟩

/-! ### The generator's draws (R129) -/

/-- A core with draws left takes the next and steps nothing. -/
theorem draw_left {p : Proc} {q : BitVec 16} {r : List (BitVec 16)} (hleft : p.draws = q :: r) :
    p.draw = (q.toNat, { p with draws := r }) := by
  simp only [Proc.draw, hleft]

/-- A core with no draw left steps its generator and takes the lowest field of the new value. -/
theorem draw_none {p : Proc} (hnone : p.draws = []) :
    p.draw = (field (genStep p.gen).toNat 0 16, { p with
      gen := genStep p.gen
      draws := [(genStep p.gen).extractLsb' 16 16, (genStep p.gen).extractLsb' 32 16, (genStep p.gen).extractLsb' 48 16] }) := by
  simp only [Proc.draw, hnone]

theorem drawN_succ (p : Proc) (n : Nat) : p.drawN (n + 1) = (p.draw.1 :: (p.draw.2.drawN n).1, (p.draw.2.drawN n).2) := rfl

theorem drawN_one (p : Proc) : p.drawN 1 = ([p.draw.1], p.draw.2) := rfl

/-- A draw kept as bits of the generator's value is that field of it. -/
theorem toNat_extractLsb'_field (g : W64) (lo n : Nat) : (g.extractLsb' lo n).toNat = field g.toNat lo n :=
  BitVec.extractLsb'_toNat lo n g

/-- Four draws of a core with none left are the four fields of one step of its generator, and leave none. -/
theorem drawN_four {p : Proc} (hnone : p.draws = []) :
    p.drawN 4 = ([field (genStep p.gen).toNat 0 16, field (genStep p.gen).toNat 16 16, field (genStep p.gen).toNat 32 16,
      field (genStep p.gen).toNat 48 16], { p with gen := genStep p.gen, draws := [] }) := by
  rw [drawN_succ, draw_none hnone, drawN_succ, draw_left rfl, drawN_succ, draw_left rfl, drawN_one, draw_left rfl]
  simp only [toNat_extractLsb'_field]

/-- What the default and every listed entry of a table have, every entry read from it has. -/
theorem cellsGet_of_forall {α : Type} {P : α → Prop} {d : α} {m : Cells α} (hdefault : P d) (hlisted : ∀ x ∈ m, P x.2)
    (a : Nat) : P (Cells.get d m a) := by
  induction m with
  | nil => exact hdefault
  | cons x r ih =>
    obtain ⟨k, v⟩ := x
    obtain ⟨hv, hr⟩ := List.forall_mem_cons.mp hlisted
    by_cases hk : a = k
    · subst hk
      rwa [Cells.get_cons_same]
    · rw [Cells.get_cons_other _ _ _ hk]
      exact ih hr

/-- Module reset leaves of a unit no more than which of its sub-arrays fail (R443, R277). -/
theorem proc_moduleReset (s : State) (u : Nat) : ∃ x, s.moduleReset.proc u = { failing := x } := by
  refine cellsGet_of_forall (P := fun p : Proc => ∃ x, p = { failing := x }) ⟨0, rfl⟩ ?_ u
  intro x hx
  obtain ⟨y, -, rfl⟩ := List.mem_map.mp hx
  exact ⟨_, rfl⟩

/-- Settles O58: four draws and one of a core with none left, one of a core with some, and every unit after module reset. -/
theorem generatorDraws : Obligations.GeneratorDraws := by
  refine ⟨fun p hnone => ⟨drawN_four hnone, ?one⟩, fun p q r hleft => ?left, fun s t u hreset => ?reset⟩
  case one => rw [drawN_one, draw_none hnone]; rfl
  case left => rw [drawN_one, draw_left hleft]
  case reset =>
    obtain rfl : s.moduleReset = t := Host.Outcome.next.inj hreset
    obtain ⟨x, hx⟩ := proc_moduleReset s u
    rw [hx]
    exact ⟨rfl, rfl⟩

end Sys2Proof.Proofs

/-! The statements of the family `09_integer_control_lane.md`: integer arithmetic (O1), bits and shifts (O2), fields and moves (O3),
comparisons and predicates (O4), lane instructions (O5), `exit` (O11), and special registers (O12). -/

namespace Sys2Proof.Proofs
open Sys2Proof Sys2Proof.Machine Sys2Proof.Laws

/-! ### Instructions that give each active lane a value of its own sources (R140) -/

/-- An instruction that writes a value of each lane's sources to D, where nothing keeps it from issuing and its checks pass, gives its
results and completes. -/
theorem perLane_gives {s : State} {c : Ctx} {i : Instr} {h : Head} {row : RowInfo} {slots : List Slot} {w : Bool}
    {srcs : List Reading} {f : (Pos → W64) → W64} {dep : Deps} (hclear : s.clear c h row slots = true)
    (hexec : exec i s = s.perLane h row slots w srcs f dep) :
    exec i s = .next (s.lanedTo c h slots w srcs f dep) := by
  rw [hexec, State.perLane]
  exact issue_done hclear rfl

/-- Settles O1: each instruction is, by definition, its operation of Table 9-2 on each lane's sources. -/
theorem integerArithmeticCompletes : Obligations.IntegerArithmeticCompletes := by
  refine ⟨?binary, ?mad, ?madw, ?unary⟩
  case binary =>
    intro s c h ty d a b hclear r k
    and_intros <;> exact perLane_gives hclear rfl
  case mad => exact fun s c h ty d a b e hclear => perLane_gives hclear rfl
  case madw => exact fun s c h ty d a b e hclear => perLane_gives hclear rfl
  case unary => exact fun s c h ty d a hclear => ⟨perLane_gives hclear rfl, perLane_gives hclear rfl⟩

/-- Settles O2: each instruction is, by definition, its operation of Table 9-3 on each lane's sources. -/
theorem bitwiseAndShiftsComplete : Obligations.BitwiseAndShiftsComplete := by
  refine ⟨?binary, ?shifts, ?unary⟩
  case binary =>
    intro s c h ty d a b hclear r
    and_intros <;> exact perLane_gives hclear rfl
  case shifts =>
    intro s c h ty d a b hclear r
    and_intros <;> exact perLane_gives hclear rfl
  case unary =>
    intro s c h ty d a i hclear r' r k
    and_intros <;> exact perLane_gives hclear rfl

theorem exec_sel (h : Head) (ty : Ty) (d a b e : Operand) (s : State) :
    exec (.sel h ty d a b e) s = execSel h ty d a b e s := rfl

/-- Settles O3: `sel` is one issue that delivers its picked elements, and every other instruction a value of the lane's sources. -/
theorem fieldsAndMovesComplete : Obligations.FieldsAndMovesComplete := by
  refine ⟨?fields, ?sel, ?mov, ?movi, ?lea⟩
  case fields =>
    intro s c h ty d a b e r
    exact ⟨fun hclear => perLane_gives hclear rfl, fun hclear => perLane_gives hclear rfl,
      fun hclear => ⟨perLane_gives hclear rfl, perLane_gives hclear rfl⟩⟩
  case sel =>
    intro s c h ty d a b e sl hclear v pick
    rw [exec_sel, execSel]
    exact issue_done hclear rfl
  case mov => exact fun s c h ty d a hclear => perLane_gives hclear rfl
  case movi => exact fun s c h ty d i hclear => perLane_gives hclear rfl
  case lea => exact fun s c h ty d a b m hclear => perLane_gives hclear rfl

/-- Settles O4: each instruction writes, by definition, the truth of its relation or operation as a value of the lane's sources. -/
theorem comparisonsAndPredicatesComplete : Obligations.ComparisonsAndPredicatesComplete := by
  refine ⟨?cmp, ?cmpImm, ?binary, ?pnot⟩
  case cmp => exact fun s c h ty cc d a b hclear => perLane_gives hclear rfl
  case cmpImm => exact fun s c h ty cc d a i hclear => perLane_gives hclear rfl
  case binary =>
    intro s c h d a b hclear r
    and_intros <;> exact perLane_gives hclear rfl
  case pnot => exact fun s c h d a hclear => perLane_gives hclear rfl

/-! ### Lane instructions (R158 to R162) -/

theorem exec_vote (h : Head) (vm : VoteOp) (d a : Operand) (s : State) : exec (.vote h vm d a) s = execVote h vm d a s := rfl

theorem exec_shfl (h : Head) (sm : ShflOp) (d a b : Operand) (s : State) :
    exec (.shfl h sm d a b) s = execShfl h sm d a b s := rfl

theorem exec_bcast (h : Head) (ty : Ty) (d a b : Operand) (s : State) :
    exec (.bcast h ty d a b) s = execBcast h ty d a b s := rfl

theorem exec_lred (h : Head) (ty : Ty) (d a : Operand) (op : LaneOp) (s : State) :
    exec (.lred h ty d a op) s = execLred h ty d a op s := rfl

theorem exec_lscan (h : Head) (ty : Ty) (d a : Operand) (op : LaneOp) (s : State) :
    exec (.lscan h ty d a op) s = execLscan h ty d a op s := rfl

/-- Copies are delivered where D is no predicate, or none of them is tagged: nothing is consumed (R405). -/
theorem deliver_unconsumed {v : View} {w : Bool} {res : List LaneRes}
    (hfree : (∀ n, v.op .d ≠ .p n) ∨ ∀ r ∈ res, r.2.tag = false) (s : State) :
    v.deliver s w res = .done (s.dst v.c (v.op .d) w res) := by
  unfold View.deliver
  cases hop : v.op .d with
  | p n =>
    have huntagged : ∀ r ∈ res, r.2.tag = false := hfree.resolve_left fun hd => hd n hop
    have hnone : res.filter (fun r => r.2.tag) = [] :=
      List.filter_eq_nil_iff.mpr fun r hr => Bool.eq_false_iff.mp (huntagged r hr)
    simp only [hnone, List.map_nil, Group.consumeTrap]
  | _ => rfl

/-- A pair of which neither half is tagged is not tagged. -/
theorem joined_untagged {lo hi : Elem} (hlo : lo.tag = false) (hhi : hi.tag = false) : (joined lo hi).tag = false := by
  simp only [joined, hlo, hhi]

/-- Copies of 64 bits are delivered where D is no predicate, or no half of them is tagged (R405). -/
theorem deliverPair_unconsumed {v : View} {res : List PairRes}
    (hfree : (∀ n, v.op .d ≠ .p n) ∨ ∀ r ∈ res, r.2.1.tag = false ∧ r.2.2.tag = false) (s : State) :
    v.deliverPair s res = .done (s.dstPair v.c (v.op .d) res) := by
  cases hop : v.op .d with
  | p n =>
    have huntagged : ∀ r ∈ res, r.2.1.tag = false ∧ r.2.2.tag = false := hfree.resolve_left fun hd => hd n hop
    have hjoined : ∀ r ∈ res.map (fun r => (r.1, joined r.2.1 r.2.2)), r.2.tag = false :=
      List.forall_mem_map.mpr fun r hr => joined_untagged (huntagged r hr).1 (huntagged r hr).2
    simp only [View.deliverPair, hop, deliver_unconsumed (.inr hjoined), State.dstPair]
  | _ => simp only [View.deliverPair, hop]

/-- Settles O5: each instruction is one issue with its own effect; the copies of `shfl` and `bcast` are delivered where nothing is
consumed. -/
theorem laneInstructionsComplete : Obligations.LaneInstructionsComplete := by
  refine ⟨?vote, ?shfl, ?bcast, ?folds⟩
  case vote =>
    intro s c h vm d a sl hclear on r
    rw [exec_vote, execVote]
    exact issue_done hclear rfl
  case shfl =>
    intro s c h sm d a b sl res hclear hfree
    rw [exec_shfl, execShfl]
    exact issue_done hclear (deliver_unconsumed hfree s)
  case bcast =>
    intro s c h ty d n b sl g k lane lo hi hclear hfree
    rw [exec_bcast, execBcast]
    refine issue_done hclear ?_
    by_cases hw : tyWide ty = true
    · refine (if_pos hw).trans ((deliverPair_unconsumed ?_ s).trans (congrArg Effect.done (if_pos hw).symm))
      refine hfree.imp_right fun hun => List.forall_mem_map.mpr fun l hl => ?_
      obtain ⟨hlo, hhi⟩ := hun l hl
      exact ⟨hlo, hhi hw⟩
    · refine (if_neg hw).trans ((deliver_unconsumed ?_ s).trans (congrArg Effect.done (if_neg hw).symm))
      exact hfree.imp_right fun hun => List.forall_mem_map.mpr fun l hl => (hun l hl).1
  case folds =>
    intro s c h ty d a op sl hclear v i
    rw [exec_lred, execLred, exec_lscan, execLscan]
    exact ⟨issue_done hclear rfl, issue_done hclear rfl⟩

/-! ### `exit` (R143, R391) -/

/-- A group whose active lanes have exited and whose run's other lanes have gone on (R143). -/
def exited (s : State) (c : Ctx) (h : Head) (g : Group) : Group := g.leave (s.acts c h) (s.view c h []).others

section
variable {s : State} {h : Head} {bid k : Nat}

/-- In a supervisor slot the active lanes end, and nothing else (assumption 112). -/
theorem exit_sup {u : Nat} (hclear : s.clear (.sup u k) h {} [] = true) :
    exec (.exit h) s = .next ((s.onGroup (.sup u k) (exited s (.sup u k) h)).jumped (.sup u k) h) := by
  rw [exec_exit, execExit]
  exact issue_jumped hclear rfl

/-- While a lane of the group stays alive, the active ones exit and the others go on (R143). -/
theorem exit_alive (hclear : s.clear (.grp bid k) h {} [] = true)
    (halive : (exited s (.grp bid k) h (s.grp (.grp bid k))).alive = true) :
    exec (.exit h) s = .next ((s.onGroup (.grp bid k) (exited s (.grp bid k) h)).jumped (.grp bid k) h) := by
  rw [exec_exit, execExit]
  exact issue_jumped hclear (if_pos halive)

/-- With its last lanes the group ends, where it is no task's group or its counts are 0 (R143, R391). -/
theorem exit_last (hclear : s.clear (.grp bid k) h {} [] = true)
    (hlast : (exited s (.grp bid k) h (s.grp (.grp bid k))).alive = false)
    (hcounts : (s.grp (.grp bid k)).task.isSome = true →
      (s.grp (.grp bid k)).ldcnt = 0 ∧ (s.grp (.grp bid k)).stcnt = 0) :
    exec (.exit h) s = .next (((((s.onGroup (.grp bid k) (exited s (.grp bid k) h)).finishTask bid k).groupEnded bid
      k).trimHeld).jumped (.grp bid k) h) := by
  have hends : ¬ ((s.grp (.grp bid k)).task.isSome
      && ((s.grp (.grp bid k)).ldcnt != 0 || (s.grp (.grp bid k)).stcnt != 0)) = true := by
    simpa using hcounts
  rw [exec_exit, execExit]
  exact issue_jumped hclear ((if_neg (Bool.eq_false_iff.mp hlast)).trans (if_neg hends))

end

/-- Settles O11: the lemmas above, in a supervisor slot and in a group that goes on or ends. -/
theorem exitCompletes : Obligations.ExitCompletes := by
  intro s c h hclear act left rest t
  refine ⟨rfl, ?sup, ?grp⟩
  case sup =>
    rintro u k rfl
    exact exit_sup hclear
  case grp =>
    rintro bid k rfl
    exact ⟨exit_alive hclear, exit_last hclear⟩

/-! ### Special registers (R147 to R149) -/

theorem exec_srset (h : Head) (d a : Operand) (s : State) : exec (.srset h d a) s = execSrset h d a s := rfl

theorem exec_srsetSeed (h : Head) (a : Operand) (s : State) : exec (.srsetSeed h a) s = execSrsetSeed h a s := rfl

/-- Settles O12: `srget` gives each lane a value of its source, and the other two are one issue each with its own effect. -/
theorem specialRegisterMovesComplete : Obligations.SpecialRegisterMovesComplete := by
  intro s c h d a
  rw [exec_srset, execSrset, exec_srsetSeed, execSrsetSeed]
  exact ⟨fun hclear => perLane_gives hclear rfl, fun hclear => issue_done hclear rfl, fun hclear => issue_done hclear rfl⟩

end Sys2Proof.Proofs

/-! The statement of the family `11_memory_as_programs_see_it.md`: the frame of stores (O60). Its premise leaves the home L2s room for 64
lines, and it bounds no group's lanes: the part below has a group of 65 lanes, each of which stores to a line of its own. -/

namespace Sys2Proof.Proofs
open Sys2Proof Sys2Proof.Machine Sys2Proof.Laws

/-! ### Finite tables -/

theorem cellsFind_set_same {α : Type} (m : Cells α) (a : Nat) (v : α) : Cells.find (Cells.set m a v) a = some v := by
  induction m with
  | nil => simp [Cells.set, Cells.find]
  | cons x m ih =>
    obtain ⟨k, w⟩ := x
    simp only [Cells.set]
    split
    · simp [Cells.find]
    · split
      · simp [Cells.find]
      · simp [Cells.find, *]

theorem cellsFind_absent {α : Type} {m : Cells α} {a : Nat} (habsent : ∀ e ∈ m, e.1 ≠ a) : Cells.find m a = none := by
  cases hfind : Cells.find m a with
  | none => rfl
  | some v => exact absurd rfl (habsent _ (mem_of_cellsFind hfind))

theorem mem_cellsSet {α : Type} {m : Cells α} {a : Nat} {v : α} {e : Nat × α} (he : e ∈ Cells.set m a v) : e = (a, v) ∨ e ∈ m := by
  induction m with
  | nil => simpa [Cells.set] using he
  | cons x m ih =>
    obtain ⟨k, w⟩ := x
    simp only [Cells.set] at he
    split at he
    · simpa using he
    · split at he <;> grind

theorem length_cellsSet_absent {α : Type} {m : Cells α} {a : Nat} (v : α) (habsent : ∀ e ∈ m, e.1 ≠ a) :
    (Cells.set m a v).length = m.length + 1 := by
  induction m with
  | nil => rfl
  | cons x m ih =>
    obtain ⟨k, w⟩ := x
    obtain ⟨hk, hm⟩ := List.forall_mem_cons.mp habsent
    simp only [Cells.set, if_neg (Ne.symm hk)]
    split
    · rfl
    · simp [ih hm]

theorem mem_of_cellsErase {α : Type} {m : Cells α} {a : Nat} {e : Nat × α} (he : e ∈ Cells.erase m a) : e ∈ m := by
  induction m with
  | nil => exact he
  | cons x m ih =>
    obtain ⟨k, w⟩ := x
    simp only [Cells.erase] at he
    split at he <;> grind

/-! ### What a store by a group does (R197, R206 to R211) -/

/-- A cached translation that passes the checks of its leaf is the answer, and changes nothing (R189). -/
theorem translate_cached {s : State} {x : XCtx} {which : Nat} {k : AccKind} {va : W64} {e : TlbEntry} (hva : canonical va = true)
    (hmap : x.cfgmap = false) (hfind : s.tlbFind x which va = some e) (hdirty : leafDirty e.leaf = true)
    (hcheck : s.leafCheck x k e.leaf = none) : s.translate x which k va = (s, .ok ⟨leafPa e.leaf e.level va, e.leaf⟩) := by
  simp [State.translate, hva, hmap, hfind, Option.filter, hdirty, hcheck]

/-- Lanes whose translations change nothing leave the state as it was, each with its own target. -/
theorem translateLanes_unchanged {s : State} {c : Ctx} {k : AccKind} {xl : Nat → Xl} {eas : List (Nat × W64)}
    (hlanes : ∀ e ∈ eas, s.translate (s.xctx c) 1 k e.2 = (s, .ok (xl e.1))) :
    s.translateLanes c k eas = (s, eas.map (fun e => ⟨e.1, e.2, .ok (xl e.1, s.reach c (xl e.1))⟩)) := by
  induction eas with
  | nil => rfl
  | cons e eas ih =>
    obtain ⟨he, heas⟩ := List.forall_mem_cons.mp hlanes
    simp [State.translateLanes, he, ih heas]

/-- Where no stack has a range of its own, no address lies in one (R52). The definition is unfolded as a function: unfolded at an
address, the kernel would go on to compute that address's place. -/
theorem perStackOf_none {s : State} (hstacks : ∀ st, s.perStack st = false) (pa : Nat) : s.perStackOf pa = none := by
  have hdef : State.perStackOf = State.perStackOf := rfl
  conv_rhs at hdef => delta State.perStackOf
  rw [hdef]
  beta_reduce
  generalize s.hbmPlace pa = place
  cases place with
  | none => rfl
  | some e => exact if_neg (by simp [hstacks])

/-- A group of a core reaches memory that lies in no stack's own range (R52, R308). -/
theorem reach_ownMemory {s : State} {c : Ctx} {x : Xl} {die : Nat} (hspot : s.spot x.pa = .memory die) (hcore : s.onRoot c = false)
    (hstack : s.perStackOf x.pa = none) : s.reach c x = .memory die := by
  unfold State.reach
  generalize isHbm x.pa = inHbm
  rw [hspot, hcore, hstack]
  cases inHbm <;> rfl

/-- An `st` without a release that nothing stops performs its lanes' pieces and is counted in STCNT. -/
theorem st_performs {s s1 : State} {c : Ctx} {h : Head} {ty : Ty} {a b : Operand} {m : MemMod} {xs : List LaneXl} {v : View}
    (hclear : s.clear c h { rpt := true, st := true } [addrSlot a, dataSlot ty (countOf m.cnt) b] = true)
    (hview : s.view c h [addrSlot a, dataSlot ty (countOf m.cnt) b] = v)
    (hparks : s.parksOn c (s.addresses v m.off) = false)
    (haligned : misaligned (countOf m.cnt * tyBytes ty) (s.addresses v m.off) = none)
    (hlanes : s.translateLanes c .write (s.addresses v m.off) = (s1, xs)) (htrap : writeTrap v.sup (tyBytes ty) xs = none)
    (htask : s.taskLost s1 c = false) (hgran : s1.behindGranule c (countOf m.cnt * tyBytes ty) (windowParts xs) = false)
    (hord : (m.ord == .rel) = false) (hroom : s1.lacksRoom c true xs = none) :
    exec (.st h ty a b m) s = .next (s.completed ((s1.performStore c (homeLevel m) (m.cp == .strm)
      (s1.pieces v ty (countOf m.cnt) xs)).counted c false [] 0 (requestSectors xs)) c h) := by
  obtain rfl : c = v.c := by rw [← hview]; rfl
  rw [exec_st, execSt]
  refine issue_done hclear ?_
  have hself : s1.taskLost s1 v.c = false := by simp [State.taskLost]
  rw [hview]
  simp [hparks, haligned, hlanes, htrap, htask, hgran, hord, hroom, hself]

/-- One cell that a core's group stores at the home of a line that its L1 does not hold is one write there (R211). -/
theorem writeCells_home {s : State} {c : Ctx} {x : Xl} {off : Nat} {b : Byte} (hcore : s.onRoot c = false)
    (htask : s.specTask c = none) (hl1 : Cells.find (s.proc (s.ctxUnit c)).l1 (x.pa / 128) = none) (strm : Bool) :
    s.writeCells c true strm [(x, off, b)] = s.homeWrite (s.writerOf c) (leafKey x.leaf) (x.pa / 128) [(off, b)] := by
  simp [State.writeCells, State.writeLine, State.atHome, State.bypassL1, List.eraseDups_cons, hcore, htask, hl1]

/-- A store whose pieces all lie in memory is one request for each of their lines (R197). -/
theorem performStore_memory {ps : List Piece} (hmem : ∀ p ∈ ps, p.inMemory = true) (s : State) (c : Ctx) (l2 strm : Bool) :
    s.performStore c l2 strm ps = ((ps.map (fun p => p.x.pa / 128)).eraseDups).foldl (fun t line =>
      if t.specTask c = s.specTask c then t.writeCells c l2 strm (lastCells (cellsIn line ps)) else t) s := by
  have hspad : ps.any Piece.inSpad = false := by
    rw [List.any_eq_false]
    intro p hp
    have := hmem p hp
    cases hsp : p.sp <;> simp_all [Piece.inMemory, Piece.inSpad]
  have hchip : ps.filter (fun p => !p.inMemory) = [] := by
    rw [List.filter_eq_nil_iff]
    intro p hp
    simp [hmem p hp]
  simp only [State.performStore, hspad, hchip, List.filter_eq_self.mpr hmem, Bool.false_eq_true, if_false, List.foldl_nil]

@[simp] theorem issued_mem (s : State) (c : Ctx) (yld : Bool) : (s.issued c yld).mem = s.mem := by
  simp only [State.issued]
  split <;> simp

@[simp] theorem issued_keyOf (s : State) (c : Ctx) (yld : Bool) : (s.issued c yld).keyOf = s.keyOf := by
  simp only [State.issued]
  split <;> simp

@[simp] theorem completed_mem (s t : State) (c : Ctx) (h : Head) : (s.completed t c h).mem = t.mem := by simp [State.completed]

@[simp] theorem completed_keyOf (s t : State) (c : Ctx) (h : Head) : (s.completed t c h).keyOf = t.keyOf := by
  simp [State.completed]

@[simp] theorem counted_mem (s : State) (c : Ctx) (load : Bool) (elems : List PendElem) (blocked : Nat) (sectors : List Nat) :
    (s.counted c load elems blocked sectors).mem = s.mem := onGroup_mem s c _

@[simp] theorem counted_keyOf (s : State) (c : Ctx) (load : Bool) (elems : List PendElem) (blocked : Nat) (sectors : List Nat) :
    (s.counted c load elems blocked sectors).keyOf = s.keyOf := onGroup_keyOf s c _

/-- A line that was last written under slot 0 reads under it as it stands in memory (R204). -/
theorem byteUnder_zero {s : State} {pa : Nat} (hkey : Cells.get 0 s.keyOf (pa / 128) = 0) : s.byteUnder 0 pa = Memory.read s.mem pa := by
  simp [State.byteUnder, State.sameKey, hkey]

/-! ### Room in an L2 (R196, assumption 77) -/

theorem l2Room_roomy {s : State} (hroom : s.l2.length + s.hostLines.length < Config.l2Lines) (d : Nat) : s.l2Room d = s := if_pos hroom

/-- A full L2, all of whose lines have its die for their home, gives up its first line where that is not locked. -/
theorem l2Room_full {s : State} {line d : Nat} {x : L2Line} {r : Cells L2Line} (hl2 : s.l2 = (line, x) :: r)
    (hfull : Config.l2Lines ≤ s.l2.length) (hhome : ∀ e ∈ s.l2, s.homeDie (128 * e.1) = d) (hst : x.st ≠ .lk) :
    s.l2Room d = s.evictL2 line := by
  have hmine : s.l2.filter (fun e => s.inL2 d e.1 e.2.sharers) = (line, x) :: r := by
    rw [List.filter_eq_self.mpr, hl2]
    intro e he
    simp [State.inL2, hhome e he]
  have hline : s.homeDie (128 * line) = d := hhome (line, x) (by simp [hl2])
  have hlen : Config.l2Lines ≤ ((line, x) :: r).length := hl2 ▸ hfull
  rw [State.l2Room, if_neg (by omega)]
  simp only [hmine]
  rw [if_neg (by omega), List.find?_cons_of_pos (by simpa using .inl hst)]
  exact if_pos hline

/-! ### A part whose group has 65 lanes and whose L2 has room for 64 lines -/

/-- A line that its home L2 holds clean under slot 0, and in which the pseudo-channel now holds 1 in byte 0, as a write by a root core
leaves it (R308). -/
def rewritten : L2Line := { st := .cl, dram := 1, dramKey := 0, dramPoison := false }

/-- The lowest `n` lines of HBM, each rewritten. -/
def rewrittenLines (n : Nat) : Cells L2Line := (List.range n).map (fun line => (line, rewritten))

/-- A group of 65 lanes with 4,096 `i` in word `i` of its register stack: with v0 and v1, lane `l` has the address `laneVa l`. -/
def wideGroup : Group :=
  { lanes := List.replicate 65 {}
    regs := (List.range 97).map (fun i => (i, { v := BitVec.ofNat 32 (4096 * i) })) }

/-- The address of a lane: 4,096 `l` in its low word and 4,096 (`l` + 32) in its high one. -/
def laneVa (l : Nat) : W64 := w64 (4096 * (l + 2 ^ 32 * (l + 32)))

/-- The frame of a lane's page, above every rewritten line. -/
def laneFrame (l : Nat) : Nat := 2 ^ 17 + l

/-- The leaf of a lane's page: key slot 0, and the flags VALID, W, U, A and D. -/
def laneLeaf (l : Nat) : W64 := w64 (4096 * laneFrame l + 0xC0B)

/-- The cached translation of a lane's page. -/
def laneEntry (l : Nat) : TlbEntry :=
  { lid := 1, root := 0, vpn := l + 2 ^ 32 * (l + 32), leaf := laneLeaf l, leafPa := 0, level := 1 }

/-- What a lane's address translates to. -/
def laneXl (l : Nat) : Xl := ⟨4096 * laneFrame l, laneLeaf l⟩

/-- The line that a lane stores to. -/
def laneLine (l : Nat) : Nat := 32 * laneFrame l

/-- The piece of a lane's store of a byte 0. -/
def lanePiece (l : Nat) : Piece := ⟨laneXl l, .memory 0, 1, [0]⟩

/-- The group alone in the part and chosen to issue, with some L2 lines and a memory. -/
def crowded (l2 : Cells L2Line) (mem : List Host.Cell) : State := { State.reset with
  sel := some (.grp 0 0), blocks := [{ bid := 0, lid := 1, unit := 0, groups := [wideGroup] }]
  launches := [{ lid := 1, r := {}, img := {}, ptroot := 0, queue := none }]
  units := [(0, { dtlb := (List.range 65).map laneEntry })], l2, mem }

section
variable {l2 : Cells L2Line} {mem : List Host.Cell} {pa line : Nat}

theorem l2_crowded : (crowded l2 mem).l2 = l2 := rfl

theorem hostLines_crowded : (crowded l2 mem).hostLines = [] := rfl

theorem mem_crowded : (crowded l2 mem).mem = mem := rfl

theorem perStack_crowded (st : Nat) : (crowded l2 mem).perStack st = false := by
  have hparts : (crowded l2 mem).parts = [(0, Partition.zero)] := rfl
  simp [State.perStack, hparts, Partition.zero]

theorem stackPchans_crowded (st : Nat) : (crowded l2 mem).stackPchans st = 64 := rfl

theorem dieGib_crowded (d : Nat) : (crowded l2 mem).dieGib d = 256 := by
  simp only [State.dieGib, stackPchans_crowded]

theorem hbmBacked_crowded : (crowded l2 mem).hbmBacked pa = decide (pa % 2 ^ 38 < 256 * 2 ^ 30) := by
  have halive : (crowded l2 mem).dieAlive (pa / 2 ^ 38) = true := rfl
  have hdead : (crowded l2 mem).dead.isEmpty = true := rfl
  simp only [State.hbmBacked, dieGib_crowded, halive, hdead, Bool.true_or, Bool.and_true]

theorem spot_crowded (hpa : pa < 2 ^ 38) : (crowded l2 mem).spot pa = .memory 0 := by
  have hbacked : (crowded l2 mem).hbmBacked pa = true := by
    rw [hbmBacked_crowded, decide_eq_true_eq]
    omega
  rw [State.spot, if_pos (by omega), if_pos hbacked, Nat.div_eq_of_lt hpa]

theorem homeDie_crowded (hline : line < 2 ^ 31) : (crowded l2 mem).homeDie (128 * line) = 0 := by
  rw [State.homeDie, spot_crowded (by omega)]

theorem onRoot_crowded : (crowded l2 mem).onRoot (.grp 0 0) = false := by
  have hunit : (crowded l2 mem).ctxUnit (.grp 0 0) = 0 := rfl
  rw [State.onRoot, hunit]
  rfl

theorem reach_crowded {x : Xl} (hpa : x.pa < 2 ^ 38) : (crowded l2 mem).reach (.grp 0 0) x = .memory 0 :=
  reach_ownMemory (spot_crowded hpa) onRoot_crowded (perStackOf_none perStack_crowded x.pa)

theorem homeBad_crowded : (crowded l2 mem).homeBad line = false := by
  have hpoison : (crowded l2 mem).poison = [] := rfl
  have hcolErr : (crowded l2 mem).colErr = [] := rfl
  simp [State.homeBad, State.badColumn, hpoison, hcolErr]

theorem mergeBad_crowded (w : Writer) (cs : List (Nat × Byte)) : (crowded l2 mem).mergeBad w line cs = crowded l2 mem := by
  simp [State.mergeBad, homeBad_crowded]

/-- The L2 of the part, once full, gives up a rewritten first line: what the pseudo-channel holds is then read at its home. -/
theorem l2Room_crowded_full (hfull : l2.length + 1 = Config.l2Lines) (hlines : ∀ e ∈ l2, e.1 < 2 ^ 31) :
    (crowded ((0, rewritten) :: l2) mem).l2Room 0 = crowded (Cells.erase l2 0) (putCells mem 0 (lineCells 1)) := by
  rw [l2Room_full (s := crowded ((0, rewritten) :: l2) mem) (line := 0) (x := rewritten) (r := l2) rfl hfull.ge ?home (by decide)]
  case home =>
    intro e he
    refine homeDie_crowded ?_
    rcases List.mem_cons.mp he with rfl | he
    · decide
    · exact hlines e he
  rfl

variable {m : Cells L2Line} {mem' : List Host.Cell}

/-- The line of a write becomes newer than memory in the L2, once that has made room for it (R261). -/
theorem dirtyL2_crowded (hline : line < 2 ^ 31) (hnew : Cells.find l2 line = none) (hroom : (crowded l2 mem).l2Room 0 = crowded m mem')
    (hgone : Cells.find m line = none) :
    ∃ x, (crowded l2 mem).dirtyL2 line = crowded (Cells.set m line x) mem' ∧ x.hostHalves = 0 := by
  have hl2 : Cells.find (crowded l2 mem).l2 line = none := hnew
  have hm : Cells.find (crowded m mem').l2 line = none := hgone
  refine ⟨{ (crowded m mem').beneath line with st := .dt, sharers := 0 }, ?_, ?_⟩
  · simp only [State.dirtyL2, hl2, Option.isSome_none, Bool.false_eq_true, if_false, homeDie_crowded hline, hroom, State.beneath, hm]
    rfl
  · simp [State.beneath, hm]

/-- A byte written at the home of a line that the L2 does not hold takes the place of a line there. -/
theorem homeWrite_crowded (hline : line < 2 ^ 31) (hnew : Cells.find l2 line = none)
    (hroom : (crowded l2 mem).l2Room 0 = crowded m mem') (hgone : Cells.find m line = none) (w : Writer) :
    ∃ x, (crowded l2 mem).homeWrite w 0 line [(0, 0#8)] = crowded (Cells.set m line x) (Memory.write mem' (128 * line) 0) := by
  obtain ⟨x, hdirty, hhalves⟩ := dirtyL2_crowded hline hnew hroom hgone
  have hsettle : (crowded l2 mem).settleKey 0 line = crowded l2 mem := by
    have hl2 : Cells.find (crowded l2 mem).l2 line = none := hnew
    simp [State.settleKey, hl2]
  have hloses : (crowded (Cells.set m line x) mem').hostLoses line [(0, 0#8)] = crowded (Cells.set m line x) mem' := by
    have hfind : Cells.find (crowded (Cells.set m line x) mem').l2 line = some x := cellsFind_set_same m line x
    simp [State.hostLoses, hfind, hhalves]
  have hstate : (crowded l2 mem).writeState 0 line [(0, 0#8)] = crowded (Cells.set m line x) mem' := by
    have hhost : isHostWin (128 * line) = false := by simp [isHostWin]; omega
    have hpeer : isPeerWin (128 * line) = false := by simp [isPeerWin]; omega
    simp only [State.writeState, hhost, hpeer, hsettle, hdirty, hloses, Bool.false_eq_true, if_false]
  have hput : (crowded l2 mem).homePut w 0 line [(0, 0#8)] = crowded (Cells.set m line x) (Memory.write mem' (128 * line) 0) := by
    simp only [State.homePut, mergeBad_crowded, hstate]
    rfl
  have hfirst : (crowded l2 mem).firstTouch line (coversLine [(0, 0#8)]) = crowded l2 mem := rfl
  refine ⟨x, ?_⟩
  simp only [State.homeWrite, hfirst, hput]
  rfl

end

/-! ### Lines stored to one after another -/

/-- Every line of a table lies in the range of die 0, and none is among `lines`. -/
def LeavesOut (lines : List Nat) (l2 : Cells L2Line) : Prop := ∀ e ∈ l2, e.1 < 2 ^ 31 ∧ e.1 ∉ lines

/-- What one line's part of a store of bytes 0 does in the part, for the lines of a list. -/
def StoresByte (f : State → Nat → State) (lines : List Nat) : Prop :=
  ∀ line ∈ lines, 0 < line ∧ line < 2 ^ 31
    ∧ ∀ l2 mem, f (crowded l2 mem) line = (crowded l2 mem).homeWrite .other 0 line [(0, 0#8)]

section
variable {f : State → Nat → State} {l2 : Cells L2Line} {line : Nat} {lines : List Nat}

theorem find_rewritten_cons (hpos : 0 < line) (habsent : ∀ e ∈ l2, e.1 ≠ line) : Cells.find ((0, rewritten) :: l2) line = none := by
  refine cellsFind_absent (List.forall_mem_cons.mpr ⟨?_, habsent⟩)
  exact hpos.ne

theorem set_rewritten_cons (hpos : 0 < line) (x : L2Line) :
    Cells.set ((0, rewritten) :: l2) line x = (0, rewritten) :: Cells.set l2 line x := by
  simp [Cells.set, hpos.ne']

/-- While the L2 has room, each line stored to takes one more place in it, and the rewritten first line stays. -/
theorem foldl_stores_roomy (hf : StoresByte f lines) (hnodup : lines.Nodup) (hout : LeavesOut lines l2)
    (hroom : l2.length + lines.length < Config.l2Lines) :
    ∃ m, lines.foldl f (crowded ((0, rewritten) :: l2) []) = crowded ((0, rewritten) :: m) [] ∧ m.length = l2.length + lines.length
      ∧ ∀ e ∈ m, e.1 ∈ lines ∨ e ∈ l2 := by
  induction lines generalizing l2 with
  | nil => exact ⟨l2, rfl, rfl, fun e he => .inr he⟩
  | cons line lines ih =>
    obtain ⟨⟨hpos, hline, hstep⟩, hrest⟩ := List.forall_mem_cons.mp hf
    obtain ⟨hfresh, hnodup⟩ := List.nodup_cons.mp hnodup
    have habsent : ∀ e ∈ l2, e.1 ≠ line := fun e he heq => (hout e he).2 (heq ▸ List.mem_cons_self)
    have hfind := find_rewritten_cons hpos habsent
    have hroomy : (crowded ((0, rewritten) :: l2) []).l2Room 0 = crowded ((0, rewritten) :: l2) [] := by
      refine l2Room_roomy ?_ 0
      change l2.length + 1 + 0 < _
      rw [List.length_cons] at hroom
      omega
    obtain ⟨x, hx⟩ := homeWrite_crowded hline hfind hroomy hfind .other
    have hstored : f (crowded ((0, rewritten) :: l2) []) line = crowded ((0, rewritten) :: Cells.set l2 line x) [] := by
      rw [hstep, hx, set_rewritten_cons hpos]
      rfl
    have hlength := length_cellsSet_absent x habsent
    have hout' : LeavesOut lines (Cells.set l2 line x) := by
      intro e he
      rcases mem_cellsSet he with rfl | he
      · exact ⟨hline, hfresh⟩
      · exact ⟨(hout e he).1, fun hmem => (hout e he).2 (List.mem_cons_of_mem line hmem)⟩
    obtain ⟨m, hm, hmlength, hmlines⟩ := ih hrest hnodup hout' (by rw [hlength]; rw [List.length_cons] at hroom; omega)
    refine ⟨m, ?_, ?_, ?_⟩
    · rw [List.foldl_cons, hstored, hm]
    · rw [hmlength, hlength, List.length_cons]
      omega
    · intro e he
      rcases hmlines e he with hmem | hmem
      · exact .inl (List.mem_cons_of_mem line hmem)
      · rcases mem_cellsSet hmem with rfl | hmem
        · exact .inl List.mem_cons_self
        · exact .inr hmem

theorem read_rewritten : Memory.read (putCells [] 0 (lineCells 1)) 0 = 1 := by decide +kernel

/-- In a full L2 a line stored to takes the place of the rewritten first line, which is then read as the pseudo-channel holds it. -/
theorem store_full (hf : StoresByte f [line]) (hout : LeavesOut [line] l2) (hfull : l2.length + 1 = Config.l2Lines) :
    (f (crowded ((0, rewritten) :: l2) []) line).keyOf = []
      ∧ Memory.read (f (crowded ((0, rewritten) :: l2) []) line).mem 0 = 1 := by
  obtain ⟨hpos, hline, hstep⟩ := hf line List.mem_cons_self
  have habsent : ∀ e ∈ l2, e.1 ≠ line := fun e he heq => (hout e he).2 (heq ▸ List.mem_cons_self)
  obtain ⟨x, hx⟩ := homeWrite_crowded hline (find_rewritten_cons hpos habsent)
    (l2Room_crowded_full hfull (fun e he => (hout e he).1))
    (cellsFind_absent (fun e he => habsent e (mem_of_cellsErase he))) .other
  rw [hstep, hx]
  refine ⟨rfl, ?_⟩
  rw [mem_crowded, Memory.read_write_other _ _ (by omega)]
  exact read_rewritten

end

/-! ### The store -/

/-- Guard p7, no hint and no modifier. -/
def plainHead : Head := headOf ⟨false, .rn, false, false, false⟩

/-- One element in each lane, stored at its home. -/
def atL2 : MemMod := ⟨0, .l2, .one, .grp, .none⟩

/-- The operand slots of `st.n8` with v0 for its addresses and 0 for its data. -/
abbrev wideSlots : List Slot := [addrSlot (.v 0), dataSlot .n8 (countOf atL2.cnt) (.k 0)]

/-- The part with an L2 that has room for 64 lines, and a memory that reads 0. -/
def nearlyFull : State := crowded (rewrittenLines (Config.l2Lines - 64)) []

/-- The lanes with the targets of their addresses. -/
def laneTargets : List LaneXl := (List.range 65).map (fun l => ⟨l, laneVa l, .ok (laneXl l, .memory 0)⟩)

theorem clear_nearlyFull : nearlyFull.clear (.grp 0 0) plainHead { rpt := true, st := true } wideSlots = true := by decide +kernel

theorem addresses_nearlyFull : nearlyFull.addresses (nearlyFull.view (.grp 0 0) plainHead wideSlots) atL2.off =
    (List.range 65).map (fun l => (l, laneVa l)) := by decide +kernel

theorem tlbFind_nearlyFull : ∀ l < 65, nearlyFull.tlbFind (nearlyFull.xctx (.grp 0 0)) 1 (laneVa l) = some (laneEntry l) := by
  decide +kernel

theorem laneEntry_grants : ∀ l < 65, canonical (laneVa l) = true ∧ leafDirty (laneEntry l).leaf = true
    ∧ nearlyFull.leafCheck (nearlyFull.xctx (.grp 0 0)) .write (laneEntry l).leaf = none
    ∧ leafPa (laneEntry l).leaf (laneEntry l).level (laneVa l) = (laneXl l).pa := by decide +kernel

theorem translate_nearlyFull {l : Nat} (hl : l < 65) :
    nearlyFull.translate (nearlyFull.xctx (.grp 0 0)) 1 .write (laneVa l) = (nearlyFull, .ok (laneXl l)) := by
  obtain ⟨hva, hdirty, hcheck, hpa⟩ := laneEntry_grants l hl
  rw [translate_cached hva rfl (tlbFind_nearlyFull l hl) hdirty hcheck, hpa]
  rfl

theorem reach_laneXl {l : Nat} (hl : l < 65) : nearlyFull.reach (.grp 0 0) (laneXl l) = .memory 0 := by
  refine reach_crowded ?_
  simp only [laneXl, laneFrame]
  omega

theorem translateLanes_nearlyFull : nearlyFull.translateLanes (.grp 0 0) .write ((List.range 65).map (fun l => (l, laneVa l))) =
    (nearlyFull, laneTargets) := by
  rw [translateLanes_unchanged (xl := laneXl) ?cached, List.map_map, laneTargets]
  case cached =>
    intro e he
    obtain ⟨l, hl, rfl⟩ := List.mem_map.mp he
    exact translate_nearlyFull (List.mem_range.mp hl)
  refine congrArg (nearlyFull, ·) (List.map_congr_left fun l hl => ?_)
  exact congrArg (fun sp => LaneXl.mk l (laneVa l) (.ok (laneXl l, sp))) (reach_laneXl (List.mem_range.mp hl))

theorem translateLanes_addresses : nearlyFull.translateLanes (.grp 0 0) .write
    (nearlyFull.addresses (nearlyFull.view (.grp 0 0) plainHead wideSlots) atL2.off) = (nearlyFull, laneTargets) :=
  addresses_nearlyFull ▸ translateLanes_nearlyFull

theorem pieces_nearlyFull : nearlyFull.pieces (nearlyFull.view (.grp 0 0) plainHead wideSlots) .n8 (countOf atL2.cnt) laneTargets =
    (List.range 65).map lanePiece := by
  simp only [State.pieces, laneTargets, List.filterMap_map]
  exact congrFun (List.filterMap_eq_map (f := lanePiece)) _

/-- The store parks on nothing, is aligned, is refused at no target, and finds no granule access before it and room for its requests. -/
theorem passes_nearlyFull :
    nearlyFull.parksOn (.grp 0 0) (nearlyFull.addresses (nearlyFull.view (.grp 0 0) plainHead wideSlots) atL2.off) = false
    ∧ misaligned (countOf atL2.cnt * tyBytes .n8)
        (nearlyFull.addresses (nearlyFull.view (.grp 0 0) plainHead wideSlots) atL2.off) = none
    ∧ writeTrap false (tyBytes .n8) laneTargets = none
    ∧ nearlyFull.behindGranule (.grp 0 0) (countOf atL2.cnt * tyBytes .n8) (windowParts laneTargets) = false
    ∧ nearlyFull.lacksRoom (.grp 0 0) true laneTargets = none := by
  simp only [← Option.isNone_iff_eq_none]
  decide +kernel

theorem room_nearlyFull : nearlyFull.l2.length + nearlyFull.hostLines.length + 64 ≤ Config.l2Lines := by
  have hroom : 64 ≤ Config.l2Lines := by decide
  rw [nearlyFull, l2_crowded, hostLines_crowded, rewrittenLines, List.length_map, List.length_range, List.length_nil]
  omega

/-- The lanes store to 65 lines, each lane to one of its own. -/
theorem lines_lanePieces : (((List.range 65).map lanePiece).map (fun p => p.x.pa / 128)).eraseDups = (List.range 65).map laneLine := by
  decide +kernel

theorem cellsIn_laneLine : ∀ l < 65, leafKey (laneLeaf l) = 0
    ∧ lastCells (cellsIn (laneLine l) ((List.range 65).map lanePiece)) = [(laneXl l, 0, 0#8)] := by decide +kernel

/-- One lane's part of the store, as `State.performStore` takes it. -/
def storeLine (t : State) (line : Nat) : State :=
  if t.specTask (.grp 0 0) = nearlyFull.specTask (.grp 0 0) then
    t.writeCells (.grp 0 0) true false (lastCells (cellsIn line ((List.range 65).map lanePiece)))
  else t

theorem storesByte_storeLine : StoresByte storeLine ((List.range 65).map laneLine) := by
  intro line hline
  obtain ⟨l, hmem, rfl⟩ := List.mem_map.mp hline
  have hl := List.mem_range.mp hmem
  obtain ⟨hkey, hcells⟩ := cellsIn_laneLine l hl
  refine ⟨by simp [laneLine, laneFrame], by simp only [laneLine, laneFrame]; omega, fun l2 mem => ?_⟩
  have htask (l2 : Cells L2Line) (mem : List Host.Cell) : (crowded l2 mem).specTask (.grp 0 0) = none := rfl
  have hwriter : (crowded l2 mem).writerOf (.grp 0 0) = .other := rfl
  have hplace : (laneXl l).pa / 128 = laneLine l := by
    simp only [laneXl, laneLine]
    omega
  have hleaf : leafKey (laneXl l).leaf = 0 := hkey
  rw [storeLine, nearlyFull, if_pos ((htask _ _).trans (htask _ _).symm), hcells,
    writeCells_home onRoot_crowded (htask l2 mem) rfl, hwriter, hleaf, hplace]

theorem performStore_nearlyFull : nearlyFull.performStore (.grp 0 0) true false ((List.range 65).map lanePiece) =
    ((List.range 65).map laneLine).foldl storeLine nearlyFull := by
  rw [performStore_memory ?inMemory, lines_lanePieces]
  case inMemory =>
    intro p hp
    obtain ⟨l, -, rfl⟩ := List.mem_map.mp hp
    rfl
  rfl

theorem nodup_laneLines (n : Nat) : ((List.range n).map laneLine).Nodup := by
  refine List.Nodup.map ?_ List.nodup_range
  intro i j hij
  simp only [laneLine, laneFrame] at hij
  omega

/-- The rewritten lines after line 0. -/
def otherLines (n : Nat) : Cells L2Line := (List.range n).map (fun k => (k + 1, rewritten))

theorem length_otherLines (n : Nat) : (otherLines n).length = n := by rw [otherLines, List.length_map, List.length_range]

theorem rewrittenLines_succ (n : Nat) : rewrittenLines (n + 1) = (0, rewritten) :: otherLines n := by
  simp [rewrittenLines, otherLines, List.range_succ_eq_map]

theorem l2Lines_eq : Config.l2Lines = 3067840 := rfl

theorem nearlyFull_eq : nearlyFull = crowded ((0, rewritten) :: otherLines (Config.l2Lines - 65)) [] := by
  have hsucc : Config.l2Lines - 64 = Config.l2Lines - 65 + 1 := by decide
  rw [nearlyFull, hsucc, rewrittenLines_succ]

theorem leavesOut_otherLines (n : Nat) : LeavesOut ((List.range n).map laneLine) (otherLines (Config.l2Lines - 65)) := by
  intro e he
  obtain ⟨k, hmem, rfl⟩ := List.mem_map.mp he
  have hk := List.mem_range.mp hmem
  rw [l2Lines_eq] at hk
  refine ⟨by dsimp only; omega, fun hline => ?_⟩
  obtain ⟨l, -, hl⟩ := List.mem_map.mp hline
  simp only [laneLine, laneFrame] at hl
  omega

theorem laneLines_split : (List.range 65).map laneLine = (List.range 64).map laneLine ++ [laneLine 64] := by
  rw [List.range_succ, List.map_append]
  rfl

/-- The lines of 64 lanes fill the L2. -/
theorem storeLines_fill : ∃ m, ((List.range 64).map laneLine).foldl storeLine nearlyFull = crowded ((0, rewritten) :: m) []
    ∧ m.length + 1 = Config.l2Lines ∧ LeavesOut [laneLine 64] m := by
  have hsteps := storesByte_storeLine
  have hout := leavesOut_otherLines 65
  have hnodup := nodup_laneLines 65
  have hlanes : ((List.range 64).map laneLine).length = 64 := by rw [List.length_map, List.length_range]
  rw [laneLines_split] at hsteps hout hnodup
  obtain ⟨m, hm, hlength, hlines⟩ := foldl_stores_roomy (fun line hline => hsteps line (List.mem_append_left _ hline))
    (nodup_laneLines 64) (leavesOut_otherLines 64) (by rw [length_otherLines, hlanes, l2Lines_eq]; omega)
  refine ⟨m, by rw [nearlyFull_eq, hm], by rw [hlength, length_otherLines, hlanes, l2Lines_eq], fun e he => ?_⟩
  rcases hlines e he with hline | hother
  · exact ⟨(hsteps e.1 (List.mem_append_left _ hline)).2.1, List.disjoint_of_nodup_append hnodup hline⟩
  · exact ⟨(hout e hother).1, fun hlast => (hout e hother).2 (List.mem_append_right _ hlast)⟩

/-- The line of the last lane takes the place of line 0, whose byte 0 then reads 1. -/
theorem storeLines_rewrite : (((List.range 65).map laneLine).foldl storeLine nearlyFull).keyOf = []
    ∧ Memory.read (((List.range 65).map laneLine).foldl storeLine nearlyFull).mem 0 = 1 := by
  obtain ⟨m, hm, hfull, hlast⟩ := storeLines_fill
  have hstep : StoresByte storeLine [laneLine 64] := by
    intro line hline
    refine storesByte_storeLine line ?_
    rw [laneLines_split]
    exact List.mem_append_right _ hline
  rw [laneLines_split, List.foldl_append, hm, List.foldl_cons, List.foldl_nil]
  exact store_full hstep hlast hfull

/-- `st.n8` of 0 to the addresses in v0, performed at the homes. -/
def wideStore : Instr := .st plainHead .n8 (.v 0) (.k 0) atL2

theorem exec_wideStore : exec wideStore nearlyFull = .next (nearlyFull.completed
    ((((List.range 65).map laneLine).foldl storeLine nearlyFull).counted (.grp 0 0) false [] 0 (requestSectors laneTargets))
    (.grp 0 0) plainHead) := by
  obtain ⟨hparks, haligned, htrap, hgran, hroom⟩ := passes_nearlyFull
  rw [← performStore_nearlyFull, ← pieces_nearlyFull]
  exact st_performs clear_nearlyFull rfl hparks haligned translateLanes_addresses htrap (by simp [State.taskLost]) hgran rfl hroom

/-- The store leaves byte 0 of line 0, which no lane stores to, reading 1. -/
theorem wideStore_rewrites : ∃ t, exec wideStore nearlyFull = .next t ∧ t.byteUnder 0 0 = 1 := by
  obtain ⟨hkeyOf, hmem⟩ := storeLines_rewrite
  refine ⟨_, exec_wideStore, ?_⟩
  rw [byteUnder_zero, completed_mem, counted_mem, hmem]
  rw [completed_keyOf, counted_keyOf, hkeyOf]
  rfl

theorem laneTargets_apart {z : LaneXl} (hz : z ∈ laneTargets) {x : Xl} {sp : Spot} (hx : z.r = .ok (x, sp)) :
    0 < x.pa ∧ leafKey x.leaf = 0 := by
  obtain ⟨l, hl, rfl⟩ := List.mem_map.mp hz
  obtain ⟨rfl, -⟩ := Prod.mk.inj (Except.ok.inj hx)
  exact ⟨by simp [laneXl, laneFrame], (cellsIn_laneLine l (List.mem_range.mp hl)).1⟩

/-- Refutes O60: the room for 64 lines that its premise gives the home L2 is not enough for the 65 lanes of `wideGroup`, and nothing in
the statement bounds a group's lanes, of which a part's groups have 32 at most. The L2 gives up line 0, clean there and since rewritten
by a root core, so that its byte 0 reads 1 at its home where it read 0, though no lane stores to it. -/
theorem not_storesKeepTheRest : ¬ Obligations.StoresKeepTheRest := by
  intro hframe
  obtain ⟨t, hexec, hbyte⟩ := wideStore_rewrites
  obtain ⟨hparks, haligned, htrap, hgran, hroom⟩ := passes_nearlyFull
  have hst := (hframe nearlyFull t 0 0 plainHead .n8 (.v 0) (.k 0)).2 atL2
  simp only [translateLanes_addresses] at hst
  obtain ⟨hkeeps, -⟩ := hst clear_nearlyFull haligned htrap hparks hgran rfl hroom (List.forall_mem_nil _) room_nearlyFull rfl
    (List.forall_mem_nil _) hexec
  have hzero : t.byteUnder 0 0 = nearlyFull.byteUnder 0 0 := by
    refine hkeeps 0 0 (fun z hz x sp hx => ?_)
    obtain ⟨hpa, hkey⟩ := laneTargets_apart hz hx
    exact ⟨by omega, fun _ => hkey⟩
  rw [hbyte, byteUnder_zero rfl] at hzero
  exact absurd hzero (by decide)

end Sys2Proof.Proofs
